-- ==== Sys2Proof/Word.lean ====
section
/-! DEFINITION. Word.lean: the word and byte types of the device, and nothing else. -/

namespace Sys2Proof

/-- One byte: the smallest unit that memory and device-defined structures address (R6, R236). -/
abbrev Byte := BitVec 8

/-- One 32-bit word: the width of every internal register and of every Cuwif-32 register (R236, Table 2.7). -/
abbrev Word := BitVec 32

end Sys2Proof
end

