-- ==== Sys2Proof/Syntax.lean ====
section
/-! DEFINITION. Syntax.lean: the commands of the block, one constructor for each row of the table of operations and events,
and the types of their operands. The table gives no operands: those below are read from the requirement that governs each row.
An outcome that the world outside the silicon decides (a NAND failure, what a host buffer holds, whether a retry passes) is
an operand. -/

namespace Sys2Proof

/-- A PCIe function: the port, 0 for A and 1 for B, and the function number, 0 for the PF and k for VF k (R57, R59). -/
structure FnId where
  port : Fin 2
  num  : Fin 128
  deriving DecidableEq, Repr

/-- A tile (R11). -/
abbrev TileId := Fin 8

/-- A hardware thread: core 8 is the tile steward, which has one thread, 0 (R234, chapter 11). -/
structure ThrId where
  tile : Fin 8
  core : Fin 9
  thr  : Fin 2
  deriving DecidableEq, Repr

/-- A register number of Cuwif-32. -/
abbrev Reg := Fin 32

/-- What the checker finds on a word that an operation reads: nothing, one bad bit of its 72, an uncorrectable error, or a
parity error in the tag of the L2 way (R307, R310). -/
inductive Ecc where
  | clean
  | ce (bit : Fin 72)
  | ue
  | tag
  deriving DecidableEq, Repr

/-- The size of a generator access (R268). -/
inductive AccSize where
  | b | h | w
  deriving DecidableEq, Repr

/-- The status of an NVMe completion (Table 3.8 and the NVMe codes that the manual names). -/
inductive NvmeStatus where
  | success | invalidOpcode | invalidField | dataTransferError | internalError | abortRequested | invalidNamespace
  | commandSequenceError | dataSglLengthInvalid | invalidPrpOffset | operationDenied | writeProtected | lbaOutOfRange
  | capacityExceeded | notReady | sessionInvalid | imageInvalid | outputExhausted | compressVerifyFailed | indexNotReady
  | peerUnavailable | quotaExceeded | sachetFault | keyLost | unrecoveredRead | compareFailure | guardCheck | appTagCheck
  | refTagCheck | invalidFormat | insufficientCapacity | namespaceIdUnavailable | namespaceAlreadyAttached
  | namespaceNotAttached | invalidQueueIdentifier | invalidQueueSize | completionQueueInvalid | invalidQueueDeletion
  | asyncLimitExceeded | invalidInterruptVector | invalidLogPage | featureNotSaveable
  | invalidFirmwareSlot | invalidFirmwareImage | invalidControllerId | invalidResourceCount
  | invalidSecondaryState | firmwareNeedsReset | thinProvisioning | controllerListInvalid
  deriving DecidableEq, Repr

/-- What the host's data pointer describes (Table 3.10): an SGL of `len` bytes with `metaLen` bytes of metadata, or PRP
entries, and what a transfer through it meets. -/
structure DataPtr where
  sgl           : Bool
  len           : Nat
  metaLen       : Nat
  prpOffsetBad  : Bool
  transferError : Bool
  deriving DecidableEq, Repr

/-- A submission queue entry as the device fetches it, with what host memory holds where it points: the data at DPTR, the
metadata, and the 128-byte command parameter block at MPTR (R67, Table 3.6). -/
structure Sqe where
  opc   : Byte
  fuse  : BitVec 2
  nsid  : Word
  cdw2  : Word
  cdw3  : Word
  mptr  : BitVec 64
  cdw10 : Word
  cdw11 : Word
  cdw12 : Word
  cdw13 : Word
  cdw14 : Word
  cdw15 : Word
  dptr  : DataPtr
  data  : List Byte
  md    : List Byte
  cpb   : List Byte
  deriving DecidableEq, Repr

/-- The name of one command: the controller's function, the submission queue and the command identifier. -/
structure CmdKey where
  fn  : FnId
  sq  : Nat
  cid : BitVec 16
  deriving DecidableEq, Repr

/-- A controller that offers the entry at the head of one of its submission queues to the fetch arbiter (R59). -/
structure FetchCand where
  key  : CmdKey
  sqe  : Sqe
  desc : Ecc
  deriving DecidableEq, Repr

/-- What the media give a command: the grains (tile, NSX, tile-local index) that neither the ladder nor RAIN recovers
(Table 4.2), the map pages (tile, level, NSX, index) that neither recovers (R90), among them at
level 3 the pages (tile, 3, run, page) of index runs (R204), the saddlebag slot addresses whose content fails its
seal check, and those that a PCIe error or poisoned data meets (R97). -/
structure MediaEnv where
  bad    : List (Nat × Nat × Nat)
  maps   : List (Nat × Nat × Nat × Nat)
  tamper : List Nat
  poison : List Nat
  deriving DecidableEq, Repr

/-- The write streams of a tile (Table 5.2). -/
inductive WriteStream where
  | host | cold | mapMeta | alt
  deriving DecidableEq, Repr

/-- A quad: the block with one number in all four planes of one LUN of one channel (R108). -/
structure QuadId where
  chan  : Nat
  lun   : Nat
  block : Nat
  deriving DecidableEq, Repr

/-- What one read operation meets on the array (R151 to R154). -/
structure LadderEnv where
  /-- The ladder step at which the last selected codeword decodes: 0 for the first hard decode, none when every step fails. -/
  okStep : Option Nat
  /-- A soft decode recovered it. -/
  soft   : Bool
  /-- The failing codewords when every step fails, laid out as CWMASK. -/
  mask   : Nat
  /-- Codewords with at least one bit corrected by the first hard decode. -/
  fixed  : Nat
  /-- The largest count of bits corrected in one codeword. -/
  bits   : Nat
  deriving DecidableEq, Repr

/-- The parameter page of a LUN as the checks of Table 6.2 see it. -/
structure ParamPage where
  /-- A redundant copy whose CRC checks is present. -/
  crcOk     : Bool
  /-- NV-LPDDR4 or NV-DDR3 is listed. -/
  iface     : Bool
  dataBytes : Nat
  spare     : Nat
  planes    : Nat
  pages     : Nat
  blocks    : Nat
  lunsPerCe : Nat
  /-- A NAND profile exists for the model (R143). -/
  profile   : Bool
  /-- The page's bytes, as delivered. -/
  bytes     : List Byte
  deriving DecidableEq, Repr

/-- The classes of interface fault (Table 6.7). -/
inductive IfaceClass where
  | dpar | rdyto | featrb | train | zq
  deriving DecidableEq, Repr

/-- How one attempt of a training run ends (R145). -/
structure TrainResult where
  /-- A DCC, read DQ or write DQ step failed. -/
  stepFail : Bool
  /-- The LUN whose ZQ calibration failed. -/
  zqFail   : Option (Fin 16)
  /-- The narrowest read eye in 1/64 unit interval. -/
  rdWin    : Nat
  /-- The narrowest write eye. -/
  wrWin    : Nat
  /-- The DQ line with the narrowest eye. -/
  worst    : Nat
  deriving DecidableEq, Repr

/-- What the verify decompressor finds on the first and the second attempt (R163). -/
structure VerifyEnv where
  first  : Bool
  second : Bool
  deriving DecidableEq, Repr

/-- What the boot ROM finds on a boot channel: a boot profile record, none that checks (R159), or a channel that cannot be read
(R433). -/
inductive BootRead where
  | ok | noRecord | dead
  deriving DecidableEq, Repr

/-- The engines whose parity checkers retry once (R420). -/
inductive Engine where
  | xts (c : Fin 2) | sft (c : Fin 2) | cmp | idx | cqe | dge
  deriving DecidableEq, Repr

/-- The sensors of the security complex (R341). -/
inductive Sensor where
  | voltage | clock | temperature | shield | faultInjection
  deriving DecidableEq, Repr

/-- Where an LMCS request came from (Table 2.6): a mailbox, an admin queue with its TAG, or a sideband endpoint. -/
inductive Carrier where
  | mailbox (f : FnId) (m : Fin 16)
  | admin (f : FnId) (tag : BitVec 16)
  | mctp (eid : Byte)
  deriving DecidableEq, Repr

/-- An LMCS message (Table 2.3). `payload` is what the carrier delivered after the header (R35). -/
structure LmcsMsg where
  opcode  : BitVec 16
  version : Byte
  flags   : Byte
  tag     : BitVec 16
  status  : BitVec 16
  length  : Nat
  session : Word
  payload : List Byte
  deriving DecidableEq, Repr

/-- A request with the carrier that it came by. -/
structure Req where
  car : Carrier
  msg : LmcsMsg
  deriving DecidableEq, Repr

/-- A rein frame that the receiver takes, its HCRC checked: the header fields of Table 19.5 beside TYPE, and the payload. -/
structure Frame where
  flags   : Byte
  seq     : Word
  ack     : Word
  epoch   : BitVec 16
  payload : List Byte
  deriving DecidableEq, Repr

/-- What is wrong with a frame (Table 19.7): CRC-32C, LEN, TYPE or a reserved bit, a gap in SEQ, a mark missed on some lane, or
HCRC. -/
inductive FrameFault where
  | crc | len | type | gap | mark | hcrc
  deriving DecidableEq, Repr

/-- The commands of the block: one constructor for each row of the table of operations and events. -/
inductive Instr where
  | pwrokRise
  | pwrokFall (lowNs : Nat)
  | supplyCollapse (lowNs : Nat)
  | supplyDip (millivolts : Nat)
  | perstN
  | selfTestComplete (t : TileId) (failedBanks : List (Fin 48)) (checkerOk : Bool)
  | bootSelect (fc000 fc016 : BootRead)
  | configStoreLoad (checks : Bool × Bool)
  | mapRecoveryRead (t : TileId) (rootOk : Bool × Bool)
  | firstSweep (t : TileId)
  | modeSelect (profileMaxUs : Nat)
  | cstsRdySet
  | secondSweep (t : TileId)
  | restoredFragmentProgram (t : TileId)
  | startupDeadline (t : TileId)
  | tileFailure (t : TileId)
  | ccEn (f : FnId)
  | controllerReset (f : FnId)
  | functionLevelReset (f : FnId)
  | doorbellWrite (f : FnId) (index : Fin 8192) (value : BitVec 16)
  | commandFetch (port : Fin 2) (ready : List FetchCand)
  | fragmentStaged (k : CmdKey) (t : TileId)
  | fragmentComplete (k : CmdKey) (t : TileId) (stat : NvmeStatus)
  | read (k : CmdKey) (env : MediaEnv)
  | write (k : CmdKey)
  | flush (k : CmdKey)
  | writeZeroes (k : CmdKey)
  | datasetManagement (k : CmdKey)
  | compare (k : CmdKey) (env : MediaEnv)
  | scan (k : CmdKey) (env : MediaEnv)
  | lookup (k : CmdKey) (env : MediaEnv)
  | range (k : CmdKey) (env : MediaEnv)
  | materialize (k : CmdKey) (env : MediaEnv)
  | run (k : CmdKey) (h : ThrId)
  | abort (k : CmdKey) (e : Sqe) (abortWins : Bool)
  | lmcsSend (k : CmdKey) (e : Sqe)
  | lmcsReceive (k : CmdKey) (e : Sqe)
  | identifyCommand (k : CmdKey) (e : Sqe)
  | getLogPage (k : CmdKey) (e : Sqe)
  | getFeatures (k : CmdKey) (e : Sqe)
  | setFeatures (k : CmdKey) (e : Sqe)
  | setFeaturesNumberOfQueues (k : CmdKey) (e : Sqe)
  | setFeaturesHostMemoryBuffer (k : CmdKey) (e : Sqe)
  | setFeaturesVolatileWriteCache (k : CmdKey) (e : Sqe)
  | setFeaturesTemperatureThreshold (k : CmdKey) (e : Sqe)
  | createIoSubmissionQueue (k : CmdKey) (e : Sqe)
  | createIoCompletionQueue (k : CmdKey) (e : Sqe)
  | deleteIoSubmissionQueue (k : CmdKey) (e : Sqe)
  | deleteIoCompletionQueue (k : CmdKey) (e : Sqe)
  | asynchronousEventRequest (k : CmdKey) (e : Sqe)
  | namespaceManagementCreate (k : CmdKey) (e : Sqe) (storeOk : Bool)
  | namespaceManagementDelete (k : CmdKey) (e : Sqe) (storeOk : Bool)
  | namespaceAttachment (k : CmdKey) (e : Sqe) (storeOk : Bool)
  | formatNvm (k : CmdKey) (e : Sqe) (storeOk : Bool)
  | sanitize (k : CmdKey) (e : Sqe) (storeOk : Bool)
  | firmwareImageDownload (k : CmdKey) (e : Sqe)
  | firmwareCommit (k : CmdKey) (e : Sqe)
  | virtualizationManagement (k : CmdKey) (e : Sqe)
  | deviceSelfTest (k : CmdKey) (e : Sqe)
  | nvmeMiHealthPoll (eid : Byte)
  | mbDoorbell (f : FnId) (m : Fin 16) (seq : BitVec 16) (msg : LmcsMsg)
  | mbCtrlAbort (f : FnId) (m : Fin 16) (stat ctrl : Word)
  | lmcsResponsePost (f : FnId) (m : Fin 16)
  | identify (q : Req)
  | inventory (q : Req)
  | registerWindowRead (q : Req)
  | registerWindowWrite (q : Req)
  | cfgGet (q : Req)
  | cfgStage (q : Req)
  | cfgCommit (q : Req) (storeOk : Bool)
  | cfgDiscard (q : Req)
  | cfgList (q : Req)
  | cinchQuery (q : Req)
  | cfgExport (q : Req)
  | cfgImport (q : Req)
  | cinchGo (who : List (Fin 9))
  | islandAdopt (i : Fin 52)
  | cinchStall
  | registerWrite (by_ : Fin 9) (a : Word) (v : Word)
  | drainOnlyRegisterWrite (a : Word) (v : Word)
  | undecodedAccess (a : Word) (bytes : Nat) (isWrite : Bool)
  | checkpoint (t : TileId)
  | superblockOpen (t : TileId) (st : WriteStream) (collected : Bool)
  | rowAgeExpiry (t : TileId) (st : WriteStream)
  | superblockClosure (t : TileId) (st : WriteStream)
  | collectionStart (t : TileId)
  | collectionVictimRelease (t : TileId) (sbn : Nat) (eraseFails : List QuadId)
  | staticLevelling (t : TileId)
  | fchQtail (t : TileId) (c : Fin 16) (v : Word)
  | flashRead (t : TileId) (c : Fin 16) (env : LadderEnv)
  | flashProgram (t : TileId) (c : Fin 16) (failed : Bool)
  | flashErase (t : TileId) (c : Fin 16) (failed : Bool)
  | flashReadParam (t : TileId) (c : Fin 16) (page : ParamPage)
  | flashGetFeatures (t : TileId) (c : Fin 16)
  | flashSetFeatures (t : TileId) (c : Fin 16)
  | flashResetLun (t : TileId) (c : Fin 16)
  | flashOpComplete (t : TileId) (c : Fin 16) (lun : Fin 16) (rebuildable : Bool)
  | interfaceFaultRetry (t : TileId) (c : Fin 16) (lun : Fin 16) (cls : IfaceClass) (retryOk : Bool)
  | readyTimeout (t : TileId) (c : Fin 16) (lun : Fin 16)
  | fchQctrlEnClear (t : TileId) (c : Fin 16)
  | trainFull (t : TileId) (c : Fin 16)
  | trainZqonly (t : TileId) (c : Fin 16)
  | trainingComplete (t : TileId) (c : Fin 16) (res : TrainResult)
  | cmpQtail (t : TileId) (qn : Fin 4) (v : Word)
  | grain (t : TileId) (verify : VerifyEnv)
  | compress (t : TileId) (verify : VerifyEnv)
  | decompress (t : TileId)
  | cmpJobComplete (t : TileId)
  | cmpQctrlEnClear (t : TileId) (qn : Fin 4)
  | sftQtail (t : TileId) (c : Fin 2) (v : Word)
  | siftGrain (t : TileId) (c : Fin 2) (parity : Bool)
  | cont (t : TileId) (c : Fin 2) (parity : Bool)
  | sftJobComplete (t : TileId) (c : Fin 2)
  | sftQctrlEnClear (t : TileId) (c : Fin 2)
  | escalationTimeout (k : CmdKey)
  | engineParityRetry (t : TileId) (eng : Engine) (retryOk : Bool)
  | layoutInstall (q : Req)
  | layoutAttach (q : Req) (storeOk : Bool)
  | layoutDetach (q : Req) (storeOk : Bool)
  | imageInstall (q : Req)
  | imageRemove (q : Req)
  | setInstall (q : Req)
  | setRemove (q : Req)
  | layoutRemove (q : Req)
  | siftQuery (q : Req)
  | indexDeclare (q : Req) (storeOk : Bool)
  | indexDrop (q : Req) (storeOk : Bool)
  | indexStatus (q : Req)
  | idxQtail (t : TileId) (qn : Fin 4) (v : Word)
  | extract (t : TileId) (parity : Bool)
  | idxSeal (t : TileId) (parity : Bool)
  | merge (t : TileId) (parity : Bool)
  | probe (t : TileId) (parity : Bool)
  | idxJobComplete (t : TileId)
  | idxQctrlEnClear (t : TileId) (qn : Fin 4)
  | indexRegeneration (t : TileId) (nsx : Nat)
  | create (q : Req)
  | destroy (q : Req)
  | query (q : Req)
  | setRights (q : Req)
  | setClass (q : Req)
  | list (q : Req)
  | funcSet (q : Req) (storeOk : Bool)
  | funcQuery (q : Req)
  | quotaSet (q : Req) (storeOk : Bool)
  | quotaQuery (q : Req)
  | suspend (q : Req)
  | resume (q : Req)
  | revoke (q : Req)
  | sessionRelease (snum : Nat)
  | quotaPeriod (qbi : Nat)
  | quantumEnd (h : ThrId) (heldUs : Nat)
  | threadStart (h : ThrId)
  | threadWake (h : ThrId)
  | interrupt (h : ThrId) (quantum : Bool)
  | undefinedEncoding (h : ThrId) (w : Word)
  | add (h : ThrId) (rd ra rb : Reg)
  | sub (h : ThrId) (rd ra rb : Reg)
  | andR (h : ThrId) (rd ra rb : Reg)
  | orR (h : ThrId) (rd ra rb : Reg)
  | xor (h : ThrId) (rd ra rb : Reg)
  | nor (h : ThrId) (rd ra rb : Reg)
  | sll (h : ThrId) (rd ra rb : Reg)
  | srl (h : ThrId) (rd ra rb : Reg)
  | sra (h : ThrId) (rd ra rb : Reg)
  | slt (h : ThrId) (rd ra rb : Reg)
  | sltu (h : ThrId) (rd ra rb : Reg)
  | mul (h : ThrId) (rd ra rb : Reg)
  | mulh (h : ThrId) (rd ra rb : Reg)
  | mulhu (h : ThrId) (rd ra rb : Reg)
  | div (h : ThrId) (rd ra rb : Reg)
  | divu (h : ThrId) (rd ra rb : Reg)
  | rem (h : ThrId) (rd ra rb : Reg)
  | remu (h : ThrId) (rd ra rb : Reg)
  | adds (h : ThrId) (rd ra rb : Reg)
  | subs (h : ThrId) (rd ra rb : Reg)
  | addus (h : ThrId) (rd ra rb : Reg)
  | subus (h : ThrId) (rd ra rb : Reg)
  | clz (h : ThrId) (rd ra : Reg)
  | shuf (h : ThrId) (rd ra rb : Reg)
  | crcb (h : ThrId) (rd ra rb : Reg)
  | crcw (h : ThrId) (rd ra rb : Reg)
  | mula (h : ThrId) (ra rb : Reg)
  | mulau (h : ThrId) (ra rb : Reg)
  | mac (h : ThrId) (ra rb : Reg)
  | macu (h : ThrId) (ra rb : Reg)
  | msu (h : ThrId) (ra rb : Reg)
  | msuu (h : ThrId) (ra rb : Reg)
  | accrd (h : ThrId) (rd ra : Reg)
  | ftoi (h : ThrId) (rd ra rb : Reg)
  | itof (h : ThrId) (rd ra rb : Reg)
  | addi (h : ThrId) (rd ra : Reg) (imm : BitVec 16)
  | slti (h : ThrId) (rd ra : Reg) (imm : BitVec 16)
  | sltiu (h : ThrId) (rd ra : Reg) (imm : BitVec 16)
  | andi (h : ThrId) (rd ra : Reg) (imm : BitVec 16)
  | ori (h : ThrId) (rd ra : Reg) (imm : BitVec 16)
  | xori (h : ThrId) (rd ra : Reg) (imm : BitVec 16)
  | slli (h : ThrId) (rd ra : Reg) (sh : BitVec 5)
  | srli (h : ThrId) (rd ra : Reg) (sh : BitVec 5)
  | srai (h : ThrId) (rd ra : Reg) (sh : BitVec 5)
  | lui (h : ThrId) (rd : Reg) (imm : BitVec 21)
  | adrp (h : ThrId) (rd : Reg) (imm : BitVec 21)
  | lb (h : ThrId) (rd ra : Reg) (imm : BitVec 16) (ecc : Ecc)
  | lbu (h : ThrId) (rd ra : Reg) (imm : BitVec 16) (ecc : Ecc)
  | lh (h : ThrId) (rd ra : Reg) (imm : BitVec 16) (ecc : Ecc)
  | lhu (h : ThrId) (rd ra : Reg) (imm : BitVec 16) (ecc : Ecc)
  | lw (h : ThrId) (rd ra : Reg) (imm : BitVec 16) (ecc : Ecc)
  | sb (h : ThrId) (rs ra : Reg) (imm : BitVec 16)
  | sh (h : ThrId) (rs ra : Reg) (imm : BitVec 16)
  | sw (h : ThrId) (rs ra : Reg) (imm : BitVec 16)
  | ldG (h : ThrId) (rd : Reg) (g : Fin 4) (sz : AccSize) (sx : Bool) (ecc : Ecc)
  | stG (h : ThrId) (rs : Reg) (g : Fin 4) (sz : AccSize) (sx : Bool)
  | amoswap (h : ThrId) (rd ra rb : Reg) (ecc : Ecc)
  | amoadd (h : ThrId) (rd ra rb : Reg) (ecc : Ecc)
  | amoand (h : ThrId) (rd ra rb : Reg) (ecc : Ecc)
  | amoor (h : ThrId) (rd ra rb : Reg) (ecc : Ecc)
  | cas (h : ThrId) (rd ra rb : Reg) (ecc : Ecc)
  | beq (h : ThrId) (ra rb : Reg) (off : BitVec 16)
  | bne (h : ThrId) (ra rb : Reg) (off : BitVec 16)
  | blt (h : ThrId) (ra rb : Reg) (off : BitVec 16)
  | bge (h : ThrId) (ra rb : Reg) (off : BitVec 16)
  | bltu (h : ThrId) (ra rb : Reg) (off : BitVec 16)
  | bgeu (h : ThrId) (ra rb : Reg) (off : BitVec 16)
  | j (h : ThrId) (off : BitVec 26)
  | call4 (h : ThrId) (off : BitVec 26)
  | call8 (h : ThrId) (off : BitVec 26)
  | call12 (h : ThrId) (off : BitVec 26)
  | call16 (h : ThrId) (off : BitVec 26)
  | jr (h : ThrId) (ra : Reg)
  | callr4 (h : ThrId) (ra : Reg)
  | callr8 (h : ThrId) (ra : Reg)
  | callr12 (h : ThrId) (ra : Reg)
  | callr16 (h : ThrId) (ra : Reg)
  | ret (h : ThrId)
  | fence (h : ThrId)
  | fenceI (h : ThrId)
  | wflush (h : ThrId)
  | eret (h : ThrId)
  | wait (h : ThrId)
  | mfc (h : ThrId) (rd : Reg) (crn : BitVec 8)
  | mtc (h : ThrId) (ra : Reg) (crn : BitVec 8)
  | svc (h : ThrId) (imm : BitVec 16)
  | brk (h : ThrId) (imm : BitVec 16)
  | stage (q : Req)
  | seal (q : Req)
  | unload (q : Req)
  | sachetQuery (q : Req)
  | yieldSvc (h : ThrId)
  | clock (h : ThrId)
  | inNext (h : ThrId)
  | nsRead (h : ThrId) (env : MediaEnv)
  | nsWrite (h : ThrId)
  | escNext (h : ThrId)
  | outPut (h : ThrId)
  | cq (h : ThrId)
  | digest (h : ThrId)
  | zjob (h : ThrId)
  | log (h : ThrId)
  | serviceCompletion (inv : Nat)
  | runmaxExpiry (inv : Nat)
  | maintInv (t : TileId)
  | maintClean (t : TileId)
  | maintFlush (t : TileId)
  | maintLock (t : TileId)
  | maintUnlock (t : TileId)
  | maintDone (t : TileId)
  | fill (t : TileId)
  | fillDone (t : TileId)
  | scrub (t : TileId) (found : List (Nat × Ecc))
  | scrubDone (t : TileId)
  | hourlyScrub (found : List (TileId × Nat × Ecc))
  | l2Ways (t : TileId) (v : Word)
  | bankRet (t : TileId) (bank : Fin 48)
  | memoryErrorRetry (t : TileId) (entry : Fin 16) (clean : Bool) (grains : List (Nat × Nat))
  | keywWrite (i : Fin 8) (v : Word)
  | commitLo (slot : Fin 8192)
  | commitHi (slot : Fin 8192)
  | keyStoreErase (slot : Fin 8192)
  | unwrap (slot : Fin 8192)
  | wrap (slot : Fin 8192)
  | keyLoad (q : Req)
  | keyDerive (q : Req)
  | keyErase (q : Req)
  | keyQuery (q : Req)
  | nskeyQuery (q : Req)
  | alarmQuery (q : Req)
  | cqeQtail (t : TileId) (qn : Fin 4) (v : Word)
  | encBlocks (t : TileId) (parity : Bool)
  | decBlocks (t : TileId) (parity : Bool)
  | decHold (t : TileId) (parity : Bool)
  | tagcheck (t : TileId) (parity : Bool)
  | nonce (t : TileId) (parity : Bool)
  | cqeRequestComplete (t : TileId)
  | cqeQctrlEnClear (t : TileId) (qn : Fin 4)
  | dgStart (t : TileId) (owner : Fin 17) (cmd : Word)
  | dgFinish (t : TileId) (owner : Fin 17) (cmd : Word)
  | dgSqueeze (t : TileId) (owner : Fin 17)
  | dgAbort (t : TileId) (owner : Fin 17)
  | dgSave (t : TileId) (owner : Fin 17)
  | dgRestore (t : TileId) (owner : Fin 17)
  | dgFeed (t : TileId) (owner : Fin 17)
  | dgFeedDone (t : TileId)
  | dgData (t : TileId) (owner : Fin 17) (v : Word)
  | dgDatab (t : TileId) (owner : Fin 17) (v : Byte)
  | alarm (sensor : Sensor)
  | certGet (q : Req)
  | ownerChallenge (q : Req)
  | ownerProve (q : Req)
  | ownerRelease (q : Req)
  | ownerEnroll (q : Req) (fuseOk : Bool)
  | ownerTransfer (q : Req) (fuseOk : Bool)
  | ownerNonceExpiry (c : Carrier)
  | fwStage (q : Req)
  | fwCommit (q : Req)
  | fwQuery (q : Req)
  | fwAdvance (q : Req) (fuseOk : Bool)
  | fwStagingTimeout
  | getVersion (q : Req)
  | getCapabilities (q : Req)
  | negotiateAlgorithms (q : Req)
  | getDigests (q : Req)
  | getCertificate (q : Req)
  | challenge (q : Req)
  | getMeasurements (q : Req)
  | chunkGet (q : Req)
  | respondIfReady (q : Req)
  | spdmUnsupportedRequest (q : Req)
  | debugNonce (q : Req)
  | debugUnlock (q : Req)
  | debugNonceExpiry (c : Carrier)
  | pdCtrl (t : TileId) (v : Word)
  | domainOn (t : TileId) (d : Fin 6)
  | pcIdleSwitchOff (t : TileId)
  | governorPeriod (tileMw : List Nat) (packageMw : Nat) (belowFor1ms : Bool)
  | powerFailure
  | dumpStart (t : TileId) (failedMembers : Nat)
  | park
  | parkRestart
  | logRead (q : Req)
  | counters (q : Req)
  | fabricLinkReplay (a b : TileId) (replayOk : Bool)
  | pairQuery (q : Req)
  | pairBind (q : Req) (storeOk : Bool)
  | pairUnbind (q : Req) (storeOk : Bool)
  | nsMirror (q : Req) (storeOk : Bool)
  | nsUnmirror (q : Req) (storeOk : Bool)
  | takeover (q : Req)
  | splitResolve (q : Req)
  | nsState (q : Req)
  | laneRestore (q : Req) (storeOk : Bool)
  | linkUp
  | laneTrainingRetry (lane : Fin 10) (ok : Bool) (eye : Byte) (storeOk : Bool)
  | whdr (fr : Frame)
  | data (fr : Frame)
  | mack (fr : Frame)
  | confirm (fr : Frame)
  | void (fr : Frame)
  | voidack (fr : Frame)
  | reject (fr : Frame)
  | hello (fr : Frame)
  | chain (fr : Frame)
  | proof (fr : Frame)
  | helloRetry
  | state (fr : Frame)
  | rate (fr : Frame)
  | nak (fr : Frame)
  | ping (fr : Frame)
  | malformedFrame (fault : FrameFault) (lanes : List (Fin 10))
  | retransmitTimeout
  | mackTmo (nsid : Nat) (mseq : Nat)
  | peerTmo
  | utilisationWindow (frameBytes : Nat)
  | lockedTimeout
  | pingInterval
  | catchUp (nsid : Nat) (env : MediaEnv)
  | gpioInputEdge (pin : Fin 8) (level : Bool)
  | actTimeout
  | idcode
  | bypass
  | samplePreload
  | extest (cells : List Bool)
  | clamp
  | highz
  | pfailGlitch (lowNs : Nat)
  | perstNDeassertion
  | linkTrainingStart
  | endpointIdReassigned (old new : Byte)
  | reinTrainingComplete (passed : List (Fin 10)) (eyes : List Byte)
  | receiverRelock
  | rateStepRetry (locked : Bool)
  | bar4SnapshotRefresh
  | temperatureThresholdCrossed (t : TileId) (eighths : BitVec 12)
  | dgPermutationDone (t : TileId)
  deriving DecidableEq, Repr

end Sys2Proof
end

