-- ==== Sys2Proof/Config.lean ====
section
/-! DEFINITION. Config.lean: the values that the manual leaves open. Each is opaque: it has no body, nothing in Lean can
evaluate it, and a statement that holds of it holds whatever the hardware gives. -/

namespace Sys2Proof

/-- The source of free values: random nonces, generations, keys, seal epochs and results that the manual does not state. The
argument is the count of free values drawn so far (`State.free`). Assumption 3. -/
opaque Config.freeNat : Nat → Nat

/-- The DEFLATE body that the engine's encoder makes at a level, for a history and an input: `final` sets BFINAL (R160, R161).
The manual fixes its format and the depth of its search, not its bits. Assumption 8. -/
opaque Config.deflate : (level : Nat) → (history input : List Byte) → (final : Bool) → List Byte

/-- Whether an ML-DSA-65 signature checks: public key, context, message, signature (FIPS 204). Assumption 9. -/
opaque Config.mldsaVerify : (key ctx message signature : List Byte) → Bool

/-- The hedged ML-DSA-65 signature of a message: secret, randomness counter, context, message (FIPS 204). Assumption 9. -/
opaque Config.mldsaSign : (secret : List Byte) → Nat → (ctx message : List Byte) → List Byte

/-- The ML-DSA-65 public key of the device certificate of a chain that checks up to the Iltombe root; empty for one that does not
(R348, R407). Assumption 9. -/
opaque Config.chainKey : (chain : List Byte) → List Byte

/-- The trace buffers of a tile as BAR4 presents them: their format belongs to Blustite (R429). Assumption 10. -/
opaque Config.traceByte : Nat → Byte

/-- The command key that an escalated record carries in w5, by a number of the command (Table 13.5): the manual says only that it is
the same for every record of one command. Assumption 12. -/
opaque Config.commandKey : Nat → Word

/-- A configuration parameter: its INDEX range, LEN, WHEN (0 CINCH, 1 START, 2 PERST), default and range. -/
structure ParamSpec where
  lo    : Nat
  hi    : Nat
  len   : Nat
  moment : Nat
  dflt  : Nat
  /-- The value lies in the parameter's own range. -/
  ok    : Bool
  deriving DecidableEq, Repr, Inhabited

/-- The parameters that the release holds beside those of Table 2.17, about 400 in all: the manual names none of them. Assumption 116. -/
opaque Config.otherParam : (pid : Nat) → Option ParamSpec

/-- Whether a value lies in the range that the release gives such a parameter. Assumption 116. -/
opaque Config.otherParamOk : (pid value : Nat) → Bool

end Sys2Proof
end

