-- ==== Sys2Proof/Machine/Bits.lean ====
section
/-! DEFINITION. Machine/Bits.lean: bit fields, little-endian byte strings (R6), keyed lists in canonical form, and the other
small operations that the meanings share. -/

namespace Sys2Proof.Machine

open Sys2Proof

/-- Bits `hi` down to `lo` of a number. -/
def field (x hi lo : Nat) : Nat := x / 2 ^ lo % 2 ^ (hi + 1 - lo)

/-- Bit `n` of a number. -/
def bitN (x n : Nat) : Bool := x / 2 ^ n % 2 == 1

/-- `x` with bits `hi` down to `lo` replaced by `v`. -/
def withField (x hi lo v : Nat) : Nat :=
  x % 2 ^ lo + (v % 2 ^ (hi + 1 - lo)) * 2 ^ lo + x / 2 ^ (hi + 1) * 2 ^ (hi + 1)

/-- The number one for true, zero for false. -/
def b2n (b : Bool) : Nat := if b then 1 else 0

/-- The little-endian number that a byte string spells (R6). -/
def leNat : List Byte → Nat
  | [] => 0
  | b :: bs => b.toNat + 256 * leNat bs

/-- The `n` little-endian bytes of a number (R6). -/
def leBytes : Nat → Nat → List Byte
  | 0, _ => []
  | n + 1, x => BitVec.ofNat 8 x :: leBytes n (x / 256)

/-- `n` bytes from offset `o`, zeroes beyond the end. -/
def slice (o n : Nat) (bs : List Byte) : List Byte :=
  let x := (bs.drop o).take n
  x ++ List.replicate (n - x.length) 0

/-- The little-endian number in `n` bytes at offset `o`. -/
def leAt (bs : List Byte) (o n : Nat) : Nat := leNat (slice o n bs)

/-- `n` zero bytes. -/
def zeros (n : Nat) : List Byte := List.replicate n 0

/-- A byte string cut or zero-padded to `n` bytes. -/
def fit (n : Nat) (bs : List Byte) : List Byte := bs.take n ++ zeros (n - bs.length)

/-- `bs` with the bytes at offset `o` replaced by `x`. -/
def patch (bs : List Byte) (o : Nat) (x : List Byte) : List Byte :=
  bs.take o ++ x ++ bs.drop (o + x.length)

/-- Whether every byte from `o` for `n` bytes is zero: a reserved field (R7). -/
def zeroAt (bs : List Byte) (o n : Nat) : Bool := leAt bs o n == 0

/-- Exclusive or of two byte strings of one length. -/
def xorBytes : List Byte → List Byte → List Byte
  | a :: as, b :: bs => (a ^^^ b) :: xorBytes as bs
  | _, _ => []

/-- The rounded-up quotient. -/
def ceilDiv (a b : Nat) : Nat := (a + b - 1) / b

/-- The value under a key of a keyed list. -/
def kvGet {α : Type} (k : Nat) : List (Nat × α) → Option α
  | [] => none
  | (j, v) :: rest => if j = k then some v else kvGet k rest

/-- A keyed list, in rising key order, with `v` under `k`. -/
def kvSet {α : Type} (k : Nat) (v : α) : List (Nat × α) → List (Nat × α)
  | [] => [(k, v)]
  | (j, w) :: rest =>
    if k < j then (k, v) :: (j, w) :: rest
    else if j = k then (k, v) :: rest
    else (j, w) :: kvSet k v rest

/-- A keyed list without `k`. -/
def kvDel {α : Type} (k : Nat) : List (Nat × α) → List (Nat × α)
  | [] => []
  | (j, w) :: rest => if j = k then kvDel k rest else (j, w) :: kvDel k rest

/-- The first element of a list that meets `p`, replaced by `f` of it. -/
def updFirst {α : Type} (p : α → Bool) (f : α → α) : List α → List α
  | [] => []
  | a :: as => if p a then f a :: as else a :: updFirst p f as

/-- The list with the element at `n` replaced. -/
def setAt {α : Type} : List α → Nat → α → List α
  | [], _, _ => []
  | _ :: as, 0, x => x :: as
  | a :: as, n + 1, x => a :: setAt as n x

/-- Insertion into a list ordered by `lt`. -/
def insertBy {α : Type} (lt : α → α → Bool) (x : α) : List α → List α
  | [] => [x]
  | a :: as => if lt x a then x :: a :: as else a :: insertBy lt x as

/-- A list ordered by `lt`, equal elements in their first order. -/
def sortBy {α : Type} (lt : α → α → Bool) (xs : List α) : List α :=
  xs.foldr (fun x acc => insertBy (fun a b => !lt b a) x acc) []

/-- The element that comes first under `lt`. -/
def firstBy {α : Type} (lt : α → α → Bool) : List α → Option α
  | [] => none
  | a :: as => some (as.foldl (fun m x => if lt x m then x else m) a)

/-- A rotating-pointer arbiter with `n` indices (R361, R362): the first requesting index from the pointer onward, wrapping. -/
def rotate (n ptr : Nat) (req : Nat → Bool) : Option Nat :=
  ((List.range n).map (fun i => (ptr + i) % n)).find? req

/-- The least number below `n` that `used` does not hold. -/
def leastFree (n : Nat) (used : List Nat) : Option Nat := (List.range n).find? fun i => !used.contains i

/-- The least number not in `used`, for a supply that never runs out (R109). -/
def leastUnused (used : List Nat) : Nat := (leastFree (used.length + 1) used).getD used.length

/-- The sum of a list. -/
def sumOf (xs : List Nat) : Nat := xs.foldl (· + ·) 0

end Sys2Proof.Machine
end

