-- ==== Sys2Proof/Machine/RegMap.lean ====
section
/-! DEFINITION. Machine/RegMap.lean: the register maps of every block, as the tables of the manual give them
(Tables 6.8, 7.7, 8.12, 9.10, 10.9, 14.3, 15.8 to 15.11, 17.7, 17.8, 18.5, 19.10, 21.4 and chapter 2). -/

namespace Sys2Proof.Machine

/-- The access codes of Table 0.5. -/
inductive Access where
  | rw | ro | wo | w1c | w1s | rws | wok
  deriving DecidableEq, Repr

/-- One register of a block: offset, access code, reset value and the bits a write can change. For an `ro` register with
some W1C bits the access is `w1c` and `mask` names those bits. -/
structure RegDesc where
  off   : Nat
  acc   : Access
  reset : Nat
  mask  : Nat
  deriving DecidableEq, Repr

/-- Table 6.8 (R158). -/
def fchRegs : List RegDesc :=
  [⟨0x000, .rw, 0, 0x7F1F⟩, ⟨0x004, .ro, 0x00100000, 0⟩, ⟨0x008, .rw, 0xC85030A0, 0xFFFFFFFF⟩,
   ⟨0x00C, .rw, 0x000A0828, 0x00FFFFFF⟩, ⟨0x010, .wo, 0, 3⟩, ⟨0x014, .ro, 0, 0⟩, ⟨0x018, .ro, 0, 0⟩,
   ⟨0x01C, .rw, 0, 0xFFFFFFE0⟩, ⟨0x020, .rw, 0, 0x1F⟩, ⟨0x024, .ro, 0, 0⟩, ⟨0x028, .rw, 0, 0x7FF⟩,
   ⟨0x02C, .rw, 0, 0xFFFFFFF0⟩, ⟨0x030, .rw, 0, 0x7FF⟩, ⟨0x034, .ro, 0, 0⟩, ⟨0x038, .rws, 0x101F, 0x1F1F⟩,
   ⟨0x03C, .rws, 0x001E6464, 0xFFFFFF⟩, ⟨0x040, .w1c, 0, 0x3F⟩, ⟨0x044, .rw, 0, 0x3F⟩, ⟨0x048, .ro, 0, 0⟩,
   ⟨0x04C, .ro, 0, 0⟩, ⟨0x050, .ro, 0, 0⟩, ⟨0x054, .ro, 0, 0⟩, ⟨0x058, .ro, 0, 0⟩, ⟨0x05C, .ro, 0, 0⟩]

/-- The four per-queue registers at 0x040 + 16q that the compressor, index builder and cipher queue share in form. -/
def queueRegs : List RegDesc :=
  (List.range 4).flatMap fun q =>
    [⟨0x040 + 16 * q, .rw, 0, 0xFFFFFFCF⟩, ⟨0x044 + 16 * q, .rw, 0, 1⟩, ⟨0x048 + 16 * q, .ro, 0, 0⟩,
     ⟨0x04C + 16 * q, .rw, 0, 0x7FF⟩]

/-- Read-only counters at consecutive word offsets. -/
def counterRegs (base n : Nat) : List RegDesc :=
  (List.range n).map fun i => ⟨base + 4 * i, .ro, 0, 0⟩

/-- Table 8.12 (R194). -/
def sftRegs : List RegDesc :=
  [⟨0x000, .rw, 0, 1⟩, ⟨0x004, .ro, 0, 0⟩, ⟨0x008, .ro, 0x10, 0⟩, ⟨0x00C, .rw, 0, 0xFFFFFFCF⟩, ⟨0x010, .rw, 0, 1⟩,
   ⟨0x014, .ro, 0, 0⟩, ⟨0x018, .rw, 0, 0x7FF⟩, ⟨0x01C, .rw, 0, 0xFFFFFFCF⟩, ⟨0x020, .rw, 0, 0x7FF⟩,
   ⟨0x024, .ro, 0, 0⟩, ⟨0x028, .w1c, 0, 0xF⟩, ⟨0x02C, .rw, 0, 0xF⟩] ++ counterRegs 0x030 6

/-- Table 9.10 (R216). -/
def idxRegs : List RegDesc :=
  [⟨0x000, .rw, 0, 1⟩, ⟨0x004, .ro, 0, 0⟩, ⟨0x008, .rw, 0, 0xFFF80000⟩, ⟨0x00C, .ro, 0, 0⟩, ⟨0x010, .ro, 0, 0⟩,
   ⟨0x014, .ro, 0xE000, 0⟩, ⟨0x018, .rws, 0x4B, 0x7F⟩, ⟨0x01C, .rw, 0, 0xFFFFFFCF⟩, ⟨0x020, .rw, 0, 0x7FF⟩,
   ⟨0x024, .ro, 0, 0⟩, ⟨0x028, .w1c, 0, 0xF⟩, ⟨0x02C, .rw, 0, 0xF⟩] ++ queueRegs ++ counterRegs 0x080 8

/-- Table 7.7 (R173). PARTNER holds the partner tile, a fuse value that `State.busRead` supplies. -/
def cmpRegs : List RegDesc :=
  [⟨0x000, .rw, 0, 1⟩, ⟨0x004, .ro, 0, 0⟩, ⟨0x008, .ro, 0xC, 0⟩, ⟨0x00C, .ro, 0, 0⟩, ⟨0x010, .rw, 0, 0xFFF⟩,
   ⟨0x014, .rws, 4, 0xF⟩, ⟨0x018, .rw, 0, 0xFFFFFFCF⟩, ⟨0x020, .rw, 0, 0x7FF⟩, ⟨0x024, .ro, 0, 0⟩,
   ⟨0x028, .w1c, 0, 7⟩, ⟨0x02C, .rw, 0, 7⟩] ++ queueRegs ++ counterRegs 0x080 5

/-- Table 15.9 (R344). -/
def cqeRegs : List RegDesc :=
  [⟨0x000, .rw, 0, 1⟩, ⟨0x004, .ro, 0, 0⟩, ⟨0x018, .rw, 0, 0xFFFFFFCF⟩, ⟨0x020, .rw, 0, 0x7FF⟩,
   ⟨0x024, .ro, 0, 0⟩, ⟨0x028, .w1c, 0, 0xF⟩, ⟨0x02C, .rw, 0, 0xF⟩] ++ queueRegs ++ counterRegs 0x080 4

/-- Table 15.10 (R345). -/
def dgeRegs : List RegDesc :=
  [⟨0x000, .rw, 0, 1⟩, ⟨0x004, .wo, 0, 0x3FF⟩, ⟨0x008, .w1c, 0, 0xC0⟩, ⟨0x00C, .ro, 0, 0⟩,
   ⟨0x010, .wo, 0, 0xFFFFFFFF⟩, ⟨0x014, .wo, 0, 0xFF⟩, ⟨0x018, .rw, 0, 0xFFFFFFFF⟩, ⟨0x01C, .rw, 0, 0xFFFFFFFF⟩,
   ⟨0x020, .rw, 0x20, 0x7F⟩, ⟨0x024, .rw, 0, 0x1FFF⟩, ⟨0x028, .rw, 0, 0x0FFFFFFF⟩, ⟨0x02C, .rw, 0x20, 0x7F⟩,
   ⟨0x030, .rw, 0, 0xFFFFFFFF⟩, ⟨0x034, .rw, 0, 0xFFFFFFFF⟩, ⟨0x038, .rw, 0, 0xFFFFFFC0⟩, ⟨0x03C, .ro, 0, 0⟩,
   ⟨0x040, .ro, 0, 0⟩, ⟨0x044, .ro, 0, 0⟩, ⟨0x048, .ro, 0, 0⟩, ⟨0x04C, .w1c, 0, 3⟩, ⟨0x050, .rw, 0, 3⟩,
   ⟨0x05C, .rw, 0, 0x3F⟩] ++
  (List.range 8).map (fun i => ⟨0x060 + 4 * i, .rw, 0, 0xFFFFFFFF⟩) ++ counterRegs 0x080 16 ++
  (List.range 16).map (fun i => ⟨0x0C0 + 4 * i, .rw, 0, 0xFFFFFFFF⟩)

/-- Table 15.11 (R346). -/
def xtsRegs : List RegDesc := [⟨0x000, .rw, 0, 1⟩, ⟨0x004, .ro, 0, 0⟩] ++ counterRegs 0x008 3

/-- Table 14.3 (R319). -/
def memRegs : List RegDesc :=
  [⟨0x000, .rw, 0, 1⟩, ⟨0x004, .ro, 0, 0⟩, ⟨0x008, .rw, 0, 0xF⟩, ⟨0x00C, .rws, 0xC0, 0xF1⟩, ⟨0x010, .wo, 0, 0xF⟩,
   ⟨0x014, .rw, 0, 0xFFFFFFC0⟩, ⟨0x018, .rw, 0, 0xFFFFFFFF⟩, ⟨0x01C, .w1c, 0, 6⟩, ⟨0x020, .wo, 0, 1⟩,
   ⟨0x024, .rw, 0, 0xFFFFFFF8⟩, ⟨0x028, .rw, 0, 0xFFFFFFFF⟩, ⟨0x02C, .wo, 0, 1⟩, ⟨0x030, .rw, 0, 0xFFFFFFF8⟩,
   ⟨0x034, .rw, 0, 0xFFFFFFFF⟩] ++ counterRegs 0x038 5 ++
  [⟨0x04C, .w1s, 0, 0xFFFFFFFF⟩, ⟨0x050, .w1s, 0, 0xFFFF⟩, ⟨0x054, .rw, 0, 0xFFFFFFFF⟩, ⟨0x058, .rw, 0, 0xFFFF⟩,
   ⟨0x05C, .rw, 0, 0x701⟩, ⟨0x060, .ro, 0, 0⟩, ⟨0x064, .rw, 0, 0x80000000⟩, ⟨0x068, .rw, 0, 0xFFFFFFFF⟩,
   ⟨0x06C, .ro, 0, 0⟩, ⟨0x070, .ro, 0, 0⟩, ⟨0x074, .w1c, 0, 0xFF⟩, ⟨0x078, .rw, 0, 0xFF⟩, ⟨0x07C, .ro, 0, 0⟩] ++
  counterRegs 0x080 32

/-- Table 10.9 (R234). The block's start and wake commands and its stop flags have no offset in the manual: they are held in
each `Thread`. -/
def coreRegs : List RegDesc :=
  [⟨0x100, .rw, 0, 1⟩, ⟨0x104, .rws, 0x01020408, 0xFFFFFFFF⟩, ⟨0x108, .ro, 0x32, 0⟩] ++ counterRegs 0x10C 3

/-- Table 17.7 (R375). -/
def pwrRegs : List RegDesc :=
  [⟨0x000, .rw, 0, 0x3F⟩, ⟨0x004, .ro, 0, 0⟩, ⟨0x008, .ro, 0x3F, 0⟩, ⟨0x00C, .ro, 0x30, 0⟩, ⟨0x010, .ro, 8, 0⟩] ++
  counterRegs 0x014 9 ++
  [⟨0x038, .w1c, 0, 0x1F⟩, ⟨0x03C, .rw, 0, 0x1F⟩] ++ counterRegs 0x040 6 ++
  [⟨0x058, .rw, 0, 1⟩, ⟨0x05C, .rw, 0, 0xFFFFFFC0⟩, ⟨0x060, .rw, 0, 0x1F⟩] ++ counterRegs 0x064 3 ++
  [⟨0x070, .rw, 0, 0xFF⟩, ⟨0x074, .ro, 0, 0⟩, ⟨0x078, .rw, 0x348, 0xFFF⟩, ⟨0x07C, .ro, 0, 0⟩]

/-- Table 19.10 (R417). -/
def reinRegs : List RegDesc :=
  [⟨0x000, .rw, 0, 1⟩] ++ counterRegs 0x004 7 ++ [⟨0x020, .w1c, 0, 0x1F⟩, ⟨0x024, .rw, 0, 0x1F⟩] ++ counterRegs 0x040 8 ++
  (List.range 10).flatMap fun i => [⟨0x100 + 0x20 * i, .rw, 0, 1⟩] ++ counterRegs (0x104 + 0x20 * i) 3

/-- Table 21.4 (R445). -/
def sbgRegs : List RegDesc :=
  [⟨0x000, .rw, 0, 1⟩, ⟨0x004, .ro, 0, 0⟩, ⟨0x008, .rw, 0, 0xFE⟩, ⟨0x00C, .rw, 0, 0xFE⟩, ⟨0x010, .rw, 0, 0xFFFFFFF0⟩,
   ⟨0x014, .rw, 0, 0xFE⟩, ⟨0x018, .w1c, 0, 0xFF⟩, ⟨0x01C, .rw, 0, 0xFF⟩, ⟨0x020, .rw, 0, 0xFFFF⟩]

/-- Table 15.8 (R343). -/
def secRegs : List RegDesc :=
  (List.range 8).map (fun i => ⟨4 * i, .wok, 0, 0xFFFFFFFF⟩) ++
  [⟨0x020, .wo, 0, 0x1FFFF⟩, ⟨0x024, .ro, 0, 0⟩, ⟨0x028, .rw, 0, 0x0FFFFFFF⟩, ⟨0x02C, .rw, 0, 0x1FFF⟩] ++
  counterRegs 0x030 4 ++ [⟨0x040, .rw, 0, 0xFFFFFFF0⟩, ⟨0x044, .ro, 0, 0⟩, ⟨0x048, .ro, 0, 0⟩]

/-- The GLB registers that the manual describes: LTID (R42), the cinch (R45), DECERR (R40), the governor and mode registers of
Table 17.8 (R376) and the start-up registers of Table 18.5 (R394). GOV_CAP's reset is the top of the part's range, a fuse value. -/
def glbRegs : List RegDesc :=
  [⟨0x000, .ro, 0, 0⟩, ⟨0x100, .wo, 0, 1⟩, ⟨0x104, .ro, 0, 0⟩, ⟨0x108, .ro, 0xFFFFFFFF, 0⟩,
   ⟨0x10C, .w1c, 0x000FFFFF, 0x0C000000⟩, ⟨0x120, .w1c, 0, 7⟩, ⟨0x124, .ro, 0, 0⟩, ⟨0x200, .rws, 3000, 0xFFFF⟩,
   ⟨0x204, .ro, 0x00108C10, 0⟩, ⟨0x208, .ro, 0, 0⟩, ⟨0x20C, .ro, 0, 0⟩, ⟨0x300, .rw, 0, 0xFFFFFF7F⟩,
   ⟨0x304, .rw, 0, 0xFFFFFFFF⟩]

/-- The blocks of Table 2.8 and their instances. -/
inductive Block where
  | glb | host (port : Nat) | mbx | sec | rein | sbg
  | fch (t c : Nat) | sft (t c : Nat) | idx (t : Nat) | cmp (t : Nat) | cqe (t : Nat) | dge (t : Nat) | xts (t c : Nat)
  | mem (t : Nat) | core (t : Nat) | pwr (t : Nat) | fab (t : Nat)
  deriving DecidableEq, Repr

/-- The first address of tile `t`'s window (Table 2.7). -/
def tileBase (t : Nat) : Nat := 0x40000000 + t * 0x01000000

/-- The first address of a block (Table 2.8, R38). -/
def Block.base : Block → Nat
  | .glb => 0x20000000
  | .host p => 0x20100000 + p * 0x40000
  | .mbx => 0x20200000
  | .sec => 0x20300000
  | .rein => 0x20400000
  | .sbg => 0x20500000
  | .fch t c => tileBase t + c * 0x1000
  | .sft t c => tileBase t + 0x100000 + c * 0x1000
  | .idx t => tileBase t + 0x102000
  | .cmp t => tileBase t + 0x103000
  | .cqe t => tileBase t + 0x104000
  | .dge t => tileBase t + 0x105000
  | .xts t c => tileBase t + 0x106000 + c * 0x1000
  | .mem t => tileBase t + 0x110000
  | .core t => tileBase t + 0x120000
  | .pwr t => tileBase t + 0x130000
  | .fab t => tileBase t + 0x140000

/-- The registers that the manual describes of each block. HOST, MBX and FAB have registers (Table 1.8) that no chapter
describes: every address of them is a gap, which reads zero and ignores writes (R40). -/
def Block.regs : Block → List RegDesc
  | .glb => glbRegs
  | .host _ => []
  | .mbx => []
  | .fab _ => []
  | .sec => secRegs
  | .rein => reinRegs
  | .sbg => sbgRegs
  | .fch _ _ => fchRegs
  | .sft _ _ => sftRegs
  | .idx _ => idxRegs
  | .cmp _ => cmpRegs
  | .cqe _ => cqeRegs
  | .dge _ => dgeRegs
  | .xts _ _ => xtsRegs
  | .mem _ => memRegs
  | .core _ => coreRegs
  | .pwr _ => pwrRegs

/-- The block that an address lies in and the offset within it, for a part with `n` tiles (Tables 2.7 and 2.8). The span of a
block is its stride where the table gives one; a package block spans to the next, and MEM, CORE, PWR and FAB span 64 KiB. -/
def blockAt (n a : Nat) : Option (Block × Nat) :=
  if 0x20000000 ≤ a ∧ a < 0x21000000 then
    let o := a - 0x20000000
    if o < 0x100000 then some (.glb, o)
    else if o < 0x180000 then some (.host ((o - 0x100000) / 0x40000), (o - 0x100000) % 0x40000)
    else if 0x200000 ≤ o ∧ o < 0x300000 then some (.mbx, o - 0x200000)
    else if 0x300000 ≤ o ∧ o < 0x400000 then some (.sec, o - 0x300000)
    else if 0x400000 ≤ o ∧ o < 0x500000 then some (.rein, o - 0x400000)
    else if 0x500000 ≤ o ∧ o < 0x600000 then some (.sbg, o - 0x500000)
    else none
  else if 0x40000000 ≤ a ∧ a < 0x40000000 + n * 0x01000000 then
    let t := (a - 0x40000000) / 0x01000000
    let o := (a - 0x40000000) % 0x01000000
    if o < 0x10000 then some (.fch t (o / 0x1000), o % 0x1000)
    else if 0x100000 ≤ o ∧ o < 0x102000 then some (.sft t ((o - 0x100000) / 0x1000), o % 0x1000)
    else if 0x102000 ≤ o ∧ o < 0x103000 then some (.idx t, o % 0x1000)
    else if 0x103000 ≤ o ∧ o < 0x104000 then some (.cmp t, o % 0x1000)
    else if 0x104000 ≤ o ∧ o < 0x105000 then some (.cqe t, o % 0x1000)
    else if 0x105000 ≤ o ∧ o < 0x106000 then some (.dge t, o % 0x1000)
    else if 0x106000 ≤ o ∧ o < 0x108000 then some (.xts t ((o - 0x106000) / 0x1000), o % 0x1000)
    else if 0x110000 ≤ o ∧ o < 0x120000 then some (.mem t, o - 0x110000)
    else if 0x120000 ≤ o ∧ o < 0x130000 then some (.core t, o - 0x120000)
    else if 0x130000 ≤ o ∧ o < 0x140000 then some (.pwr t, o - 0x130000)
    else if 0x140000 ≤ o ∧ o < 0x150000 then some (.fab t, o - 0x140000)
    else none
  else none

/-- The description of the register at an offset of a block; none for a gap. -/
def Block.desc (b : Block) (off : Nat) : Option RegDesc := b.regs.find? (fun d => d.off == off)

/-- The reset value of the register at an offset of a block (R8); zero for a gap. -/
def Block.resetOf (b : Block) (off : Nat) : Word := BitVec.ofNat 32 (((b.desc off).map RegDesc.reset).getD 0)

end Sys2Proof.Machine
end

