-- ==== Sys2Proof/Machine/State.lean ====
section
/-! DEFINITION. Machine/State.lean: everything that the manual gives the device to hold, as plain data, and the state after
reset. A field's docstring names the requirement that gives it; a default is its value after reset. -/

namespace Sys2Proof.Machine

open Sys2Proof

/-- Why a step stops with a fault: never. Every fault that the manual describes (a failed check, a retirement, a tile failure, an
exception of a core) is an effect on the state, so this type has no constructor, and no command can stop the model. Safe. -/
inductive Fault where
  deriving DecidableEq, Repr

/-- Why a command has no meaning. -/
inductive Refusal where
  /-- A command that this model does not give a meaning yet, by its mnemonic; safe. -/
  | notModelled (mnemonic : String)
  deriving DecidableEq, Repr

/-! ### Identity fuses and straps (chapters 1, 2 and 16) -/

/-- The three parts of the family (Table 0.1). -/
inductive Part where
  | ltr2032 | ltr4064 | ltr8128
  deriving DecidableEq, Repr

/-- One owner fuse entry (R352). The fuses hold the digest of a key; the state keeps the public key itself, which every check of an
owner's signature needs (Assumption 13). -/
inductive OwnerEntry where
  | free | inUse (key : List Byte) | spent
  deriving DecidableEq, Repr

/-- The fuse bank: values that no reset changes. Where the manual names no value, the reset state shows a blank unit. -/
structure Fuses where
  /-- The part number that bonding and fuses fix (R11, R42, Table 0.1). -/
  part       : Part := .ltr8128
  /-- LTID.STEP_MAJOR, the letter of the stepping, A = 1 (R42). -/
  stepMajor  : BitVec 4 := 2
  /-- LTID.STEP_MINOR, the digit of the stepping (R42). -/
  stepMinor  : BitVec 4 := 1
  /-- UID, 16 bytes (R347). -/
  uid        : List Byte := List.replicate 16 0
  /-- The unit's ML-DSA-65 public key and its seed, masked in the fuse bank (R347). -/
  idPub      : List Byte := []
  idSeed     : List Byte := List.replicate 32 0
  /-- The certificate chain as served in SPDM slot 0 (R348). -/
  chain      : List Byte := []
  /-- The boot ROM's bytes, which measurement 1 hashes (Table 16.5). -/
  rom        : List Byte := []
  /-- The 32-byte unit secret, which no path reads (R326, R347). -/
  unitSecret : List Byte := List.replicate 32 0
  /-- F, the anti-rollback count, the count of blown steps among 128 (R351). -/
  rollback   : Nat := 0
  /-- The four owner entries (R352). -/
  owners     : List OwnerEntry := [.free, .free, .free, .free]
  /-- The firmware signing key hashes, each with its revocation (R349): the public keys that hash to a slot in use. -/
  fwKeys     : List (List Byte × Bool) := []
  /-- The count of alarms that fuses record (R341). -/
  alarms     : Nat := 0
  /-- The flash population that board assembly fixes: the LUNs per channel (R141). -/
  luns       : Nat := 8
  /-- Blocks of one plane of a LUN, and so quads of a LUN (Table 5.1). -/
  quads      : Nat := 1024
  /-- Pages of one block (Table 5.1). -/
  pages      : Nat := 2048
  deriving DecidableEq, Repr

/-! ### Register file (chapter 2) -/

/-- Every register of the internal register space (Table 2.7). -/
structure RegFile where
  /-- Current and staged values by address; a register that is not listed holds its reset value (R8, Tables 6.8 to 21.4). -/
  cells   : List (Nat × Word) := []
  /-- Effective values of RWS registers in the slot of epoch CUR (R39, R45). -/
  eff     : List (Nat × Word) := []
  /-- Effective values in the slot of epoch PEND while a cinch is in progress (R45). -/
  effPend : List (Nat × Word) := []
  deriving DecidableEq, Repr

/-- The cinch (R45 to R48, CINCH_STAT). -/
structure Cinch where
  /-- CUR, the current epoch (CINCH_STAT). -/
  cur      : BitVec 16 := 0
  /-- PEND, the pending epoch (CINCH_STAT). -/
  pend     : BitVec 16 := 0
  /-- MASK, bit i set when island i has adopted PEND (CINCH_STAT, Table 2.10). -/
  mask     : BitVec 52 := BitVec.allOnes 52
  /-- PENDING (CINCH_STAT). -/
  pending  : Bool := false
  /-- RETAINED (CINCH_STAT). -/
  retained : Bool := false
  /-- REJ (CINCH_STAT). -/
  rej      : Bool := false
  /-- STALL (CINCH_STAT). -/
  stall    : Bool := false
  /-- The pointer of the cinch arbiter in CK.T0.AO (R48, R363). -/
  ptr      : Nat := 0
  deriving DecidableEq, Repr

/-! ### Memory of the tiles (chapter 14) -/

/-- One L2 line that is held for a remote or host line or locked (R294, R297, R300). Clean unlocked copies are not recorded. -/
structure L2Line where
  /-- The tile whose L2 holds the line. -/
  tile   : Nat
  /-- The line address as the tile's cores see it (Table 14.1). -/
  addr   : Nat
  /-- Locked in one of ways 0 to 3 (R300). -/
  locked : Bool
  /-- Holds data not yet written home (R294). -/
  dirty  : Bool
  /-- The 64 bytes. -/
  data   : List Byte
  /-- Words 0 to 7 of the line that are poisoned (R308). -/
  bad    : List Nat
  deriving DecidableEq, Repr

/-- The memories of every tile. -/
structure Memory where
  /-- Bulk SRAM and scratch, by the address 0x0800_0000 + t × 0x0200_0000 + the tile address (Table 14.1). -/
  cells  : List Host.Cell := []
  /-- The words of bulk SRAM and scratch that are poisoned, by the address of their first byte (R308). -/
  poison : List Nat := []
  /-- Host memory seen through HWIN, by host address (Table 14.1). -/
  host   : List Host.Cell := []
  /-- L2 lines with state of their own (R294, R300). -/
  lines  : List L2Line := []
  /-- Lines held in the near pool of a tile: tile, line address, data (R301). -/
  pool   : List (Nat × Nat × List Byte) := []
  /-- Remap entries: tile, array (0 session store, 1 root table), word address (R315). -/
  remap  : List (Nat × Nat × Nat) := []
  deriving DecidableEq, Repr

/-! ### Flash channels (chapter 6) -/

/-- An operation that a sequencer has issued and not yet completed (R147, Tables 6.3 and 6.4). -/
structure FlashJob where
  /-- Channel within the tile. -/
  chan   : Nat
  /-- LUN. -/
  lun    : Nat
  /-- OP of the descriptor. -/
  op     : Nat
  /-- The descriptor's 32 bytes. -/
  desc   : List Byte
  /-- Ring index of the descriptor (DIDX). -/
  didx   : Nat
  /-- STATUS that the completion will carry (Table 6.5). -/
  status : Nat
  /-- STEP. -/
  step   : Nat
  /-- MAXBITS. -/
  maxBits : Nat
  /-- FAILMASK. -/
  failMask : Nat
  /-- FLAGS of the completion. -/
  flags  : Nat
  deriving DecidableEq, Repr

/-- A training run of a channel (R145). -/
structure Training where
  chan    : Nat
  full    : Bool
  /-- Attempts made before this one. -/
  tries   : Nat
  deriving DecidableEq, Repr

/-- The flash side of one tile. -/
structure Flash where
  /-- Pages programmed on the NAND: the key packs channel, LUN, plane, block and page (R110, R151). -/
  pages    : List (Nat × List Byte) := []
  /-- Issued operations (R147). -/
  inflight : List FlashJob := []
  /-- Training in progress (R145). -/
  training : List Training := []
  /-- Feature values set on a LUN: key packs channel, LUN and feature address (R156). -/
  features : List (Nat × Nat) := []
  /-- Retired LUNs: channel, LUN (R157). They survive every reset. -/
  retLuns  : List (Nat × Nat) := []
  /-- Retired channels with their cause (R157). They survive every reset. -/
  retChans : List (Nat × Nat) := []
  /-- The pointers of the bus and XTS arbiters, by the arbiter numbers of Table 20.7 (R148, R149, R363). -/
  ptrs     : List (Nat × Nat) := []
  /-- LUNs that passed every check of Table 6.2: channel, LUN (R142). -/
  checked  : List (Nat × Nat) := []
  deriving DecidableEq, Repr

/-! ### Compressor (chapter 7) -/

/-- The live context of a stream (R169, R170). -/
structure StreamCtx where
  /-- CTX. -/
  ctx     : Nat
  /-- 2 COMPRESS, 3 DECOMPRESS. -/
  op      : Nat
  /-- FMT of Table 7.4. -/
  fmt     : Nat
  /-- LEVEL. -/
  level   : Nat
  /-- The input taken since the stream's start. -/
  input   : List Byte
  /-- The output given since the stream's start. -/
  output  : List Byte
  deriving DecidableEq, Repr

/-- The job that the compressor runs, with its completion (Table 7.5). -/
structure CmpJob where
  /-- Queue that the job came from. -/
  queue  : Nat
  /-- The descriptor. -/
  desc   : List Byte
  /-- STATUS of Table 7.6. -/
  status : Nat
  /-- LEVEL used. -/
  level  : Nat
  /-- FLAGS. -/
  flags  : Nat
  /-- IN. -/
  inLen  : Nat
  /-- OUT. -/
  outLen : Nat
  deriving DecidableEq, Repr

/-- The compressor of one tile. -/
structure Comp where
  /-- The job running, with its result (R168). -/
  running : Option CmpJob := none
  /-- The live stream context (R169). -/
  live    : Option StreamCtx := none
  /-- The contexts that save areas hold: address, CRC of the area, context (R170). -/
  saves   : List (Nat × Nat × StreamCtx) := []
  /-- Retired for good, with the cause (R165, R166). -/
  retired : Option Nat := none
  /-- The pointer of the queue arbiter (R168). -/
  ptr     : Nat := 0
  deriving DecidableEq, Repr

/-! ### Translation map and media (chapters 4 and 5) -/

/-- A location of Table 4.1. -/
structure Loc where
  chan  : Nat
  lun   : Nat
  plane : Nat
  block : Nat
  page  : Nat
  off   : Nat
  deriving DecidableEq, Repr

/-- STATE of Table 4.2. -/
inductive GState where
  | unmapped | stored | zeroed | lost
  deriving DecidableEq, Repr

/-- A map entry (Table 4.1). -/
structure MapEntry where
  state : GState := .unmapped
  cmp   : Bool := false
  gen   : Nat := 0
  loc   : Loc := ⟨0, 0, 0, 0, 0, 0⟩
  len   : Nat := 0
  deriving DecidableEq, Repr

/-- The name of a grain on its tile: NSX and tile-local grain index LG (R85). -/
structure GKey where
  nsx : Nat
  lg  : Nat
  deriving DecidableEq, Repr

/-- One overlay entry (R102, R103). -/
structure OverlayEntry where
  key   : GKey
  entry : MapEntry
  /-- Sequence of the record that made it. -/
  seq   : Nat
  /-- GROUP while the entry is held, 0 otherwise (R103). -/
  held  : Nat
  deriving DecidableEq, Repr

/-- Journal record types (Table 4.9, Table 5.3, Table 9.6). -/
inductive JRec where
  | map (group : Nat) (key : GKey) (entry : MapEntry)
  | zrange (group : Nat) (key : GKey) (state : GState) (count : Nat)
  | ptr (level nsx index pgen : Nat)
  | reloc (key : GKey) (entry : MapEntry)
  | gcommit (group tileA countA tileB countB : Nat)
  | ckpt (copy number start : Nat)
  | sblk (event sbn chan lun block scope data : Nat)
  | irun (event nsx run level : Nat)
  | mirr (event group nsx term mseq : Nat) (uid : List Byte)
  deriving DecidableEq, Repr

/-- A journal record with its sequence number (R100). -/
structure JEntry where
  seq  : Nat
  body : JRec
  deriving DecidableEq, Repr

/-- A stored grain: the logical content that its units hold (R163). The content stands for what decryption and decompression
give back; `keyTag` says under which media key it was stored. -/
structure Stored where
  key    : GKey
  loc    : Loc
  len    : Nat
  cmp    : Bool
  gen    : Nat
  /-- The grain's data followed by its protection information. -/
  data   : List Byte
  /-- Identity of the media key that encrypts it (R326, R327). -/
  keyTag : Nat
  /-- Every page that holds its units is programmed (R114). -/
  done   : Bool
  /-- Superblock that holds it. -/
  sbn    : Nat
  /-- GROUP of the write that made it, 0 for none. -/
  group  : Nat
  /-- Copied by collection from this location; its record is RELOC (R101). -/
  reloc  : Option Loc
  deriving DecidableEq, Repr

/-- What a staged change does to one grain (R62, R468). -/
inductive StageKind where
  | data (bytes : List Byte)
  | zero (state : GState)
  deriving DecidableEq, Repr

/-- A grain change that stands in the staging buffer (R62, R92). -/
structure Staged where
  key    : GKey
  kind   : StageKind
  /-- The command that staged it, while that command can still be aborted. -/
  cmd    : Option CmdKey
  /-- GROUP, 0 for none (R66). -/
  group  : Nat
  /-- The epoch of the write (R46). -/
  epoch  : Nat
  /-- At or past the commit point (Table 3.9). -/
  commit : Bool
  /-- Restored from a dump, with DEND of that dump (R384). -/
  dend   : Option Nat
  deriving DecidableEq, Repr

/-- A superblock (R109, R130). -/
structure Superblock where
  sbn      : Nat
  stream   : WriteStream
  /-- Members in position order; a member dropped under R120 stays listed with `false`. -/
  members  : List (QuadId × Bool)
  /-- The packing frontier: the row, the lane within the row and the unit within the segment (R113). -/
  row      : Nat
  lane     : Nat
  unit     : Nat
  closed   : Bool
  /-- Time of CLOSE, µs, and its order in the journal. -/
  closedAt : Nat
  closeSeq : Nat
  /-- Released and awaiting erase (R131). -/
  released : Bool
  degraded : Bool
  /-- Time at which the open row received its first unit (R115). -/
  rowSince : Nat
  deriving DecidableEq, Repr

/-- A term of a namespace's mirror history: TERM, its first MSEQ and the UID of the primary (R411). -/
structure MirrTerm where
  term  : Nat
  first : Nat
  uid   : List Byte
  deriving DecidableEq, Repr

/-- The mirror state of a namespace that T0's journal carries: the highest MSEQ applied and the last 16 terms, the oldest first
(R411). -/
structure MirrHist where
  nsid  : Nat
  mseq  : Nat := 0
  terms : List MirrTerm := []
  deriving DecidableEq, Repr

/-- One root table copy (R105): the map that the checkpoint made durable. -/
structure RootCopy where
  number : Nat := 0
  start  : Nat := 1
  leaves : List (GKey × MapEntry) := []
  /-- PGEN of each map page written: level, NSX, index, PGEN (R90). -/
  pgens  : List (Nat × Nat × Nat × Nat) := []
  /-- The superblock table of the checkpoint (R130). -/
  sbs    : List Superblock := []
  /-- On T0, the mirror state that the checkpoint covers (R411). -/
  mirr   : List MirrHist := []
  /-- The leaves that were written in extent form: NSX, local leaf index (R91). -/
  extents : List (Nat × Nat) := []
  deriving DecidableEq, Repr

/-- A tuple (Table 9.4). -/
structure Tuple where
  /-- KEY, 32 bytes, zero-padded. -/
  key   : List Byte
  klen  : Nat
  trunc : Bool
  gen   : Nat
  ridx  : Nat
  roff  : Nat
  gidx  : Nat
  deriving DecidableEq, Repr

/-- A power-loss dump on the dump quads of a tile (R372, Table 17.6). -/
structure Dump where
  pfseq    : Nat
  jseq     : Nat
  ckpt     : Nat
  tail     : List JEntry
  frags    : List Staged
  /-- The index builder's sorted half (R372). -/
  half     : List (Nat × Tuple)
  complete : Bool
  consumed : Bool
  deriving DecidableEq, Repr

/-- A slot of the saddlebag as the device last wrote it (Table 4.7). -/
structure Slot where
  addr   : Nat
  ident  : Nat
  sealep : Nat
  form   : Nat
  pgens  : List Nat
  deriving DecidableEq, Repr

/-- A page of META in flash (R112): a map page, named by its level (1 leaf, 2 interior node), NSX and index, or a page of an index run,
named by 3, the run's number and the page's. -/
structure MetaPage where
  id  : Nat × Nat × Nat
  loc : Loc
  /-- Units that it takes: 17 for a standard leaf or a node, 5 for an extent leaf (R90), at most 64 for a page of a run. -/
  len : Nat
  sbn : Nat
  deriving DecidableEq, Repr

/-- The flash translation layer of one tile. -/
structure Ftl where
  /-- The map as its durable leaves hold it (R84, R92). -/
  leaves    : List (GKey × MapEntry) := []
  /-- The overlay table (R102). -/
  overlay   : List OverlayEntry := []
  /-- The journal since the replay start, oldest first (R100). -/
  journal   : List JEntry := []
  /-- Sequence number of the next journal record (R100). -/
  nextSeq   : Nat := 1
  /-- Every record below this sequence is programmed to flash (R116). -/
  durSeq    : Nat := 1
  /-- Change records written since the last completed checkpoint (R102). -/
  changes   : Nat := 0
  /-- Those among them of the pinned namespace (R386). -/
  pinChanges : Nat := 0
  /-- Staging buffer, oldest first (R62, R92). -/
  staged    : List Staged := []
  /-- Stored grains with their content. -/
  stored    : List Stored := []
  /-- On T0, the mirror state of the mirrored namespaces (R411). -/
  mirr      : List MirrHist := []
  /-- The two root copies (R105). -/
  rootA     : RootCopy := {}
  rootB     : RootCopy := {}
  /-- Which copy was written last: true for B (R104). -/
  lastB     : Bool := false
  /-- Pages that a checkpoint superseded, kept until the next one completes: level, NSX, index, PGEN (R106). -/
  kept      : List (Nat × Nat × Nat × Nat) := []
  /-- Map pages and index runs where META holds them (R112). -/
  metaPages : List MetaPage := []
  /-- Map pages that the last checkpoint superseded, readable until the next has completed (R106). -/
  metaKept  : List MetaPage := []
  /-- Superblocks (R109). -/
  sbs       : List Superblock := []
  /-- Erase counts of quads whose count is not zero (R124). -/
  wear      : List (QuadId × Nat) := []
  /-- Retired quads with their cause (R120). -/
  retQuads  : List (QuadId × Nat) := []
  /-- Quads to retire when their superblock is next released (R118). -/
  doomed    : List QuadId := []
  /-- Dump quads (R370). -/
  dumpQuads : List QuadId := []
  /-- Dump quads of dumps that a start found, until they are erased (R390). -/
  oldQuads  : List QuadId := []
  /-- Dump quads that are erased (R369, R370). -/
  dumpErased : Bool := false
  /-- Dumps on the tile's flash (R372). -/
  dumps     : List Dump := []
  /-- PFSEQ: dumps written since first format (Table 17.6). -/
  pfseq     : Nat := 0
  /-- Q0: in-service quads at first format (R135). -/
  q0        : Nat := 131072
  /-- RSV, fixed at first format (R135). -/
  rsv       : Nat := 2622
  /-- Root table ranges: NSX, first entry, length (R89). -/
  roots     : List (Nat × Nat × Nat) := []
  /-- Collection running (R127). -/
  collecting : Bool := false
  /-- A victim was released since HOST or ALT last opened a superblock (R127). -/
  victimDone : Bool := false
  /-- The victim being copied (R128). -/
  victim    : Option Nat := none
  /-- A static relocation is running (R125). -/
  levelling : Bool := false
  /-- Reads that still use a location in a released superblock (R132). -/
  readers   : List Nat := []
  /-- Groups whose GCOMMIT is reported durable (R103). -/
  groupsDone : List Nat := []
  /-- Groups with records on the tile not yet covered by a checkpoint (R103). -/
  groupsLive : List Nat := []
  /-- Replay state at start-up: journal read, first and second sweep done (R383, R385). -/
  recovered : Nat := 0
  /-- The map pages in the map cache, the hand of the clock sweep at the front: the identity key, and passes left (R93). -/
  cache     : List (Nat × Nat) := []
  /-- Map page slots of the saddlebag that the tile wrote (R94, R96). -/
  slots     : List Slot := []
  /-- Seal epoch of the tile (R95, R99). -/
  sealep    : Nat := 0
  /-- Superblock closures still to run after a cut (R117). -/
  toClose   : List Nat := []
  deriving DecidableEq, Repr

/-! ### Host interface (chapter 3) -/

/-- An I/O or admin submission queue (R58, R59). -/
structure SubQueue where
  qid   : Nat
  size  : Nat
  cqid  : Nat
  /-- Priority: 0 urgent, 1 high, 2 medium, 3 low. -/
  prio  : Nat
  head  : Nat
  tail  : Nat
  deriving DecidableEq, Repr

/-- A completion queue. -/
structure ComQueue where
  qid   : Nat
  size  : Nat
  head  : Nat
  tail  : Nat
  vec   : Option Nat
  deriving DecidableEq, Repr

/-- The NVMe features of one controller (Table 3.1). -/
structure Features where
  arbitration : Word := 0
  tempOver    : Word := 0
  tempUnder   : Word := 0
  errRecovery : Word := 0
  /-- Volatile write cache enabled (R64). -/
  vwc         : Bool := true
  coalescing  : Word := 0
  asyncConfig : Word := 0
  /-- Timestamp in ms when it was set, whether the host set it, and the time of that, µs. -/
  timestamp   : Nat := 0
  stampSet    : Bool := false
  stampAt     : Nat := 0
  powerState  : Word := 0
  deriving DecidableEq, Repr

/-- One NVMe I/O controller, of one function (R57). -/
structure Controller where
  fn      : FnId
  /-- CC.EN. -/
  en      : Bool := false
  /-- CSTS.RDY. -/
  rdy     : Bool := false
  /-- CSTS.CFS. -/
  cfs     : Bool := false
  /-- Online under Virtualization Management; primary controllers are always online. -/
  online  : Bool := true
  /-- Flexible queue and interrupt resources assigned by Virtualization Management (R226, Table 3.1). -/
  vq      : Nat := 0
  vi      : Nat := 0
  /-- Queue pairs granted by Number of Queues, taken from the pool (R58). -/
  granted : Nat := 0
  sqs     : List SubQueue := []
  cqs     : List ComQueue := []
  feat    : Features := {}
  /-- Outstanding Asynchronous Event Requests (Table 3.3, AERL 15). -/
  aers    : List CmdKey := []
  /-- Events queued: type, information, log page (R79). -/
  events  : List (Nat × Nat × Nat) := []
  /-- Rotation of the queue that is fetched next within the controller (R59). -/
  sqPtr   : Nat := 0
  deriving DecidableEq, Repr

/-- A fragment of a command on one tile (R17, R18). -/
structure Frag where
  tile   : Nat
  /-- First logical byte and length. -/
  start  : Nat
  bytes  : Nat
  /-- 0 sent, 1 staged, 2 refused, 3 finished. -/
  phase  : Nat := 0
  stat   : NvmeStatus := .success
  deriving DecidableEq, Repr

/-- The snapshot of a session that a checked vendor command uses to its end (R228). -/
structure SesSnap where
  snum   : Nat
  handle : Nat
  cls    : Nat
  /-- Rights in force at the check: NSX and the bits R 1, W 2, S 4 (R223). -/
  rights : List (Nat × Nat)
  kbase  : Nat
  kcnt   : Nat
  sslot  : Option Nat
  qbi    : Nat
  label  : List Byte
  deriving DecidableEq, Repr

/-- A command that the device tracks (R60). -/
structure Track where
  key    : CmdKey
  sqe    : Sqe
  /-- Epoch tag (R46). -/
  epoch  : BitVec 16
  /-- The command has passed its checks and runs; its fragments are set. -/
  started : Bool := false
  frags  : List Frag := []
  /-- GROUP of a write on two tiles, 0 otherwise (R66). -/
  group  : Nat := 0
  /-- At or past the commit point of Table 3.9. -/
  committed : Bool := false
  /-- Sequence number of the mirrored change that the command waits for (R399). -/
  mseq   : Option Nat := none
  /-- The session snapshot of a vendor command that has passed its check (R228). -/
  ses    : Option SesSnap := none
  deriving DecidableEq, Repr

/-- A completion queue entry that the device has posted. -/
structure Cqe where
  key    : CmdKey
  status : NvmeStatus
  dw0    : Word
  dw1    : Word
  /-- DNR (R467). -/
  dnr    : Bool
  /-- CRD (Table 3.3). -/
  crd    : BitVec 2
  /-- The data that the command transferred to the host before it. -/
  data   : List Byte
  /-- The metadata transferred. -/
  md     : List Byte
  /-- TOKEN as written to the command parameter block on C3h, empty otherwise (R69). -/
  token  : List Byte
  deriving DecidableEq, Repr

/-- The host memory buffer (R80 to R83). -/
structure Hmb where
  enabled : Bool := false
  /-- STATE of Table 4.8. -/
  state   : Nat := 0
  /-- HSIZE, the address of the descriptor list and its length, as Set Features gave them. -/
  attrs   : List Byte := []
  /-- Chunks of 2 MiB in descriptor order, by host address (R94). -/
  chunks  : List Nat := []
  hits    : Nat := 0
  misses  : Nat := 0
  stale   : Nat := 0
  mismatch : Nat := 0
  /-- Times of the mismatches of the last 60 minutes, µs (R98). -/
  window  : List Nat := []
  lastAddr : Nat := 0
  /-- Disabled under R98 and not yet followed by EHM = 0 (R98). -/
  lockout : Bool := false
  deriving DecidableEq, Repr

/-- The host side of the device. -/
structure HostSide where
  /-- Controllers of the functions present (R57). -/
  ctrls    : List Controller := []
  /-- PORTMODE latched at PERST_N: 0 x16, 1 two x8 (R57, R381). -/
  portMode : Nat := 0
  /-- The PCIe PHY trains or is trained, and configuration is answered normally (R377, R392). -/
  linkUp   : Bool := false
  linkTraining : Bool := false
  configured : Bool := false
  /-- Pointers of the fetch arbiters of ports A and B (R59, R363). -/
  fetchPtr : Nat × Nat := (0, 0)
  /-- Outstanding commands (R60). -/
  tracks   : List Track := []
  /-- Completions posted, oldest first. -/
  cqes     : List Cqe := []
  /-- MSI-X vectors signalled: function, vector. -/
  msix     : List (FnId × Nat) := []
  hmb      : Hmb := {}
  /-- Fetching stopped by a power failure, a tile failure or firmware activation. -/
  stopped  : Bool := false
  deriving DecidableEq, Repr

/-! ### Mailboxes and LMCS (chapter 2) -/

/-- One mailbox (Table 2.2). -/
structure Mailbox where
  fn      : FnId
  num     : Nat
  /-- MB_DOORBELL.SEQ. -/
  doorbell : BitVec 16 := 0
  /-- MB_STATUS.STATE: 0 idle, 1 busy, 2 done, 3 rejected. -/
  state   : BitVec 2 := 0
  /-- MB_STATUS.OVR. -/
  ovr     : Bool := false
  /-- MB_STATUS.CURSEQ. -/
  curSeq  : BitVec 16 := 0
  /-- MB_SEQ.DONESEQ. -/
  doneSeq : BitVec 16 := 0
  /-- MB_CTRL.IEN. -/
  ien     : Bool := false
  /-- MB_CTRL.ABORT. -/
  abort   : Bool := false
  /-- MB_CTRL.VEC. -/
  vec     : Byte := 0
  /-- The response area. -/
  resp    : List Byte := []
  deriving DecidableEq, Repr

/-- A response that Blustite has made and that its carrier has not yet delivered. -/
structure Response where
  req    : Req
  status : Nat
  payload : List Byte
  deriving DecidableEq, Repr

/-- A multi-part object in assembly on one carrier instance (R354). -/
structure Assembly where
  car   : Carrier
  /-- Opcode that the parts came by. -/
  op    : Nat
  total : Nat
  bytes : List Byte
  /-- Time of the last part, µs. -/
  last  : Nat
  deriving DecidableEq, Repr

/-- The LMCS state of the package steward. -/
structure Lmcs where
  /-- Mailboxes that differ from their reset values (Table 2.2). -/
  boxes   : List Mailbox := []
  /-- Requests accepted and not yet acted on (R29, R36). -/
  inFlight : List Req := []
  /-- Requests past their commit point whose response is still to come (R32). -/
  started : List Req := []
  /-- Responses made and not yet posted on a mailbox, or held for C2h Receive (R29, R36). -/
  done    : List Response := []
  /-- Receives outstanding: controller, TAG, command, buffer bytes (R36). -/
  receives : List (FnId × BitVec 16 × CmdKey × Nat) := []
  /-- Responses sent on the sideband, oldest first. -/
  outbox  : List (Byte × List Byte) := []
  /-- Carrier instances that hold the owner role (R353), each with the owner key hash. -/
  owners  : List (Carrier × List Byte) := []
  /-- Owner nonces outstanding: carrier, nonce, time µs (R353). -/
  nonces  : List (Carrier × List Byte × Nat) := []
  /-- Debug nonces outstanding (R358). -/
  debugNonces : List (Carrier × List Byte × Nat) := []
  /-- Pending configuration sets: carrier, PID, INDEX, value (R52). -/
  pending : List (Carrier × Nat × Nat × Nat) := []
  /-- Objects in assembly (R354). -/
  parts   : List Assembly := []
  deriving DecidableEq, Repr

/-! ### Namespaces and configuration store (chapters 2, 3 and 18) -/

/-- A namespace definition (R61, R84, R111). -/
structure Namespace where
  nsid   : Nat
  /-- Size in logical blocks. -/
  blocks : Nat
  /-- LBA format of Table 3.2. -/
  lbaf   : Nat
  /-- Grain of 16 KiB; otherwise 4 KiB. -/
  grain16 : Bool
  /-- Stripe group 7 + 1 (R111). -/
  alt    : Bool
  /-- Functions it is attached to. -/
  attached : List FnId
  /-- Identity of its media key in the key store (R326). -/
  keyTag : Nat
  /-- The wrapped media key blob (R326). -/
  blob   : List Byte
  deriving DecidableEq, Repr

/-- Index declarations of a namespace (R196). -/
structure IndexDef where
  nsid  : Nat
  index : Nat
  decl  : List Byte
  deriving DecidableEq, Repr

/-- Mirror definition of a namespace (R397). -/
structure MirrorDef where
  nsid    : Nat
  primary : Bool
  policy  : Nat
  deriving DecidableEq, Repr

/-- The pair binding (R396). -/
structure PairDef where
  peer : List Byte
  blob : List Byte
  deriving DecidableEq, Repr

/-- Function settings of the platform owner (R221). -/
structure FuncDef where
  fn    : FnId
  bytes : List Byte
  deriving DecidableEq, Repr

/-- What the configuration store holds (chapter 18, R380). -/
structure StoreBody where
  /-- PORTMODE, HOLDUP and the other parameters that differ from their defaults: PID, INDEX, value (Table 2.17). -/
  params   : List (Nat × Nat × Nat) := []
  /-- Values stored whose WHEN is START or PERST and that are not in force yet: PID, INDEX, value (R53). -/
  later    : List (Nat × Nat × Nat) := []
  namespaces : List Namespace := []
  funcs    : List FuncDef := []
  /-- Quota buckets: index, setting (R230). -/
  quotas   : List (Nat × List Byte) := []
  /-- Attached layouts: NSID, descriptor (R175). -/
  layouts  : List (Nat × List Byte) := []
  indexes  : List IndexDef := []
  mirrors  : List MirrorDef := []
  pair     : Option PairDef := none
  /-- Retired banks: tile, bank (R314). -/
  banks    : List (Nat × Nat) := []
  /-- Retired rein lanes (R404). -/
  lanes    : List Nat := []
  deriving DecidableEq, Repr, Inhabited

/-- One copy of the store with its header (Table 18.3). -/
structure StoreCopy where
  /-- Written at least once. -/
  present : Bool := false
  seq     : Nat := 0
  portMode : Nat := 0
  body    : StoreBody := {}
  deriving DecidableEq, Repr

/-- The configuration as it stands. -/
structure ConfigState where
  /-- Copy 0 on FC000. -/
  copy0  : StoreCopy := {}
  /-- Copy 1 on FC016. -/
  copy1  : StoreCopy := {}
  /-- Which copy is in force: true for copy 1 (R380). -/
  inForce1 : Bool := false
  /-- The values in force. -/
  body   : StoreBody := {}
  /-- Configuration-loss state (R382). -/
  loss   : Bool := false
  /-- A CFG_IMPORT replaced the pending set with this body (R54). -/
  imported : Option StoreBody := none
  /-- A commit waits for its GO to reach all-ones MASK (R53): the request and the SEQ written. -/
  commit : Option (Req × Nat) := none
  deriving DecidableEq, Repr

/-- Run-time state of a namespace. -/
structure NsRun where
  nsid   : Nat
  /-- Ready (R388). -/
  ready  : Bool := false
  /-- Its media key was erased by an alarm (R24, R342). -/
  keyLost : Bool := false
  deriving DecidableEq, Repr

/-! ### Start-up, power and logs (chapters 17, 18 and 20) -/

/-- The stage of the start (Table 18.1). -/
structure Startup where
  /-- PWROK is high (R377). -/
  powered  : Bool := true
  /-- Tiles whose self-test has passed (R316). -/
  tested   : List Nat := []
  /-- The image runs: Blustite has started (R350). -/
  image    : Bool := false
  /-- The device is in recovery (R379). -/
  recovery : Bool := false
  /-- Tiles that failed (R25). -/
  failed   : List Nat := []
  /-- The start failed (R378). -/
  startFailed : Bool := false
  /-- The store has been read and checked (R380). -/
  storeRead : Bool := false
  /-- Step 11 was reached: CSTS.RDY may be set (R377). -/
  reached11 : Bool := false
  /-- The mode was selected (R369). -/
  modeChosen : Bool := false
  /-- The device is read-only (R138). -/
  readOnly : Bool := false
  /-- BOOT_SEL as sampled at PWROK (Table 2.14, R440). -/
  bootSel  : BitVec 2 := 0
  /-- PAIR_EN as sampled at PWROK (R440). -/
  pairEn   : Bool := false
  /-- Time of PWROK, µs. -/
  since    : Nat := 0
  deriving DecidableEq, Repr

/-- The power-loss sequence and the governor (chapter 17). -/
structure Power where
  /-- Step of Table 17.5 that has been reached, 0 when no sequence runs. -/
  step     : Nat := 0
  /-- Parked (R371). -/
  parked   : Bool := false
  /-- Time at which PFAIL_N last rose after the park, µs (R374). -/
  pfailHighSince : Nat := 0
  /-- Tiles whose dump of this sequence is complete. -/
  dumped   : List Nat := []
  /-- Shedding positions: RATECAP, GOVCAP, PC_DIV, GOVACT (Table 17.4). -/
  ratecap  : Nat := 16
  govcap   : Nat := 12
  pcDiv    : Nat := 8
  govact   : Nat := 16
  /-- Domains on: tile, bit of PD_CTRL (R360). -/
  on       : List (Nat × Nat) := []
  /-- Domains whose bit is set and that have not come on yet. -/
  changing : List (Nat × Nat) := []
  deriving DecidableEq, Repr

/-- A log entry (Table 20.4). -/
structure LogEntry where
  seq    : Nat
  time   : Nat
  sev    : Nat
  cause  : Nat
  kind   : Nat
  src    : Nat
  unit   : Nat
  func   : Option FnId
  detail : Nat
  /-- What an entry carries beside the 32 bytes of Table 20.4: EPC, BADADDR, LABEL and entry of a fault, the bytes of LOG (R292). -/
  extra  : List Byte := []
  deriving DecidableEq, Repr

/-- A retired component (Table 20.6, page C0h). -/
structure Retired where
  src   : Nat
  scope : Nat
  unit  : Nat
  cause : Nat
  seq   : Nat
  deriving DecidableEq, Repr

/-- The logs (R423 to R426). -/
structure Logs where
  /-- Package event log, newest 4,096 (R424). -/
  events   : List LogEntry := []
  /-- The persistent log in META: ERROR and CRITICAL entries (R424). -/
  persist  : List LogEntry := []
  /-- Number of the next event since first format. -/
  nextSeq  : Nat := 0
  /-- Function logs (R423): function, next number, entries. -/
  funcs    : List (FnId × Nat × List LogEntry) := []
  /-- Retired components (Table 20.6). -/
  retired  : List Retired := []
  /-- Error information entries, newest first, at most 64 (R426): command, status. -/
  errors   : List (CmdKey × NvmeStatus) := []
  /-- SMART Media and Data Integrity Errors (Table 20.5). -/
  mediaErrors : Nat := 0
  /-- SMART Critical Warning bits. -/
  critical : Nat := 0
  /-- Last second in which a TRANSIENT of a resource was logged: resource, second (R424). -/
  lastTransient : List (Nat × Nat) := []
  /-- BAR4 counter snapshot (R429). -/
  snapshot : List Word := []
  deriving DecidableEq, Repr

/-! ### Sessions (chapter 10) -/

/-- A session descriptor whose STATE is not FREE (Table 10.1). -/
structure Session where
  snum    : Nat
  gen     : Nat
  fn      : FnId
  /-- 1 ACTIVE, 2 SUSPENDED, 3 DRAINING (Table 10.2). -/
  state   : Nat
  cls     : Nat
  rti     : Nat
  /-- The rights entries of its table (Table 10.4). -/
  rights  : List Nat
  kbase   : Nat
  kcnt    : Nat
  sslot   : Option Nat
  qbi     : Nat
  outst   : Nat
  label   : List Byte
  threads : Nat
  /-- The request that waits for the release (R225), if one does. -/
  req     : Option Req
  /-- The cause code with which the session's running sachets end once it drains: 80h, or 83h when a poisoned word revoked it (R225,
  R315). -/
  cause   : Nat := 0x80
  deriving DecidableEq, Repr

/-- A quota block (Table 10.8). -/
structure Quota where
  qbi    : Nat
  wlim   : Nat
  slim   : Nat
  clim   : Nat
  olim   : Nat
  period : Nat
  wuse   : Nat := 0
  suse   : Nat := 0
  cuse   : Nat := 0
  ouse   : Nat := 0
  deriving DecidableEq, Repr

/-- The session stores, the quota array and the schedulers. -/
structure SessionSide where
  /-- Descriptors in use, in ascending SNUM. -/
  sessions : List Session := []
  /-- GEN of each slot that has been freed since start-up (R220). -/
  gens     : List (Nat × Nat) := []
  /-- Slots freed since start-up, the one freed longest ago first (R220). -/
  freed    : List Nat := []
  /-- Quota blocks that have been set (R230). -/
  quotas   : List Quota := []
  /-- Pointers of the session store arbiters by tile (R227) and of the quota array arbiter (R232), by arbiter number. -/
  ptrs     : List (Nat × Nat) := []
  /-- Virtual times of the classes by tile × 4 + class, in sixteenths of a µs scaled by 255! / weight; see `Sched` (R233). -/
  vtime    : List (Nat × Nat) := []
  deriving DecidableEq, Repr

/-! ### Sift scans and the index builder (chapters 8 and 9) -/

/-- A position in an index: stored key, grain and record (R210). -/
structure IdxPos where
  key  : List Byte
  gidx : Nat
  ridx : Nat
  deriving DecidableEq, Repr

/-- An index cursor of a session (R210). -/
structure Cursor where
  num : Nat
  /-- SEQ, the cursor write count (Table 9.8). -/
  seq : Nat
  pos : IdxPos
  deriving DecidableEq, Repr

/-- What a session has installed (R195, R210). -/
structure SlotSet where
  snum    : Nat
  /-- Layout slots 0 to 15: descriptor. -/
  layouts : List (Nat × List Byte) := []
  /-- Image slots 0 to 63. -/
  images  : List (Nat × List Byte) := []
  /-- Set filter slots 0 to 15: PROBES and the filter. -/
  sets    : List (Nat × Nat × List Byte) := []
  /-- Index cursors 0 to 3, the one written longest ago first. -/
  cursors : List Cursor := []
  /-- Cursor writes so far. -/
  cseq    : Nat := 0
  deriving DecidableEq, Repr

/-- What a command took when it started: image, layout and set filters (R190, R193). -/
structure SiftCtx where
  image  : List Byte
  layout : List Byte
  sets   : List (Nat × Nat × List Byte)
  nsid   : Nat
  /-- Grain size. -/
  grain  : Nat
  /-- Priority class of the command's session. -/
  cls    : Nat
  deriving DecidableEq, Repr

/-- A context area that the steward of a tile loaded for a command (R193). -/
structure Area where
  key  : CmdKey
  tile : Nat
  /-- CTXA. -/
  addr : Nat
  ctx  : SiftCtx
  deriving DecidableEq, Repr

/-- A job that a sift pipeline runs, with its completion (Tables 8.10 and 8.11). -/
structure SiftJob where
  desc   : List Byte
  status : Nat
  rstop  : Nat := 0
  npass  : Nat := 0
  nmalf  : Nat := 0
  outb   : Nat := 0
  deriving DecidableEq, Repr

/-- One sift pipeline (R193, R194). -/
structure SiftEng where
  running : Option SiftJob := none
  /-- A job that ended with PARITY and has not been repeated. -/
  held    : Option (List Byte) := none
  /-- Retired for good, with the cause. -/
  retired : Option Nat := none
  /-- The pointer of the job arbiter. -/
  ptr     : Nat := 0
  /-- Output held in the run-ahead area: TAG and bytes (R189). -/
  ahead   : List (Nat × List Byte) := []
  /-- Output of head spans, streamed to the host: TAG and bytes (R189). -/
  head    : List (Nat × List Byte) := []
  /-- Records that ring jobs escalated and that await an answer: TAG, record index, reason (R185). -/
  esc     : List (Nat × Nat × Nat) := []
  deriving DecidableEq, Repr

/-- The running aggregate of one AGG field (R186, R188). -/
structure Agg where
  count : Nat := 0
  /-- A value other than NaN was counted. -/
  seen  : Bool := false
  /-- Minimum and maximum of an integer field. -/
  mn    : Int := 0
  mx    : Int := 0
  /-- Their binary64 patterns for a float field. -/
  fmn   : Nat := 0
  fmx   : Nat := 0
  sum   : Int := 0
  fsum  : Nat := 0
  deriving DecidableEq, Repr

/-- An escalated record (R185, R287). -/
structure Esc where
  /-- 1 DEFER, 2 MALFORMED, 3 PASS. -/
  reason : Nat
  bytes  : List Byte
  /-- 0 waiting, 1 with a thread, 2 answered. -/
  phase  : Nat := 0
  keep   : Bool := false
  /-- What OUT_PUT has given for the record (R288). -/
  out    : List Byte := []
  deriving DecidableEq, Repr

/-- A record of the grain that a command is working on. -/
structure RecState where
  ridx : Nat
  off  : Nat
  len  : Nat
  /-- 0 dropped, 1 passed, 2 malformed. -/
  verdict : Nat
  esc  : Option Esc
  deriving DecidableEq, Repr

/-- The grain that a command is working on, once framed. -/
structure CurGrain where
  gidx  : Nat
  bytes : List Byte
  recs  : List RecState
  /-- Records framed in the grain. -/
  total : Nat
  /-- A record at which OUT_PUT was refused for want of space (R185). -/
  stopAt : Option Nat := none
  deriving DecidableEq, Repr

/-- Matches of a query that share one key and one grain (R207). -/
structure QItem where
  key   : List Byte
  klen  : Nat
  gidx  : Nat
  /-- RIDX, ROFF, GEN, TRUNC of each match. -/
  recs  : List (Nat × Nat × Nat × Bool)
  deriving DecidableEq, Repr

/-- The target of a MATERIALIZE (R192). -/
structure MatRun where
  key   : CmdKey
  tnsid : Nat
  tslba : Nat
  /-- Target blocks available. -/
  room  : Nat
  reqz  : Bool
  fua   : Bool
  /-- Output bytes placed from TSLBA on. -/
  pos   : Nat := 0
  /-- Those of them that are not staged yet. -/
  buf   : List Byte := []
  /-- Blocks staged. -/
  blocks : Nat := 0
  deriving DecidableEq, Repr

/-- A SCAN, MATERIALIZE, LOOKUP or RANGE in progress (R187 to R192, R207). -/
structure ScanRun where
  key     : CmdKey
  ctx     : SiftCtx
  /-- First and end byte of the range, in the namespace. -/
  lo      : Nat
  hi      : Nat
  /-- Grain and record that come next, and the grain after the last. -/
  next    : Nat
  rec0    : Nat
  endG    : Nat
  /-- The matches of a query that are still to be served; none for a scan. -/
  items   : Option (List QItem)
  /-- The match at which the scan-byte quota stopped the search (R211). -/
  more    : Option IdxPos := none
  cur     : Option CurGrain := none
  out     : List Byte := []
  /-- Bytes of output that the command may use, without the END block. -/
  space   : Nat
  scanned : Nat := 0
  passed  : Nat := 0
  emitted : Nat := 0
  malf    : Nat := 0
  escal   : Nat := 0
  empty   : Nat := 0
  lost    : Nat := 0
  aggs    : List Agg := []
  /-- Scan bytes charged, and those of grains read (R190). -/
  charged : Nat
  readB   : Nat := 0
  env     : MediaEnv
  mat     : Option MatRun
  /-- The status that the command ends with once its target is durable (R62). -/
  ending  : Option NvmeStatus := none
  deriving DecidableEq, Repr

/-- A batch (level 15) or a run of the run directory (R202, R205). -/
structure Run where
  num    : Nat
  nsx    : Nat
  level  : Nat
  tuples : List Tuple
  deriving DecidableEq, Repr

/-- A job that the index builder runs, with its completion (Table 9.9). -/
structure IdxJob where
  queue  : Nat
  desc   : List Byte
  status : Nat
  nout   : Nat := 0
  ndrop  : Nat := 0
  deriving DecidableEq, Repr

/-- The index builder of one tile. -/
structure IdxSide where
  /-- Tuples of staged grains that the builder has not yet taken into its sort area (R207): NSX and tuple. -/
  fresh   : List (Nat × Tuple) := []
  /-- The two halves of the sort area (R201). -/
  half0   : List (Nat × Tuple) := []
  half1   : List (Nat × Tuple) := []
  /-- HALF, the filling half: true for the second. -/
  second  : Bool := false
  /-- The run directory (R205). -/
  runs    : List Run := []
  /-- The next run number (Table 9.5). -/
  nextRun : Nat := 0
  /-- STAT.FULL (R214). -/
  full    : Bool := false
  /-- Namespaces (NSX) under regeneration on the tile (R212, R213). -/
  regen   : List Nat := []
  /-- Namespaces whose regeneration on the tile takes every grain, since a run page was lost (R204). -/
  regenAll : List Nat := []
  running : Option IdxJob := none
  /-- A job that ended with PARITY and has not been repeated: queue and descriptor. -/
  held    : Option (Nat × List Byte) := none
  retired : Option Nat := none
  /-- The pointer of the queue arbiter (R215). -/
  ptr     : Nat := 0
  deriving DecidableEq, Repr

/-- Sift and index state of the package. -/
structure SiftSide where
  /-- Slots of the sessions that hold any. -/
  slots : List SlotSet := []
  /-- Commands in progress. -/
  runs  : List ScanRun := []
  /-- Context areas in bulk SRAM (R193). -/
  areas : List Area := []
  deriving DecidableEq, Repr


/-! ### Program cores, threads and sachets (chapters 10, 11 and 13) -/

/-- An increment of hidden registers with its frame's link record and the mode that it belongs to (R240, R242). -/
structure Incr where
  regs : List Word
  ret  : Word
  user : Bool
  deriving DecidableEq, Repr

/-- An address generator (R244). -/
structure Gen where
  base : Word := 0
  len  : Word := 0
  step : Word := 0
  off  : Word := 0
  mode : BitVec 2 := 0
  deriving DecidableEq, Repr

/-- A region descriptor: RGN_BASE and RGN_LIM (Table 11.3). -/
structure Rgn where
  base : Word := 0
  lim  : Word := 0
  deriving DecidableEq, Repr

/-- A digest context that the runtime keeps for an invocation between DIGEST calls (Table 13.6). -/
structure DgCall where
  alg  : Nat
  data : List Byte
  deriving DecidableEq, Repr

/-- The results of a service that waits: values of w1 to w6 (R284). -/
structure SvcWait where
  regs   : List (Nat × Nat)
  deriving DecidableEq, Repr

/-- An invocation of a sachet on a tile (R287, R291): for a RUN, or for an escalated record of a scan. -/
structure Job where
  /-- The invocation's number. -/
  inv   : Nat
  /-- The command that it serves. -/
  key   : CmdKey
  /-- Grain and record of an escalation. -/
  esc   : Option (Nat × Nat)
  /-- ESC_NEXT has finished the record, and no other has taken its place. -/
  escDone : Bool := false
  snum  : Nat
  /-- Index of its areas among those of its session on the tile (R281). -/
  area  : Nat
  /-- The service that it has called and that the runtime has not taken up yet. -/
  svc   : Option Nat := none
  /-- The service that it waits on, with its results (R284, R290). -/
  wait  : Option SvcWait := none
  /-- RUN input bytes taken by IN_NEXT. -/
  inPos : Nat := 0
  /-- Output bytes of a RUN (R288). -/
  out   : List Byte := []
  /-- Core time that it has held, µs (R291). -/
  cpu   : Nat := 0
  /-- Time at which it was given its core. -/
  since : Nat := 0
  digest : Option DgCall := none
  /-- The first 16 bytes of the last result of its digest context (R331, R333). -/
  dgLast : List Byte := []
  stream : Option StreamCtx := none
  /-- The HOLD window's hold: KSLOT and OWNER, while it is open (R331, R333). -/
  hold   : Option (Nat × Nat) := none
  /-- The HOLD window is readable (R289). -/
  holdOk : Bool := false
  deriving DecidableEq, Repr

/-- A hardware thread (chapter 11). -/
structure Thread where
  id       : ThrId
  /-- Started by the tile steward, and not stopped (R253, R254). -/
  running  : Bool := false
  /-- The stop flag with the cause of the stop (R253). -/
  stop     : Option Nat := none
  /-- In WAIT (R273). -/
  waiting  : Bool := false
  /-- Program counter (R238). -/
  pc       : Word := 0
  /-- STATUS.MODE: steward (Table 11.3). -/
  steward  : Bool := true
  /-- STATUS.SAT (R246). -/
  sat      : Bool := false
  /-- STATUS.AOV (R246). -/
  aov      : Bool := false
  /-- ESTATUS (R250). -/
  estatus  : Word := 0
  /-- EPC (R250). -/
  epc      : Word := 0
  /-- CAUSE (R250). -/
  cause    : Word := 0
  /-- BADADDR (R250). -/
  badaddr  : Word := 0
  /-- WDEPTH (R240). -/
  wdepth   : Nat := 0
  /-- EWDEPTH (R250). -/
  ewdepth  : Nat := 0
  /-- SPILLBASE, SPILLPTR, SPILLLIM (R242). -/
  spillBase : Word := 0
  spillPtr  : Word := 0
  spillLim  : Word := 0
  /-- SSPILLBASE, SSPILLPTR, SSPILLLIM (R242). -/
  sspillBase : Word := 0
  sspillPtr  : Word := 0
  sspillLim  : Word := 0
  /-- ACCHI:ACCLO (R246). -/
  acc      : BitVec 64 := 0
  /-- CYCHI as the last read of CYCLO latched it (Table 11.3). -/
  cycHi    : Word := 0
  /-- g0 to g3 (R244). -/
  gens     : List Gen := List.replicate 4 {}
  /-- The eight region descriptors (R248). -/
  rgns     : List Rgn := List.replicate 8 {}
  /-- SVEC (Table 11.3). -/
  svec     : Word := 0
  /-- SSCRATCH (Table 11.3). -/
  sscratch : Word := 0
  /-- k1 to k7 of user mode (R239). -/
  ku       : List Word := List.replicate 7 0
  /-- k1 to k7 of steward mode (R239). -/
  ks       : List Word := List.replicate 7 0
  /-- w0 to w23 (R240). -/
  win      : List Word := List.replicate 24 0
  /-- The resident increments, newest first (R242). -/
  incs     : List Incr := []
  /-- Interrupts that are pending: QUANTUM, SIGNAL (R250). -/
  irqQuantum : Bool := false
  irqSignal  : Bool := false
  /-- The invocation that it runs. -/
  job      : Option Job := none
  deriving DecidableEq, Repr

/-- Work that waits for a thread of a tile (R233). -/
inductive Work where
  /-- A RUN that has passed its check. -/
  | run (k : CmdKey)
  /-- An escalated record: grain and record. -/
  | esc (k : CmdKey) (gidx ridx : Nat)
  /-- An invocation that was preempted, by its number. -/
  | ctx (inv : Nat)
  deriving DecidableEq, Repr

/-- An entry of a tile's run queue, with the session and its class. -/
structure Waiting where
  tile : Nat
  snum : Nat
  cls  : Nat
  what : Work
  deriving DecidableEq, Repr

/-- The areas of one thread of a session on a tile (Table 13.4): first addresses. -/
structure ThrArea where
  tile  : Nat
  snum  : Nat
  idx   : Nat
  priv  : Nat
  spill : Nat
  inW   : Nat
  outW  : Nat
  hold  : Nat
  /-- The areas were initialised and no fault came since (R282). -/
  ready : Bool := false
  deriving DecidableEq, Repr

/-- A range of a tile's program pool in use (R299). -/
structure PoolRange where
  tile : Nat
  base : Nat
  size : Nat
  snum : Nat
  deriving DecidableEq, Repr

/-- A sealed sachet (R278). -/
structure Sachet where
  slot   : Nat
  snum   : Nat
  /-- The session handle under its seal tag. -/
  handle : Nat
  /-- The image as sealed: header, code and data. -/
  image  : List Byte
  /-- The seal tag in the program store of each tile (R280). -/
  tags   : List (Nat × List Byte)
  /-- First address of the code and of the shared area on each tile. -/
  code   : List (Nat × Nat)
  shared : List (Nat × Nat)
  /-- A seal tag failed: the sachet is unbound on every tile (R280). -/
  unbound : Bool := false
  invocations : Nat := 0
  faults : Nat := 0
  deriving DecidableEq, Repr

/-- The program cores and what sessions run on them. -/
structure CoreSide where
  /-- Threads that the tile stewards have started. -/
  threads : List Thread := []
  /-- Invocations that wait for a service or for their next quantum: tile and context. -/
  parked  : List (Nat × Thread) := []
  /-- The run queues, the work that has waited longest first. -/
  queue   : List Waiting := []
  /-- The number of the next invocation. -/
  nextInv : Nat := 0
  /-- Sealed sachets. -/
  sachets : List Sachet := []
  /-- Staging areas: session and image bytes (R278). -/
  staged  : List (Nat × List Byte) := []
  areas   : List ThrArea := []
  pool    : List PoolRange := []
  /-- LOG entries of a session: session, second, entries, entries dropped (Table 13.6). -/
  logRate : List (Nat × Nat × Nat × Nat) := []
  /-- Scheduler pointers by tile (R233), issue pointers by tile × 8 + core (R255). -/
  schedPtr : List (Nat × Nat) := []
  issuePtr : List (Nat × Nat) := []
  /-- Sessions of a function whose oversteps were counted (R235): function number and count. -/
  oversteps : List (FnId × Nat) := []
  deriving DecidableEq, Repr


/-! ### Keys, cipher queue and digest engine (chapter 15) -/

/-- A key slot that is not EMPTY (Table 15.2). -/
structure KeySlot where
  slot  : Nat
  /-- KATTR. -/
  attr  : Nat
  key   : List Byte
  /-- The 96-bit nonce counter (R332). -/
  nonce : Nat := 0
  deriving DecidableEq, Repr

/-- An open hold (R330). -/
structure Hold where
  hid   : Nat
  base  : Nat
  kslot : Nat
  owner : Nat
  deriving DecidableEq, Repr

/-- The request that a cipher queue engine runs, with its completion (Table 15.6). -/
structure CqeJob where
  queue  : Nat
  desc   : List Byte
  status : Nat
  out    : Nat := 0
  deriving DecidableEq, Repr

/-- The cipher queue engine of one tile. -/
structure CipherEng where
  running : Option CqeJob := none
  /-- A request that ended with PARITY and has not been repeated: queue and descriptor. -/
  held    : Option (Nat × List Byte) := none
  retired : Option Nat := none
  /-- The pointer of the queue arbiter (R329). -/
  ptr     : Nat := 0
  holds   : List Hold := []
  /-- Slots in the key cache, the newest last (R325). -/
  cache   : List Nat := []
  deriving DecidableEq, Repr

/-- A digest message (R334 to R337). -/
structure DgMsg where
  alg   : Nat
  decl  : Bool
  tokey : Bool
  cmp   : Bool
  /-- The KMAC key, taken at START. -/
  key   : List Byte
  cust  : List Byte
  data  : List Byte
  /-- Bytes of output squeezed so far (R337). -/
  squeezed : Nat := 0
  deriving DecidableEq, Repr

/-- The digest engine of one tile. -/
structure Dge where
  msg     : Option DgMsg := none
  /-- Bytes of a FEED that are still to be absorbed. -/
  feeding : Option (List Byte) := none
  /-- Save areas written since start-up: area bytes, message, and the owner's error flags (R340). -/
  saves   : List (List Byte × DgMsg × Nat) := []
  /-- The first 16 bytes of the last result of each owner (R331). -/
  last    : List (Nat × List Byte) := []
  held    : Bool := false
  retired : Option Nat := none
  /-- The pointer of the control arbiter (R339). -/
  ptr     : Nat := 0
  deriving DecidableEq, Repr

/-- An inline XTS engine. -/
structure Xts where
  retired : Option Nat := none
  cache   : List Nat := []
  deriving DecidableEq, Repr

/-- The key store (R320). -/
structure KeyStore where
  /-- Slots that are not EMPTY, by slot. -/
  slots : List KeySlot := []
  /-- The pointer of the key store arbiter (R325). -/
  ptr   : Nat := 0
  /-- Key bytes of KEYW0 to KEYW7 in the key path (R323). -/
  kw    : List Word := List.replicate 8 0
  deriving DecidableEq, Repr

/-! ### Identity, firmware and attestation (chapter 16) -/

/-- One copy of a boot slot with the descriptor page that follows it. -/
structure FwCopy where
  image : List Byte := []
  /-- SEQ of a descriptor that checks. -/
  seq   : Option Nat := none
  deriving DecidableEq, Repr

/-- The staging area of the package (R355). -/
structure FwStaging where
  holder : Carrier
  bytes  : List Byte
  /-- Ranges written: offset and end. -/
  parts  : List (Nat × Nat)
  /-- Time of the last write, µs. -/
  last   : Nat
  deriving DecidableEq, Repr

/-- The state of one SPDM connection (R357). -/
structure Spdm where
  car   : Carrier
  /-- 1 after GET_VERSION, 2 after GET_CAPABILITIES, 3 after NEGOTIATE_ALGORITHMS. -/
  stage : Nat := 0
  /-- Message A, B and C, and the L1 of measurements: the transcripts. -/
  msgA  : List Byte := []
  msgB  : List Byte := []
  msgL  : List Byte := []
  /-- DataTransferSize that the requester's GET_CAPABILITIES gave. -/
  dts   : Nat := 0
  /-- A large response being fetched in chunks: handle, bytes, next chunk. -/
  large : Option (Nat × List Byte × Nat) := none
  handle : Nat := 0
  /-- A deferred response: request code, token, response (RESPOND_IF_READY). -/
  deferred : Option (Nat × Nat × List Byte) := none
  deriving DecidableEq, Repr

/-- Firmware and attestation state. -/
structure Identity where
  /-- Slot A on FC000 and FC016, slot B on FC000 and FC016. -/
  a0 : FwCopy := {}
  a1 : FwCopy := {}
  b0 : FwCopy := {}
  b1 : FwCopy := {}
  /-- The running slot: 0 A, 1 B; none in recovery or for an image run from SRAM. -/
  slot : Option Nat := none
  /-- The running image. -/
  image : List Byte := []
  staging : Option FwStaging := none
  spdm : List Spdm := []
  /-- The private key was rebuilt and no alarm cleared it (R347). -/
  signing : Bool := false
  /-- Open debug scopes (R358). -/
  debug : Nat := 0
  /-- An activation waits for the next reset (R355). -/
  nextReset : Bool := false
  /-- Activation now: fetching has stopped, and commands complete (R355). -/
  activating : Bool := false
  deriving DecidableEq, Repr



/-! ### Mirror pair and rein link (chapter 19) -/

/-- A frame that the transmitter sends (Tables 19.5 and 19.6). -/
structure RFrame where
  type    : Nat
  flags   : Nat
  seq     : Nat
  ack     : Nat
  epoch   : Nat
  payload : List Byte
  deriving DecidableEq, Repr

/-- What waits for a mirrored change: a write of the host, a MATERIALIZE, or a sachet's NS_WRITE (R399). -/
inductive MirrWho where
  | cmd (k : CmdKey)
  | run (k : CmdKey)
  | inv (n : Nat)
  /-- No command: a resend of the backlog (R413). -/
  | resend
  deriving DecidableEq, Repr

/-- One range of a mirrored change: OP, SLBA, NLB and the data of OP 1 or OP 4 (Table 19.6). -/
structure MirrPart where
  op   : Nat
  slba : Nat
  nlb  : Nat
  data : List Byte
  deriving DecidableEq, Repr

/-- A change that the primary has forwarded (R400, R401). -/
structure MirrOut where
  nsid  : Nat
  term  : Nat
  /-- First and last MSEQ: one for each range. -/
  lo    : Nat
  hi    : Nat
  group : Nat
  who   : MirrWho
  fua   : Bool
  parts : List MirrPart
  /-- MACK STAGED has arrived: the commit point (R401). -/
  acked : Bool := false
  deriving DecidableEq, Repr

/-- A change that the primary has withdrawn and whose VOIDACK is awaited (R402). -/
structure MirrVoid where
  nsid : Nat
  mseq : Nat
  who  : MirrWho
  /-- The status that the command ends with. -/
  stat : NvmeStatus
  deriving DecidableEq, Repr

/-- A pending change of the secondary (R401, R408). -/
structure MirrPend where
  nsid   : Nat
  mseq   : Nat
  term   : Nat
  slba   : Nat
  nlb    : Nat
  op     : Nat
  fua    : Bool
  dbytes : Nat
  data   : List Byte := []
  /-- All DATA has been taken and MACK STAGED is sent. -/
  staged : Bool := false
  /-- REJECT is sent, and the primary's VOID is awaited. -/
  reject : Bool := false
  deriving DecidableEq, Repr

/-- Run-time state of a mirrored namespace (Table 19.1, R411 to R414). -/
structure MirrNs where
  nsid     : Nat
  /-- STATE of NS_STATE: 0 in step, 1 catching up, 2 peer unavailable, 3 split, 4 resyncing. -/
  state    : Nat := 2
  /-- The two histories diverge (R412): 0 no, 1 split and this unit keeps writing, 2 split and read-only here (R414). -/
  split    : Nat := 0
  /-- MSEQ of the last change forwarded. -/
  sent     : Nat := 0
  /-- The peer's role as its STATE gave it: primary; none when it is not known. -/
  peerPrim : Option Bool := none
  peerMseq : Nat := 0
  /-- The peer's last MACK DURABLE (R413). -/
  peerDur  : Nat := 0
  peerTerms : List MirrTerm := []
  /-- The backlog: leaf span of the namespace and MSEQ (R413). -/
  backlog  : List (Nat × Nat) := []
  /-- Every span must be resent (R413). -/
  full     : Bool := false
  /-- Resends not yet acknowledged: MSEQ. -/
  resends  : List Nat := []
  /-- Changes applied here that are not reported durable yet: MSEQ and group. -/
  applied  : List (Nat × Nat) := []
  /-- MSEQ up to which MACK DURABLE was sent. -/
  durSent  : Nat := 0
  deriving DecidableEq, Repr

/-- A rate step in progress (R405). -/
structure RateStep where
  rate  : Nat
  /-- The rate before the step. -/
  old   : Nat
  /-- 0 RATE sent, 1 acknowledged, and LOCKED awaited, 2 failed once, and the retry awaited. -/
  phase : Nat
  retry : Bool
  deriving DecidableEq, Repr

/-- The rein link. Its registers hold the rest (Table 19.10). -/
structure Rein where
  /-- Frames sent and not yet acknowledged, the oldest first (R410). -/
  unacked : List RFrame := []
  /-- Sequenced frames that wait for room or for a rate step: index at the arbiter of R409, type and payload. -/
  queue   : List (Nat × Nat × List Byte) := []
  /-- The pointer of the transmit arbiter (R409). -/
  ptr     : Nat := 0
  /-- Every frame that was put on the lanes, the oldest first. -/
  wire    : List RFrame := []
  /-- The SEQ of the oldest frame retransmitted and not yet acknowledged (R407). -/
  retx    : Option Nat := none
  /-- The SEQ that was expected when a frame last failed (R407). -/
  rxFail  : Option Nat := none
  /-- LINK before a retrain, while one runs. -/
  retrain : Option Nat := none
  /-- This unit's nonce, and what the peer's HELLO gave: nonce, UID, PD, PREF (R407). -/
  nonce   : List Byte := []
  peer    : Option (List Byte × List Byte × List Byte × Nat) := none
  /-- The peer's certificate chain as far as it has come. -/
  chain   : List Byte := []
  /-- This unit has sent PROOF; the peer's PROOF has checked; or it failed. -/
  proved  : Bool := false
  proofOk : Bool := false
  failed  : Bool := false
  /-- The change that DATA frames belong to (R408): NSID and MSEQ. -/
  cur     : Option (Nat × Nat) := none
  /-- No frame has arrived for PEER_TMO (R403). -/
  silent  : Bool := false
  /-- A step of this unit's transmitter (R405). -/
  step    : Option RateStep := none
  /-- A rate named by the peer's RATE, which its receiver here relocks to. -/
  relock  : Option Nat := none
  /-- Consecutive windows below STEP_DOWN. -/
  low     : Nat := 0
  deriving DecidableEq, Repr

/-- The mirror side of the package. -/
structure MirrorSide where
  rein  : Rein := {}
  ns    : List MirrNs := []
  out   : List MirrOut := []
  voids : List MirrVoid := []
  pend  : List MirrPend := []
  deriving DecidableEq, Repr



/-! ### Pins (chapter 21) -/

/-- The instruction of the test access port (R438). -/
inductive TapIr where
  | bypass | idcode | samplePreload | extest | clamp | highz
  deriving DecidableEq, Repr

/-- The control inputs, the GPIO pins and the test access port. -/
structure Pins where
  /-- Levels at GPIO0 to GPIO7. GPIO0 is PFAIL_N, which the board holds high (R368, R444). -/
  gpio    : List Bool := [true, false, false, false, false, false, false, false]
  /-- PERST_N is asserted: low (R441). -/
  perst   : Bool := true
  /-- The straps as the board ties them (R440). -/
  bootSel : BitVec 2 := 0
  pairEn  : Bool := false
  /-- ACT: a host command came within the last 50 ms (R444). -/
  act     : Bool := false
  /-- VSET, the code of the VDD_CORE set point (R443). -/
  vset    : Nat := 8
  /-- The instruction in force at the test access port (R438). -/
  tap     : TapIr := .idcode
  /-- The data register that the instruction selected, as captured: the ID register, or the bypass bit. -/
  dr      : Nat := 0
  /-- The boundary-scan cells, as preloaded (R438). -/
  cells   : List Bool := []
  deriving DecidableEq, Repr


/-! ### The whole device -/

/-- The engines and the translation layer of one tile. -/
structure Tile where
  flash : Flash := {}
  comp  : Comp := {}
  ftl   : Ftl := {}
  siftA : SiftEng := {}
  siftB : SiftEng := {}
  idx   : IdxSide := {}
  cqe   : CipherEng := {}
  dge   : Dge := {}
  xtsA  : Xts := {}
  xtsB  : Xts := {}
  deriving DecidableEq, Repr

/-- The state of the device. -/
structure State where
  /-- Fuses, which nothing but a fuse program changes. -/
  fuses  : Fuses := {}
  /-- Internal registers. -/
  regs   : RegFile := {}
  /-- The cinch. -/
  cinch  : Cinch := {}
  /-- Memories of the tiles, and host memory behind HWIN. -/
  mem    : Memory := {}
  /-- Engines and translation layer of T0 to T7. -/
  tiles  : Vector Tile 8 := Vector.replicate 8 {}
  /-- Ports, controllers, queues and commands. -/
  host   : HostSide := {}
  /-- Mailboxes and messages. -/
  lmcs   : Lmcs := {}
  /-- The configuration store. -/
  cfg    : ConfigState := {}
  /-- Run-time state of the namespaces. -/
  ns     : List NsRun := []
  /-- Sessions and quotas. -/
  ses    : SessionSide := {}
  /-- Scans, queries and what sessions have installed for them. -/
  sift   : SiftSide := {}
  /-- Program cores, threads and sachets. -/
  cores  : CoreSide := {}
  /-- The key store. -/
  keys   : KeyStore := {}
  /-- Pins and the test access port. -/
  pins   : Pins := {}
  /-- Mirror pair and rein link. -/
  mirror : MirrorSide := {}
  /-- Firmware, identity and attestation. -/
  ident  : Identity := {}
  /-- Start-up. -/
  boot   : Startup := {}
  /-- Power and the governor. -/
  power  : Power := {}
  /-- Logs. -/
  logs   : Logs := {}
  /-- Time since the state began, µs. -/
  now    : Nat := 0
  /-- The model's own counter of free values drawn (not the manual's; no statement rests on it). -/
  free   : Nat := 0
  /-- Commands that wait, first in, first out. -/
  pending : List Instr := []
  deriving DecidableEq, Repr

/-- The device at the end of the PWROK reset (R8, R43): every register at its reset value, every engine disabled, no queue, no
session, memory with nothing listed. -/
def State.reset : State := {}

end Sys2Proof.Machine
end

