-- ==== Sys2Proof/Machine/Ops.lean ====
section
/-! DEFINITION. Machine/Ops.lean: the named operations over the state that every meaning is written with: parts, registers,
interrupts, memory, logs and free values. -/

namespace Sys2Proof.Machine

open Sys2Proof

/-- What `exec` answers. -/
abbrev Out := Host.Outcome State Fault Refusal

/-! ### How a command ends -/

/-- An owner entry after a command: a blown entry never becomes free, and a revoked one never comes back (R352). -/
def OwnerEntry.advance : OwnerEntry → OwnerEntry → OwnerEntry
  | .free, e => e
  | .inUse k, e => if e = .spent then .spent else .inUse k
  | .spent, _ => .spent

/-- The fuse bank after a command: a blown fuse stays blown, F has 128 steps and never falls, owner entries are spent one way, alarms
are only counted, and nothing else in the bank changes (R11, R341, R351, R352). -/
def Fuses.advance (old new : Fuses) : Fuses :=
  { old with
    rollback := max old.rollback (min 128 new.rollback)
    owners := old.owners.mapIdx fun i e => e.advance (new.owners.getD i e)
    alarms := max old.alarms new.alarms }

/-- What a command leaves: the state `t` that its meaning makes of `s`. The queue of waiting commands is not the command's, and the
fuse bank moves one way. -/
def State.ended (s t : State) : State := { t with fuses := s.fuses.advance t.fuses, pending := s.pending }

/-- A command's answer: every meaning ends here. -/
def State.ends (s t : State) : Out := .next (s.ended t)

/-! ### The part -/

/-- Tiles of a part (Table 0.1). -/
def Part.tiles : Part → Nat
  | .ltr2032 => 2
  | .ltr4064 => 4
  | .ltr8128 => 8

/-- LTID.PART (R42). -/
def Part.code : Part → Nat
  | .ltr2032 => 0x2032
  | .ltr4064 => 0x4064
  | .ltr8128 => 0x8128

/-- The governor cap range in 10 mW units (Table 1.7). -/
def Part.capLow : Part → Nat
  | .ltr2032 => 500
  | .ltr4064 => 800
  | .ltr8128 => 1200

/-- The top of the governor cap range, which is its default (Table 1.7, R22). -/
def Part.capTop : Part → Nat
  | .ltr2032 => 1010
  | .ltr4064 => 1760
  | .ltr8128 => 3000

/-- The number of tiles. -/
def State.n (s : State) : Nat := s.fuses.part.tiles

/-- Whether a tile is on the part (R23). -/
def State.hasTile (s : State) (t : Nat) : Bool := t < s.n

/-- LTID (R42). -/
def State.ltid (s : State) : Word :=
  BitVec.ofNat 32 (1 + s.n * 16 + s.fuses.stepMinor.toNat * 256 + s.fuses.stepMajor.toNat * 4096
    + s.fuses.part.code * 65536)

/-- The tile's column count (chapter 1). -/
def State.cols (s : State) : Nat := match s.fuses.part with
  | .ltr8128 => 4
  | _ => 2

/-- The die-to-die hops between two tiles (R12). -/
def State.hops (s : State) (a b : Nat) : Nat :=
  let d (x y : Nat) := (x - y) + (y - x)
  d (a % s.cols) (b % s.cols) + d (a / s.cols) (b / s.cols)

/-- The state with one tile changed. -/
def State.onTile (s : State) (t : TileId) (f : Tile → Tile) : State :=
  { s with tiles := s.tiles.set t (f s.tiles[t]) }

/-- The tile numbered `t`, T0 where there is none. -/
def State.tileAt (s : State) (t : Nat) : Tile := s.tiles.toList.getD t {}

/-- The state with the tile numbered `t` changed; unchanged where there is none. -/
def State.onTileAt (s : State) (t : Nat) (f : Tile → Tile) : State :=
  if h : t < 8 then s.onTile ⟨t, h⟩ f else s

/-- The tiles of the part. -/
def State.tileIds (s : State) : List Nat := List.range s.n

/-! ### Free values -/

/-- The next free value, and the state that has drawn it. -/
def State.draw (s : State) : Nat × State := (Config.freeNat s.free, { s with free := s.free + 1 })

/-- `k` free bytes, and the state that has drawn them. -/
def State.drawBytes (s : State) (k : Nat) : List Byte × State :=
  (leBytes k (Config.freeNat s.free), { s with free := s.free + 1 })

/-! ### Registers -/

/-- The address of a register. -/
def regAddr (b : Block) (off : Nat) : Nat := b.base + off

/-- Reset value of the register at an address, with the fuse values of the part (R8, R173, R376). -/
def State.resetVal (s : State) (a : Nat) : Word :=
  if a = 0x20000000 then s.ltid
  else if a = 0x20000200 then BitVec.ofNat 32 s.fuses.part.capTop
  else match blockAt s.n a with
    | some (.cmp t, 0x00C) => BitVec.ofNat 32 (t ^^^ 1)
    | some (b, off) => b.resetOf off
    | none => 0

/-- The current or staged value of a register. -/
def State.reg (s : State) (a : Nat) : Word := (kvGet a s.regs.cells).getD (s.resetVal (a % 2 ^ 32))

/-- The value of a register of a block, as a number. -/
def State.rd (s : State) (b : Block) (off : Nat) : Nat := (s.reg (regAddr b off)).toNat

/-- The state with a register set. -/
def State.setReg (s : State) (a : Nat) (v : Word) : State :=
  { s with regs := { s.regs with cells := kvSet a v s.regs.cells } }

/-- The state with a register of a block set to a number. -/
def State.wr (s : State) (b : Block) (off v : Nat) : State := s.setReg (regAddr b off) (BitVec.ofNat 32 v)

/-- The state with bits `hi` down to `lo` of a register replaced. -/
def State.wrField (s : State) (b : Block) (off hi lo v : Nat) : State :=
  s.wr b off (withField (s.rd b off) hi lo v)

/-- Bits `hi` down to `lo` of a register. -/
def State.rdField (s : State) (b : Block) (off hi lo : Nat) : Nat := field (s.rd b off) hi lo

/-- A counter that saturates at 0xFFFF_FFFF, advanced by `k` (R158, R319). -/
def State.count (s : State) (b : Block) (off k : Nat) : State := s.wr b off (min 0xFFFFFFFF (s.rd b off + k))

/-- A flag of a status register set by the hardware. -/
def State.flag (s : State) (b : Block) (off bit : Nat) : State := s.wrField b off bit bit 1

/-- A flag of a status register cleared by the hardware. -/
def State.unflag (s : State) (b : Block) (off bit : Nat) : State := s.wrField b off bit bit 0

/-- The effective value of an RWS register for operations with an epoch tag (R39, R45, R46). -/
def State.effective (s : State) (a : Nat) (tag : BitVec 16) : Word :=
  (kvGet a (if tag = s.cinch.cur then s.regs.eff else s.regs.effPend)).getD (s.resetVal (a % 2 ^ 32))

/-- The effective value, for the current epoch, of an RWS register of a block. -/
def State.eff (s : State) (b : Block) (off : Nat) : Nat := (s.effective (regAddr b off) s.cinch.cur).toNat

/-- The power domain that gates a block: tile and bit of PD_CTRL (R359); none for a block that never switches off. -/
def Block.domain : Block → Option (Nat × Nat)
  | .fch t c => some (t, if c < 8 then 0 else 1)
  | .sft t c | .xts t c => some (t, c)
  | .core t => some (t, 2)
  | .cmp t | .idx t | .cqe t | .dge t => some (t, 3)
  | .host p => some (p, 4)
  | .rein => some (1, 5)
  | _ => none

/-- Whether the domain of a block is on (R360). -/
def State.blockOn (s : State) (b : Block) : Bool :=
  match b.domain with
  | none => true
  | some d => s.power.on.contains d

/-- A DECERR_STAT flag raised by an access at `a`: 0 UNDEC, 1 SIZE, 2 BUSYWR. DECERR_ADDR takes the address of the first access
that set a flag while all flags were clear (R40). -/
def State.decErr (s : State) (a : Nat) (bit : Nat) : State :=
  let s1 := if s.rd .glb 0x120 % 8 = 0 then s.wr .glb 0x124 a else s
  s1.flag .glb 0x120 bit

/-! ### Memory (Table 14.1) -/

/-- The key of an address in the bulk SRAM or scratch of tile `t`. -/
def memKey (t a : Nat) : Nat := 0x08000000 + t * 0x02000000 + a

/-- What a byte of SRAM that nothing has written reads as (Assumption 2). -/
def Memory.blank : Byte := 0

/-- The byte under a key. -/
def Memory.readCell (m : Memory) (k : Nat) : Byte := (kvGet k m.cells).getD Memory.blank

/-- One cell of a canonical memory set: writing the value that an unlisted address reads as removes the entry. -/
def putCell (k : Nat) (v : Byte) (m : List Host.Cell) : List Host.Cell :=
  if v = Memory.blank then kvDel k m else kvSet k v m

/-- The memory with one byte written. -/
def Memory.writeCell (m : Memory) (k : Nat) (v : Byte) : Memory := { m with cells := putCell k v m.cells }

/-- Whether a cell list is in the canonical form: addresses strictly rising, no blank entry. -/
def cellsWf : List Host.Cell → Bool
  | [] => true
  | [(_, v)] => v != Memory.blank
  | (a, v) :: (b, w) :: rest => v != Memory.blank && a < b && cellsWf ((b, w) :: rest)

/-- The canonical form of the memory. -/
def Memory.wf (m : Memory) : Bool := cellsWf m.cells && cellsWf m.host

/-- `k` bytes from a key. -/
def Memory.readCells (m : Memory) (k : Nat) : Nat → List Byte
  | 0 => []
  | n + 1 => m.readCell k :: m.readCells (k + 1) n

/-- Bytes written from a key. -/
def Memory.writeCells (m : Memory) (k : Nat) : List Byte → Memory
  | [] => m
  | b :: bs => (m.writeCell k b).writeCells (k + 1) bs

/-- A host memory byte (Table 14.1). -/
def Memory.readHost (m : Memory) (a : Nat) : Byte := (kvGet a m.host).getD Memory.blank

/-- Where an address of tile `t` lies (Table 14.1, R293). -/
inductive Place where
  /-- Bulk SRAM or scratch, by its key; `own` for the tile's own memory. -/
  | sram (key : Nat) (own : Bool)
  /-- Register space. -/
  | register
  /-- Host memory, by its host address. -/
  | host (a : Nat)
  /-- Not decoded. -/
  | none
  deriving DecidableEq, Repr

/-- The number of slices of L2 scratch (R298). -/
def State.scr (s : State) (t : Nat) : Nat := min 12 (s.rdField (.mem t) 0x008 3 0)

/-- The place that an address of tile `t` decodes to. -/
def State.place (s : State) (t a : Nat) : Place :=
  if a < 0x01800000 then .sram (memKey t a) true
  else if a < 0x01800000 + s.scr t * 0x40000 then .sram (memKey t a) true
  else if 0x08000000 ≤ a ∧ a < 0x08000000 + s.n * 0x02000000 then
    let u := (a - 0x08000000) / 0x02000000
    if (a - 0x08000000) % 0x02000000 < 0x01800000 then .sram a (u == t) else .none
  else if 0x20000000 ≤ a ∧ a < 0x60000000 then .register
  else if 0x80000000 ≤ a ∧ a < 0x100000000 then
    .host (s.rd (.mem t) 0x068 * 2 ^ 32 + s.rd (.mem t) 0x064 / 2 ^ 31 * 2 ^ 31 + (a - 0x80000000))
  else .none

/-- Whether the bank that holds a key is retired on its tile (R314). -/
def State.bankRetired (s : State) (key : Nat) : Bool :=
  let t := (key - 0x08000000) / 0x02000000
  let a := (key - 0x08000000) % 0x02000000
  let b := a / 0x80000
  a < 0x01800000 && bitN (s.rd (.mem t) (if b < 32 then 0x04C else 0x050)) (b % 32)

/-- Whether the 64-bit word that holds a key is poisoned, or in a retired bank (R308, R314). -/
def State.poisoned (s : State) (key : Nat) : Bool :=
  s.mem.poison.contains (key / 8 * 8) || s.bankRetired key

/-- Whether the byte under a key lies in an open hold of its tile (R330). -/
def State.heldKey (s : State) (key : Nat) : Bool :=
  let t := (key - 0x08000000) / 0x02000000
  (s.tileAt t).cqe.holds.any fun h => memKey t h.base ≤ key && key < memKey t h.base + 16384

/-- Whether a range of keys meets an open hold (R330). -/
def State.heldRange (s : State) (key n : Nat) : Bool :=
  let t := (key - 0x08000000) / 0x02000000
  (s.tileAt t).cqe.holds.any fun h => memKey t h.base < key + n && key < memKey t h.base + 16384

/-- `n` bytes of the memory of tile `t` from address `a`, as the cipher queue reads them. -/
def State.rawRead (s : State) (t a n : Nat) : List Byte :=
  match s.place t a with
  | .sram k _ => s.mem.readCells k n
  | .host h => (List.range n).map fun i => s.mem.readHost (h + i)
  | _ => zeros n

/-- `n` bytes of the memory of tile `t` from address `a`, as an engine or steward reads them: zero inside an open hold (R330). -/
def State.readMem (s : State) (t a n : Nat) : List Byte :=
  match s.place t a with
  | .sram k _ =>
    if s.heldRange k n then (List.range n).map fun i => if s.heldKey (k + i) then 0 else s.mem.readCell (k + i)
    else s.mem.readCells k n
  | _ => s.rawRead t a n

/-- A whole-word or line write of the cipher queue, or of an engine outside every hold: bytes from address `a` of tile `t`, clearing
poison of the words it covers whole (R309). A write to a retired bank is discarded (R314). -/
def State.rawWrite (s : State) (t a : Nat) (bs : List Byte) : State :=
  match s.place t a with
  | .sram k _ =>
    if s.bankRetired k then s
    else { s with mem := { (s.mem.writeCells k bs) with
             poison := s.mem.poison.filter fun w => !(k ≤ w && w + 8 ≤ k + bs.length) } }
  | .host h => { s with mem := { s.mem with host := (bs.foldl (fun (p : Nat × List Host.Cell) b =>
                   (p.1 + 1, putCell p.1 b p.2)) (h, s.mem.host)).2 } }
  | _ => s

/-- A refused access to a held range counted in CNT_HOLDREF of its tile (R330). -/
def State.holdRef (s : State) (t a n : Nat) : State :=
  match s.place t a with
  | .sram k _ => if s.heldRange k n then s.count (.cqe ((k - 0x08000000) / 0x02000000)) 0x088 1 else s
  | _ => s

/-- A write of an engine or steward: bytes inside an open hold are discarded (R330). -/
def State.writeMem (s : State) (t a : Nat) (bs : List Byte) : State :=
  match s.place t a with
  | .sram k _ =>
    if s.heldRange k bs.length then
      let old := s.mem.readCells k bs.length
      let new := (List.range bs.length).map fun i => if s.heldKey (k + i) then old.getD i 0 else bs.getD i 0
      (s.rawWrite t a new).holdRef t a bs.length
    else s.rawWrite t a bs
  | _ => s.rawWrite t a bs

/-- A little-endian number of `n` bytes in the memory of tile `t`. -/
def State.readLe (s : State) (t a n : Nat) : Nat := leNat (s.readMem t a n)

/-! ### Logs and events (chapter 20) -/

/-- The newest `k` of a list kept oldest first. -/
def newest {α : Type} (k : Nat) (xs : List α) : List α := if xs.length ≤ k then xs else xs.drop (xs.length - k)

/-- The logs with a package event: kept in T0's SRAM, and in the persistent log when it is ERROR or CRITICAL (R424, R425). -/
def Logs.add (l : Logs) (e : LogEntry) : Logs :=
  { l with
    nextSeq := l.nextSeq + 1
    events := newest 4096 (l.events ++ [e])
    persist := if 2 ≤ e.sev then newest 65536 (l.persist ++ [e]) else l.persist }

/-- A package event: severity, cause, kind, source, unit and detail (R424, R425). -/
def State.log (s : State) (sev cause kind src unit detail : Nat) : State :=
  { s with logs := s.logs.add ⟨s.logs.nextSeq, s.now - s.boot.since, sev, cause, kind, src, unit, none, detail, []⟩ }

/-- A TRANSIENT of a resource: at most one entry a second for each (R424). -/
def State.logTransient (s : State) (cause src unit : Nat) : State :=
  let r := cause * 2 ^ 24 + src * 2 ^ 16 + unit
  let sec := s.now / 1000000
  if kvGet r s.logs.lastTransient = some sec then s
  else
    let s1 := s.log 1 cause 1 src unit 0
    { s1 with logs := { s1.logs with lastTransient := kvSet r sec s1.logs.lastTransient } }

/-- An entry in the log of a function (R423). -/
def State.logFunc (s : State) (f : FnId) (sev cause detail : Nat) (extra : List Byte := []) : State :=
  let old := s.logs.funcs.find? (fun x => x.1 == f)
  let seq := (old.map fun x => x.2.1).getD 0
  let es := (old.map fun x => x.2.2).getD []
  let e : LogEntry := ⟨seq, s.now - s.boot.since, sev, cause, 4, 8, 0, some f, detail, extra⟩
  { s with logs := { s.logs with
      funcs := s.logs.funcs.filter (fun x => x.1 != f) ++ [(f, seq + 1, newest 256 (es ++ [e]))] } }

/-- The log of a function cleared (R423). -/
def State.clearFuncLog (s : State) (f : FnId) : State :=
  { s with logs := { s.logs with funcs := s.logs.funcs.filter fun x => x.1 != f } }

/-- The enable bit of Asynchronous Event Configuration that governs an event of a type and information code. Error events are
always reported; the SMART, notice and vendor bits follow NVM Express (Assumption 11). -/
def eventEnabled (cfg : Word) (type info : Nat) : Bool :=
  match type with
  | 0 => true
  | 1 => bitN cfg.toNat (if info = 0 then 0 else if info = 1 then 1 else 2)
  | 2 => if info = 0 then bitN cfg.toNat 8 else bitN cfg.toNat 9
  | _ => bitN cfg.toNat (16 + info)

/-- A completion entry posted (R467): every status but success carries DNR 1, save those that the requirement lists. -/
def statusDnr : NvmeStatus → Bool
  | .success | .notReady | .dataTransferError | .abortRequested | .indexNotReady | .peerUnavailable => false
  | _ => true

/-- CRD: CRDT1 for Namespace Not Ready and Index Not Ready, otherwise 0 (R70, R388, R467). -/
def statusCrd : NvmeStatus → BitVec 2
  | .notReady | .indexNotReady => 1
  | _ => 0

/-- A completion of a command, with an error entry for each that ends with an error (Table 20.5). -/
def State.post (s : State) (c : Cqe) : State :=
  { s with
    host := { s.host with cqes := s.host.cqes ++ [c] }
    logs := if c.status = .success then s.logs
            else { s.logs with errors := ((c.key, c.status) :: s.logs.errors).take 64 } }

/-- A plain completion. -/
def Cqe.of (k : CmdKey) (st : NvmeStatus) (dw0 : Nat := 0) (dw1 : Nat := 0) (data : List Byte := []) : Cqe :=
  ⟨k, st, BitVec.ofNat 32 (min dw0 0xFFFFFFFF), BitVec.ofNat 32 (min dw1 0xFFFFFFFF), statusDnr st, statusCrd st, data, [], []⟩

/-- The controller of a function. -/
def HostSide.ctrl (h : HostSide) (f : FnId) : Option Controller := h.ctrls.find? fun c => c.fn == f

/-- The host side with the controller of a function changed. -/
def HostSide.onCtrl (h : HostSide) (f : FnId) (g : Controller → Controller) : HostSide :=
  { h with ctrls := h.ctrls.map fun c => if c.fn == f then g c else c }

/-- The state with the controller of a function changed. -/
def State.onCtrl (s : State) (f : FnId) (g : Controller → Controller) : State := { s with host := s.host.onCtrl f g }

/-- A completion entry written to the completion queue of a submission queue, and its interrupt. -/
def State.cqPost (s : State) (c : Cqe) : State :=
  match s.host.ctrl c.key.fn with
  | none => s.post c
  | some ct =>
    let cqid := (ct.sqs.find? fun q => q.qid == c.key.sq).map fun q => q.cqid
    let adv (q : ComQueue) : ComQueue := if some q.qid = cqid then { q with tail := (q.tail + 1) % max 1 q.size } else q
    let s1 := (s.post c).onCtrl c.key.fn fun x => { x with cqs := x.cqs.map adv }
    match (ct.cqs.find? fun q => some q.qid == cqid).bind fun q => q.vec with
    | some v => { s1 with host := { s1.host with msix := s1.host.msix ++ [(c.key.fn, v)] } }
    | none => s1

/-- An asynchronous event offered to one controller (R79): reported to an outstanding request, or queued once. -/
def State.raiseOn (s : State) (f : FnId) (type info page : Nat) : State :=
  match s.host.ctrl f with
  | none => s
  | some c =>
    if !eventEnabled c.feat.asyncConfig type info then s
    else if c.events.any (fun e => e.1 == type && e.2.1 == info) then s
    else match c.aers with
      | [] => s.onCtrl f fun c => { c with events := c.events ++ [(type, info, page)] }
      | k :: ks =>
        (s.onCtrl f fun c => { c with aers := ks }).cqPost (Cqe.of k .success (type + info * 256 + page * 65536))

/-- An asynchronous event offered to every controller. -/
def State.raise (s : State) (type info page : Nat) : State :=
  (s.host.ctrls.map Controller.fn).foldl (fun st f => st.raiseOn f type info page) s

/-- A component retired: the log entry, the entry on page C0h and vendor event 04h (Tables 20.5 and 20.6). -/
def State.retireNotice (s : State) (src scope unit cause : Nat) : State :=
  let seq := s.logs.nextSeq
  let s1 := s.log 2 cause 2 src unit 0
  let r : Retired := ⟨src, scope, unit, cause, seq⟩
  let s2 : State := { s1 with logs := { s1.logs with retired := s1.logs.retired ++ [r] } }
  s2.raise 7 4 0xC0

/-- The tile that an engine's work moves to when its own is retired (R420): the partner, else the nearest by hop count. -/
def State.standIn (s : State) (t : Nat) (inService : Nat → Bool) : Option Nat :=
  if inService (t ^^^ 1) && (t ^^^ 1) < s.n then some (t ^^^ 1)
  else firstBy (fun a b => s.hops t a < s.hops t b || (s.hops t a == s.hops t b && a < b))
    ((List.range s.n).filter fun u => u != t && inService u)

end Sys2Proof.Machine
end

