-- ==== Sys2Proof/Machine/Map.lean ====
section
/-! DEFINITION. Machine/Map.lean: namespaces, ownership of logical space, the map entry, lookup, the journal, the overlay,
what a checkpoint is due for, and the saddlebag as a whole (chapters 1 and 4). -/

namespace Sys2Proof.Machine

open Sys2Proof

/-! ### Namespaces (R61, R84) -/

/-- The bytes of a logical block's data (Table 3.2). -/
def Namespace.blockSize (ns : Namespace) : Nat := if ns.lbaf ≤ 1 then 4096 else 512

/-- The bytes of a logical block's metadata (Table 3.2). -/
def Namespace.mdSize (ns : Namespace) : Nat := if ns.lbaf % 2 = 1 then 8 else 0

/-- The grain size (R84). -/
def Namespace.grain (ns : Namespace) : Nat := if ns.grain16 then 16384 else 4096

/-- NSX (R84). -/
def Namespace.nsx (ns : Namespace) : Nat := ns.nsid - 1

/-- Logical blocks in a grain. -/
def Namespace.perGrain (ns : Namespace) : Nat := ns.grain / ns.blockSize

/-- The bytes of a grain with its protection information. -/
def Namespace.grainFull (ns : Namespace) : Nat := ns.grain + ns.perGrain * ns.mdSize

/-- Leaf spans of a namespace (R17). -/
def Namespace.spans (ns : Namespace) : Nat := ceilDiv (ns.blocks * ns.blockSize) (ns.grain * 512)

/-- The namespace defined under an NSID. -/
def State.nsOf (s : State) (nsid : Nat) : Option Namespace := s.cfg.body.namespaces.find? fun x => x.nsid == nsid

/-- The NSID of the pinned namespace, 0 for none (R84, Table 2.17 NSPIN). -/
def State.pinned (s : State) : Nat :=
  ((s.cfg.body.params.find? fun x => x.1 == 0x000A).map fun x => x.2.2).getD 0

/-- The run-time state of a namespace. -/
def State.nsRun (s : State) (nsid : Nat) : NsRun := (s.ns.find? fun x => x.nsid == nsid).getD { nsid := nsid }

/-- The state with the run-time state of a namespace changed. -/
def State.onNs (s : State) (nsid : Nat) (f : NsRun → NsRun) : State :=
  { s with ns := s.ns.filter (fun x => x.nsid != nsid) ++ [f (s.nsRun nsid)] }

/-- The owning tile of leaf span `sp` of a namespace (R17). -/
def owner (n nsid sp : Nat) : Nat := (sp + nsid) % n

/-- Where grain `g` of a namespace lies: the owning tile and the tile-local grain index (R85). -/
def grainPlace (n nsid g : Nat) : Nat × Nat :=
  let sp := g / 512
  (owner n nsid sp, sp / n * 512 + g % 512)

/-- The grain of a namespace at a tile-local grain index: the inverse of `grainPlace` (R85). -/
def grainAt (n nsid t lg : Nat) : Nat :=
  let j := lg / 512
  let r := (t + n - nsid % n) % n
  (j * n + r) * 512 + lg % 512

/-! ### The map entry (Table 4.1) -/

/-- STATE as a number. -/
def GState.code : GState → Nat
  | .unmapped => 0
  | .stored => 1
  | .zeroed => 2
  | .lost => 3

/-- The 64-bit map entry (Table 4.1). Location fields of an entry that is not STORED are zero (R86). -/
def MapEntry.word (e : MapEntry) : Nat :=
  e.state.code * 2 ^ 62 + e.gen % 256 * 2 ^ 53 +
  (if e.state = .stored then
    b2n e.cmp * 2 ^ 61 + e.loc.chan % 16 * 2 ^ 49 + e.loc.lun % 16 * 2 ^ 45 + e.loc.plane % 4 * 2 ^ 43
      + e.loc.block % 2 ^ 14 * 2 ^ 29 + e.loc.page % 2 ^ 12 * 2 ^ 17 + e.loc.off % 64 * 2 ^ 11 + e.len % 128 * 2 ^ 4
   else 0)

/-- The pages that a stored grain has units on: its own, and the next when it passes the page end (R88). -/
def locPages (l : Loc) (len : Nat) : List Nat :=
  if 64 < l.off + len then [l.page, l.page + 1] else [l.page]

/-! ### Lookup (R92) -/

/-- The overlay entry of a grain. -/
def Ftl.overOf (f : Ftl) (k : GKey) : Option OverlayEntry := f.overlay.find? fun o => o.key == k

/-- The map entry of a grain below the staging buffer: overlay, then leaf; UNMAPPED with GEN 0 where neither holds it (R92,
Table 4.3 ABSENT). -/
def Ftl.entry (f : Ftl) (k : GKey) : MapEntry :=
  match f.overOf k with
  | some o => o.entry
  | none => ((f.leaves.find? fun x => x.1 == k).map fun x => x.2).getD {}

/-- The newest staged change of a grain. -/
def Ftl.stagedOf (f : Ftl) (k : GKey) : Option Staged := f.staged.reverse.find? fun x => x.key == k

/-- The newest committed staged change of a grain: what a read may see (R65, R92). -/
def Ftl.visible (f : Ftl) (k : GKey) : Option Staged := f.staged.reverse.find? fun x => x.key == k && x.commit

/-- The stored grain that a map entry names. -/
def Ftl.storedAt (f : Ftl) (k : GKey) (l : Loc) : Option Stored := f.stored.find? fun x => x.key == k && x.loc == l

/-- The state of a grain as a read sees it: staging, then the map. -/
def Ftl.stateOf (f : Ftl) (k : GKey) : GState :=
  match f.visible k with
  | some x => match x.kind with
    | .data _ => .stored
    | .zero st => st
  | none => (f.entry k).state

/-- The grains of a namespace that NUSE counts on a tile: STORED, ZEROED and LOST ones (Table 4.2). -/
def Ftl.usedGrains (f : Ftl) (nsid : Nat) : List GKey :=
  ((((f.leaves.map fun x => x.1) ++ f.overlay.map fun o => o.key) ++ f.staged.map fun g => g.key).eraseDups).filter fun k =>
    k.nsx + 1 == nsid && f.stateOf k != .unmapped

/-- The grains of a namespace that NUSE counts. -/
def State.usedGrains (s : State) (nsid : Nat) : List GKey := s.tiles.toList.flatMap fun x => x.ftl.usedGrains nsid

/-- What a read of a grain finds. -/
inductive GrainRead where
  | zeros
  | data (bytes : List Byte)
  | lost
  deriving DecidableEq, Repr

/-- The logical content of a grain (R92, Table 4.2): staging, then the map. A stored grain whose media key is not the
namespace's key any more decrypts to nothing that the checks of R164 accept, and reads as lost. -/
def Ftl.read (f : Ftl) (keyTag : Nat) (k : GKey) (unreadable : Bool) : GrainRead :=
  match f.visible k with
  | some x => match x.kind with
    | .data b => .data b
    | .zero _ => .zeros
  | none =>
    let e := f.entry k
    match e.state with
    | .unmapped | .zeroed => .zeros
    | .lost => .lost
    | .stored =>
      if unreadable then .lost
      else match f.storedAt k e.loc with
        | none => .lost
        | some g => if g.keyTag = keyTag then .data g.data else .lost

/-- GEN that a change by a host command gives a grain: one more than that of its newest change, modulo 256 (R87). -/
def Ftl.nextGen (f : Ftl) (k : GKey) : Nat := ((f.entry k).gen + 1) % 256

/-! ### Journal and overlay (R100 to R103) -/

/-- Whether a record counts as a change record (R102, R130). -/
def JRec.isChange : JRec → Bool
  | .gcommit .. | .ckpt .. => false
  | _ => true

/-- The NSX that a record names, for the pinned count of R386. -/
def JRec.nsx : JRec → Option Nat
  | .map _ k _ | .zrange _ k _ _ | .reloc k _ => some k.nsx
  | .ptr _ x _ _ => some x
  | _ => none

/-- A record appended. A page of 1,022 records is programmed as soon as it is full (R100). -/
def Ftl.append (f : Ftl) (pinNsx : Option Nat) (b : JRec) : Ftl :=
  let seq := f.nextSeq + 1
  { f with
    journal := f.journal ++ [⟨f.nextSeq, b⟩]
    nextSeq := seq
    durSeq := if 1022 ≤ seq - f.durSeq then seq else f.durSeq
    changes := if b.isChange then f.changes + 1 else f.changes
    pinChanges := if b.isChange && pinNsx.isSome && b.nsx == pinNsx then f.pinChanges + 1 else f.pinChanges }

/-- The journal tail programmed (R104 step 5, R62, R116). -/
def Ftl.sync (f : Ftl) : Ftl := { f with durSeq := f.nextSeq }

/-- An overlay entry made or replaced in place (R102). -/
def Ftl.setOver (f : Ftl) (k : GKey) (e : MapEntry) (seq held : Nat) : Ftl :=
  { f with overlay := f.overlay.filter (fun o => o.key != k) ++ [⟨k, e, seq, held⟩] }

/-- One journal record applied to the map (R101). -/
def Ftl.apply (f : Ftl) (j : JEntry) : Ftl :=
  match j.body with
  | .map g k e => f.setOver k e j.seq (if f.groupsDone.contains g then 0 else g)
  | .zrange g k st n => (List.range n).foldl (fun f i =>
      let k' : GKey := ⟨k.nsx, k.lg + i⟩
      f.setOver k' { state := st, gen := f.nextGen k' } j.seq (if f.groupsDone.contains g then 0 else g)) f
  | .reloc k e => f.setOver k { e with gen := (f.entry k).gen } j.seq 0
  | .mirr ev _ nsx term mseq uid =>
    let h := (f.mirr.find? fun h => h.nsid == nsx + 1).getD { nsid := nsx + 1 }
    let h1 : MirrHist := if ev = 2 then { h with terms := newest 16 (h.terms ++ [⟨term, mseq, uid⟩]) } else { h with mseq := max h.mseq mseq }
    { f with mirr := f.mirr.filter (fun h => h.nsid != nsx + 1) ++ [h1] }
  | _ => f

/-- A record appended and applied. -/
def Ftl.commit (f : Ftl) (pinNsx : Option Nat) (b : JRec) : Ftl :=
  (f.append pinNsx b).apply ⟨f.nextSeq, b⟩

/-- Held entries of groups whose GCOMMIT is reported durable are held no longer (R103). -/
def Ftl.unhold (f : Ftl) (gs : List Nat) : Ftl :=
  { f with
    groupsDone := (f.groupsDone ++ gs).eraseDups
    overlay := f.overlay.map fun o => if gs.contains o.held then { o with held := 0 } else o }

/-- T0 reports to every tile the GCOMMIT records of its journal that are programmed (R103). -/
def State.reportGroups (s : State) : State :=
  let f0 := (s.tileAt 0).ftl
  let gs := f0.journal.filterMap fun j => match j.body with
    | .gcommit g .. => if j.seq < f0.durSeq then some g else none
    | _ => none
  { s with tiles := s.tiles.map fun x => { x with ftl := x.ftl.unhold gs } }

/-- Whether new map changes wait for a checkpoint (R102). -/
def Ftl.full (f : Ftl) : Bool := 393216 ≤ f.overlay.length || 393216 ≤ f.changes

/-- Whether a checkpoint is due (R104, R386). -/
def Ftl.due (f : Ftl) : Bool := 294912 ≤ f.overlay.length || 294912 ≤ f.changes || 65536 ≤ f.pinChanges

/-! ### Checkpoints (R104 to R106) -/

/-- The leaf that maps a grain: NSX and local leaf index j. -/
def GKey.leaf (k : GKey) : Nat × Nat := (k.nsx, k.lg / 512)

/-- The PGEN of a map page, 0 when it was never written. -/
def pgenOf (ps : List (Nat × Nat × Nat × Nat)) (level nsx idx : Nat) : Nat :=
  ((ps.find? fun p => p.1 == level && p.2.1 == nsx && p.2.2.1 == idx).map fun p => p.2.2.2).getD 0

/-- A map page written: PGEN advances by one (R90). -/
def bumpPgen (ps : List (Nat × Nat × Nat × Nat)) (level nsx idx : Nat) : List (Nat × Nat × Nat × Nat) :=
  ps.filter (fun p => !(p.1 == level && p.2.1 == nsx && p.2.2.1 == idx)) ++
    [(level, nsx, idx, (pgenOf ps level nsx idx + 1) % 2 ^ 20)]

/-- The root copy that was written last. -/
def Ftl.root (f : Ftl) : RootCopy := if f.lastB then f.rootB else f.rootA

/-- The superseded pages that a checkpoint keeps until the next has completed (R106). -/
def superseded (old new : List (Nat × Nat × Nat × Nat)) : List (Nat × Nat × Nat × Nat) :=
  old.filter fun p => pgenOf new p.1 p.2.1 p.2.2.1 != p.2.2.2

/-- The distinct leaves that a list of overlay entries touches. -/
def leavesOf (os : List OverlayEntry) : List (Nat × Nat) := (os.map fun o => o.key.leaf).eraseDups

/-- The root table index of a local leaf index: root_base + j div 512 (R85). -/
def Ftl.rootIdx (f : Ftl) (nsx j : Nat) : Nat :=
  ((f.roots.find? fun r => r.1 == nsx).map fun r => r.2.1).getD 0 + j / 512

/-! ### The saddlebag (R94 to R99) -/

/-- IDENT of a map page (Table 4.7). -/
def slotIdent (tile level index : Nat) : Nat := tile * 2 ^ 61 + level * 2 ^ 59 + index % 2 ^ 25

/-- The chunks of a tile, in descriptor order (R94). -/
def State.chunksOf (s : State) (t : Nat) : List Nat :=
  ((List.range s.host.hmb.chunks.length).filter fun c => c % s.n == t).map fun c => s.host.hmb.chunks.getD c 0

/-- The host address of the home slot of a page, none without a slot (R94). -/
def State.homeSlot (s : State) (t ident : Nat) : Option Nat :=
  let chunks := s.chunksOf t
  let n := chunks.length * 504
  if n = 0 then none
  else
    let h := ident * 0x9E3779B97F4A7C15 % 2 ^ 64 % n
    some (chunks.getD (h / 504) 0 + h % 504 * 4096)

/-- Whether the saddlebag is in use. -/
def State.bagOn (s : State) : Bool := s.host.hmb.enabled && s.host.hmb.state == 1

/-- A new seal key and SEALEP on a tile; PGEN returns to 0 in the expectation of every slot, since no older copy can match
(R99). -/
def State.deriveSeal (s : State) (t : Nat) : State :=
  let d := s.draw
  d.2.onTileAt t fun x => { x with ftl := { x.ftl with sealep := d.1 % 2 ^ 32, slots := [] } }

/-- New seal keys on every tile (R98, R99). -/
def State.deriveSeals (s : State) : State := s.tileIds.foldl State.deriveSeal s

/-- The saddlebag disabled (R98): access stops, new seal keys are derived and vendor event 01h is raised. -/
def State.disableBag (s : State) : State :=
  let s1 : State := { s with host := { s.host with hmb := { s.host.hmb with state := 3, lockout := true } } }
  (s1.deriveSeals.log 2 0 3 8 0 0).raise 7 1 0xC1

/-- One mismatch counted at a slot address, and the disablement on the 16th within 60 minutes (R97, R98). -/
def State.bagMismatch (s : State) (addr : Nat) : State :=
  let w := (s.host.hmb.window.filter fun x => s.now < x + 3600000000) ++ [s.now]
  let s1 : State := { s with host := { s.host with hmb := { s.host.hmb with
      mismatch := s.host.hmb.mismatch + 1, window := w, lastAddr := addr } } }
  if 16 ≤ w.length then s1.disableBag else s1

end Sys2Proof.Machine
end

