-- ==== Sys2Proof/Machine/Media.lean ====
section
/-! DEFINITION. Machine/Media.lean: quads, superblocks, packing, space, collection, retirement and the read-only end
(chapter 5). -/

namespace Sys2Proof.Machine

open Sys2Proof

/-! ### Parameters (Table 2.17, Table 5.5) -/

/-- The value in force of a parameter, or its default. -/
def State.param (s : State) (pid index dflt : Nat) : Nat :=
  ((s.cfg.body.params.find? fun x => x.1 == pid && x.2.1 == index).map fun x => x.2.2).getD dflt

/-- GC_START (Table 5.5). -/
def State.gcStart (s : State) : Nat := s.param 0x0012 0 512

/-- GC_STOP (Table 5.5). -/
def State.gcStop (s : State) : Nat := s.param 0x0013 0 768

/-! ### Quads (R108, R124, R127) -/

/-- Whether a channel is in service. -/
def Tile.chanUp (x : Tile) (c : Nat) : Bool := c < 16 && !(x.flash.retChans.any fun r => r.1 == c)

/-- Whether a LUN of a channel is in service. -/
def Tile.lunUp (x : Tile) (c l : Nat) : Bool := x.chanUp c && !x.flash.retLuns.contains (c, l)

/-- The in-service channels of a tile, ascending. -/
def Tile.channels (x : Tile) : List Nat := (List.range 16).filter x.chanUp

/-- The quads that belong to a superblock, released or not, to a dump, or that have been retired. -/
def Tile.usedQuads (x : Tile) : List QuadId :=
  (x.ftl.sbs.flatMap fun b => b.members.map fun m => m.1) ++ x.ftl.dumpQuads ++ x.ftl.oldQuads ++ x.ftl.retQuads.map fun r => r.1

/-- In-service quads: those of in-service LUNs that are not retired (R138). -/
def State.qs (s : State) (t : Nat) : Nat :=
  let x := s.tileAt t
  let perLun := s.fuses.quads
  let up := sumOf ((List.range 16).map fun c => ((List.range s.fuses.luns).filter fun l => x.lunUp c l).length * perLun)
  up - (x.ftl.retQuads.filter fun r => x.lunUp r.1.chan r.1.lun).length - (16 * s.fuses.luns * perLun - x.ftl.q0)

/-- Quads in SLC mode that hold the journal and the root copies: at most 16 (R116). -/
def slcQuads : Nat := 16

/-- FQ (R127): in-service quads that are erased or released and belong to nothing. -/
def State.fq (s : State) (t : Nat) : Nat :=
  let x := s.tileAt t
  let held := (x.ftl.sbs.flatMap fun b => b.members.filter fun m => x.lunUp m.1.chan m.1.lun).length
  s.qs t - held - x.ftl.dumpQuads.length - x.ftl.oldQuads.length - slcQuads

/-- Erase count of a quad (R124). -/
def Ftl.eraseCount (f : Ftl) (q : QuadId) : Nat := ((f.wear.find? fun w => w.1 == q).map fun w => w.2).getD 0

/-- The state of a quad's erase count after one more erase, saturating (R124). -/
def Ftl.bumpWear (f : Ftl) (q : QuadId) : Ftl :=
  { f with wear := f.wear.filter (fun w => w.1 != q) ++ [(q, min 65535 (f.eraseCount q + 1))] }

/-- The quad that a channel gives a new superblock: from the LUN with the most free quads, its least-worn free quad, ties to
the lowest number (R124). -/
def State.pickQuad (s : State) (t c : Nat) : Option QuadId :=
  let x := s.tileAt t
  let used := x.usedQuads
  let freeOf (l : Nat) := s.fuses.quads - (used.filter fun q => q.chan == c && q.lun == l).length
  let luns := (List.range s.fuses.luns).filter fun l => x.lunUp c l && freeOf l != 0
  match firstBy (fun a b => freeOf b < freeOf a) luns with
  | none => none
  | some l =>
    let blocks := (List.range s.fuses.quads).filter fun b => !used.contains ⟨c, l, b⟩
    (firstBy (fun a b => x.ftl.eraseCount ⟨c, l, a⟩ < x.ftl.eraseCount ⟨c, l, b⟩) blocks).map fun b => ⟨c, l, b⟩

/-! ### Superblocks and packing (R109 to R115) -/

/-- Row depth S of a stream (Table 5.2). -/
def rowDepth : WriteStream → Nat
  | .host => 16
  | .cold => 8
  | .mapMeta => 4
  | .alt => 2

/-- The stream's code in SBLK OPEN (Table 5.3). -/
def streamCode : WriteStream → Nat
  | .host => 0
  | .cold => 1
  | .mapMeta => 2
  | .alt => 3

/-- Width: members when it opened. -/
def Superblock.width (b : Superblock) : Nat := b.members.length

/-- The width of a parity half in 7 + 1: the members of the first cluster, or of the second (R111). -/
def Superblock.halfWidth (b : Superblock) (second : Bool) : Nat :=
  (b.members.filter fun m => (8 ≤ m.1.chan) == second).length

/-- Whether the member at a position holds parity (R109, R111). -/
def Superblock.isParity (b : Superblock) (pos : Nat) : Bool :=
  if b.stream = .alt then
    let a := b.halfWidth false
    if pos < a then pos == b.sbn % max 1 a else pos - a == b.sbn % max 1 (b.halfWidth true)
  else pos == b.sbn % max 1 b.width

/-- The data members still in use, in position order (R113, R120). -/
def Superblock.dataMembers (b : Superblock) : List QuadId :=
  ((List.range b.width).filter fun p => !b.isParity p).filterMap fun p =>
    match b.members[p]? with
    | some (q, true) => some q
    | _ => none

/-- The charge width of a grain: the parity group's size (R135). -/
def Superblock.chargeWidth (b : Superblock) (chan : Nat) : Nat :=
  if b.stream = .alt then b.halfWidth (8 ≤ chan) else b.width

/-- The open superblock of a stream (R112). -/
def Ftl.openOf (f : Ftl) (st : WriteStream) : Option Superblock := f.sbs.find? fun b => !b.closed && b.stream == st

/-- Units of a segment. -/
def Superblock.segUnits (b : Superblock) : Nat := 64 * rowDepth b.stream

/-- Whether the frontier has passed the last row. -/
def Superblock.isFull (b : Superblock) (pages : Nat) : Bool := pages ≤ b.row * rowDepth b.stream

/-- The frontier moved to unit 0 of the next segment; what is left becomes filler (R113). -/
def Superblock.nextSegment (b : Superblock) : Superblock :=
  if b.lane + 1 < 4 * b.dataMembers.length then { b with lane := b.lane + 1, unit := 0 }
  else { b with row := b.row + 1, lane := 0, unit := 0 }

/-- A grain of `len` units placed at the frontier (R113): its location and the superblock after it; none where the superblock
has no room. -/
def Superblock.placeGrain (b : Superblock) (pages len : Nat) : Option (Loc × Superblock) :=
  let b1 := if b.unit + len ≤ b.segUnits then b else b.nextSegment
  if b1.isFull pages then none
  else match b1.dataMembers[b1.lane / 4]? with
    | none => none
    | some q =>
      let loc : Loc := ⟨q.chan, q.lun, b1.lane % 4, q.block, b1.row * rowDepth b1.stream + b1.unit / 64, b1.unit % 64⟩
      let b2 := { b1 with unit := b1.unit + len }
      some (loc, if b2.unit = b2.segUnits then b2.nextSegment else b2)

/-- The rest of the current row filled with filler (R115). -/
def Superblock.fillRow (b : Superblock) : Superblock :=
  if b.lane = 0 && b.unit = 0 then b else { b with row := b.row + 1, lane := 0, unit := 0 }

/-- The rest of the frontier member's segments in the current row filled with filler (R115). -/
def Superblock.fillMember (b : Superblock) : Superblock :=
  if b.lane % 4 = 0 && b.unit = 0 then b
  else if b.lane / 4 + 1 < b.dataMembers.length then { b with lane := (b.lane / 4 + 1) * 4, unit := 0 }
  else { b with row := b.row + 1, lane := 0, unit := 0 }

/-- Whether a stream may open a superblock now (R127, R137). -/
def State.mayOpen (s : State) (t : Nat) (st : WriteStream) (collected : Bool) (w : Nat) : Bool :=
  let f := (s.tileAt t).ftl
  match st with
  | .cold | .mapMeta => true
  | .host => f.rsv + w < s.fq t && (f.rsv + 128 < s.fq t || f.victimDone)
  | .alt => collected || (f.rsv + w < s.fq t && (f.rsv + 128 < s.fq t || f.victimDone))

/-- The quads of a new superblock, one from each in-service channel that holds a free quad, capped at 16; for 7 + 1 the two
halves (R109, R111). None when too few channels hold free quads. -/
def State.gather (s : State) (t : Nat) (st : WriteStream) : Option (List QuadId) :=
  let qs := (s.tileAt t).channels.filterMap fun c => s.pickQuad t c
  if st = .alt then
    let a := qs.filter fun q => q.chan < 8
    let b := qs.filter fun q => 8 ≤ q.chan
    if 5 ≤ a.length && 5 ≤ b.length then some (a ++ b) else none
  else if 9 ≤ qs.length then some (qs.take 16) else none

/-- The NSX of the pinned namespace, for the count of R386. -/
def State.pinNsx (s : State) : Option Nat := if s.pinned = 0 then none else some (s.pinned - 1)

/-- A superblock opened for a stream (R109, R112, R130): the lowest free SBN, one OPEN record for each member. -/
def State.openSb (s : State) (t : Nat) (st : WriteStream) (collected : Bool) : State :=
  let f := (s.tileAt t).ftl
  if (f.openOf st).isSome then s
  else match s.gather t st with
    | none => s
    | some qs =>
      if !s.mayOpen t st collected qs.length then s
      else
        let sbn := leastUnused (f.sbs.map fun b => b.sbn)
        let b : Superblock := ⟨sbn, st, qs.map fun q => (q, true), 0, 0, 0, false, 0, 0, false, false, s.now⟩
        let recs := (List.range qs.length).filterMap fun i => (qs[i]?).map fun q =>
          JRec.sblk 1 sbn q.chan q.lun q.block 0
            (i + qs.length * 16 + streamCode st * 512 + b2n (b.isParity i) * 2048)
        s.onTileAt t fun x =>
          let f := recs.foldl (fun f r => f.append s.pinNsx r) x.ftl
          { x with ftl := { f with
              sbs := f.sbs ++ [b]
              victimDone := if st = .host || st = .alt then false else f.victimDone } }

/-- The stream that carries a grain of a namespace (Table 5.2). -/
def streamFor (alt copied : Bool) : WriteStream :=
  if alt then .alt else if copied then .cold else .host

/-- A stored grain placed at the frontier of its stream, after opening or closing superblocks as it needs (R112, R113). None where
no superblock takes it now. -/
def State.pack (s : State) (t : Nat) (st : WriteStream) (len : Nat) : Option (Loc × Nat × State) :=
  let attempt (s : State) : Option (Loc × Nat × State) :=
    match (s.tileAt t).ftl.openOf st with
    | none => none
    | some b => match b.placeGrain s.fuses.pages len with
      | none => none
      | some (l, b') =>
        let b'' := if b.lane = 0 && b.unit = 0 then { b' with rowSince := s.now } else b'
        some (l, b.sbn, s.onTileAt t fun x => { x with ftl := { x.ftl with
          sbs := x.ftl.sbs.map fun y => if y.sbn == b.sbn then b'' else y } })
  match attempt s with
  | some r => some r
  | none => attempt (s.openSb t st false)

/-- A map page or a page of an index run written at the frontier of META (R112, R129); its old place, if it had one, is let go. Where
META takes none now, the page has no place. -/
def State.placeMeta (s : State) (t : Nat) (id : Nat × Nat × Nat) (len : Nat) : State :=
  match s.pack t .mapMeta len with
  | none => s
  | some (l, sbn, s1) => s1.onTileAt t fun x => { x with ftl := { x.ftl with
      metaPages := x.ftl.metaPages.filter (fun m => m.id != id) ++ [⟨id, l, len, sbn⟩] } }

/-! ### Space (R135 to R138) -/

/-- The bytes charged for `len` units in a parity group of width `w` (R135). -/
def chargeOf (len w : Nat) : Nat := len * 256 * w / (w - 1)

/-- Whether a stored grain is valid: the map names it. -/
def Ftl.isValid (f : Ftl) (g : Stored) : Bool :=
  let e := f.entry g.key
  e.state == .stored && e.loc == g.loc

/-- The charge of a stored grain. -/
def Ftl.charge (f : Ftl) (g : Stored) : Nat :=
  match f.sbs.find? fun b => b.sbn == g.sbn with
  | some b => chargeOf g.len (b.chargeWidth g.loc.chan)
  | none => 0

/-- The charge of a page of META: map pages and index runs are charged like grains (R135). -/
def Ftl.metaCharge (f : Ftl) (m : MetaPage) : Nat :=
  match f.sbs.find? fun b => b.sbn == m.sbn with
  | some b => chargeOf m.len b.width
  | none => 0

/-- The width at which a staged grain is charged: that of the stream's open superblock, else the in-service channels. -/
def Tile.streamWidth (x : Tile) (st : WriteStream) : Nat :=
  match x.ftl.openOf st with
  | some b => if st = .alt then b.halfWidth false else b.width
  | none => if st = .alt then (x.channels.filter fun c => c < 8).length else min 16 x.channels.length

/-- Units that a staged change is charged before compression: its logical size plus one unit (R136). -/
def Staged.units (g : Staged) : Nat := match g.kind with
  | .data b => b.length / 256 + 1
  | .zero _ => 0

/-- The charged total of a tile: grains, map pages, index runs and staged fragments (R135, R136). -/
def State.charged (s : State) (t : Nat) : Nat :=
  let x := s.tileAt t
  sumOf ((x.ftl.stored.filter x.ftl.isValid).map x.ftl.charge) + sumOf (x.ftl.metaPages.map x.ftl.metaCharge) +
    sumOf (x.ftl.staged.map fun g => chargeOf g.units (x.streamWidth .host))

/-- UC of a tile (R135): 0.935 × (Q0 − RSV) × 128 MiB. -/
def State.uc (s : State) (t : Nat) : Nat :=
  let f := (s.tileAt t).ftl
  935 * ((f.q0 - f.rsv) * 134217728) / 1000

/-- The charged bytes of one namespace on a tile. -/
def State.nsCharged (s : State) (t nsx : Nat) : Nat :=
  let x := s.tileAt t
  sumOf ((x.ftl.stored.filter fun g => g.key.nsx == nsx && x.ftl.isValid g).map x.ftl.charge) +
    sumOf ((x.ftl.staged.filter fun g => g.key.nsx == nsx).map fun g => chargeOf g.units (x.streamWidth .host))

/-- The judgement of a write fragment of `units` units on grains `keys` (R136): true where it is accepted. -/
def State.judge (s : State) (t nsid units : Nat) (keys : List GKey) : Bool :=
  let x := s.tileAt t
  let add := chargeOf units (x.streamWidth .host)
  let replaced := sumOf ((x.ftl.stored.filter fun g => keys.contains g.key && x.ftl.isValid g).map x.ftl.charge) +
    sumOf ((x.ftl.staged.filter fun g => keys.contains g.key).map fun g => chargeOf g.units (x.streamWidth .host))
  let lim := s.param 0x0031 (nsid - 1) 0
  s.charged t + add - replaced ≤ s.uc t && (lim == 0 || s.nsCharged t (nsid - 1) + add - replaced ≤ lim / s.n)

/-- SPARE and Available Spare of a tile (R138). -/
def State.spare (s : State) (t : Nat) : Int :=
  (s.qs t : Int) - ((s.tileAt t).ftl.q0 - (s.tileAt t).ftl.rsv : Nat)

/-- Available Spare: the lowest over the tiles, in per cent (R138). -/
def State.availableSpare (s : State) : Nat :=
  s.tileIds.foldl (fun m t => min m (Int.toNat (100 * s.spare t / ((s.tileAt t).ftl.rsv : Int)))) 100

/-- Percentage Used: the largest over the tiles (R126). -/
def State.percentUsed (s : State) : Nat :=
  s.tileIds.foldl (fun m t =>
    let total := sumOf ((s.tileAt t).ftl.wear.map fun w => w.2)
    max m (min 255 (100 * total / (max 1 (s.qs t) * s.param 0x0016 0 3000)))) 0

/-- The condition of R138 or R123 for turning read-only. -/
def State.spent (s : State) : Bool :=
  s.tileIds.any fun t =>
    let x := s.tileAt t
    decide (s.spare t ≤ 0) || x.channels.length < 9 ||
      (s.cfg.body.namespaces.any (fun ns => ns.alt) &&
        ((x.channels.filter fun c => c < 8).length < 5 || (x.channels.filter fun c => 8 ≤ c).length < 5))

/-- READ_ONLY_ENTRY and the spare events: the events at 10 and at 5 per cent as Available Spare falls through them, and the
device read-only for good (R138). `before` is Available Spare before the change. -/
def State.checkSpare (s : State) (before : Nat) : State :=
  let now := s.availableSpare
  let s1 := if (10 < before && now ≤ 10) || (5 < before && now ≤ 5) then
      { s with logs := { s.logs with critical := s.logs.critical ||| 1 } }.raise 1 0 2 else s
  if s1.boot.readOnly || !s1.spent then s1
  else
    let s2 : State := { s1 with
      boot := { s1.boot with readOnly := true }
      logs := { s1.logs with critical := s1.logs.critical ||| 8 } }
    (s2.log 3 0 2 8 0 0).raise 1 2 2

/-! ### Retirement (R118 to R121, R157) -/

/-- A quad retired with its cause: the SBLK RETIRE record, the log and the notice (R120, R130). -/
def State.retireQuad (s : State) (t : Nat) (q : QuadId) (cause : Nat) : State :=
  if (s.tileAt t).ftl.retQuads.any (fun r => r.1 == q) then s
  else
    let before := s.availableSpare
    let s1 := s.onTileAt t fun x => { x with ftl :=
      { (x.ftl.append s.pinNsx (.sblk 5 0 q.chan q.lun q.block 0 cause)) with
        retQuads := x.ftl.retQuads ++ [(q, cause)] } }
    (s1.retireNotice t 0 (q.chan + q.lun * 16) cause).checkSpare before

/-- A grain made LOST: the map change, its log entry and the SMART count (R86, R119, Table 20.5). -/
def State.loseGrain (s : State) (t : Nat) (k : GKey) : State :=
  let s1 := s.onTileAt t fun x =>
    { x with ftl := x.ftl.commit s.pinNsx (.map 0 k { state := .lost, gen := (x.ftl.entry k).gen }) }
  let s2 := s1.log 2 0 0 t 0 k.lg
  { s2 with logs := { s2.logs with mediaErrors := s2.logs.mediaErrors + 1 } }

/-- The valid stored grains with units on a page of a quad. -/
def Ftl.grainsOn (f : Ftl) (q : QuadId) (plane page : Nat) : List Stored :=
  f.stored.filter fun g => f.isValid g && g.loc.chan == q.chan && g.loc.lun == q.lun && g.loc.block == q.block &&
    g.loc.plane == plane && (locPages g.loc g.len).contains page

/-- A stored grain copied as it stands to the frontier of its stream: the copy keeps content, compression and GEN (R129). -/
def State.relocate (s : State) (t : Nat) (g : Stored) : State :=
  let alt := (s.nsOf (g.key.nsx + 1)).any fun ns => ns.alt
  match s.pack t (streamFor alt true) g.len with
  | none => s
  | some (l, sbn, s1) => s1.onTileAt t fun x => { x with ftl := { x.ftl with
      stored := x.ftl.stored ++ [{ g with loc := l, sbn := sbn, done := false, group := 0, reloc := some g.loc }] } }

/-- Every page of a stored grain is programmed. -/
def pageKey (chan lun plane block page : Nat) : Nat :=
  (((chan * 16 + lun) * 4 + plane) * 2 ^ 14 + block) * 2 ^ 12 + page

/-- Whether every page that holds a grain's units is programmed (R114). -/
def Flash.holds (fl : Flash) (g : Stored) : Bool :=
  (locPages g.loc g.len).all fun p =>
    (kvGet (pageKey g.loc.chan g.loc.lun g.loc.plane g.loc.block p) fl.pages).isSome

/-- The map entry of a stored grain. -/
def Stored.entry (g : Stored) : MapEntry := ⟨.stored, g.cmp, g.gen, g.loc, g.len⟩

/-- The records of the grains whose pages are now all programmed (R114): MAP for a write, RELOC for a copy whose source the map
still names (R101); the staged change that the grain came from leaves the staging buffer. -/
def Tile.settle (pinNsx : Option Nat) (x : Tile) : Tile :=
  (x.ftl.stored.filter fun g => !g.done && x.flash.holds g).foldl (fun (x : Tile) (g : Stored) =>
    let f : Ftl := x.ftl
    let f1 : Ftl := match g.reloc with
      | some src =>
        if (f.entry g.key).state == .stored && (f.entry g.key).loc == src then f.commit pinNsx (.reloc g.key g.entry) else f
      | none => { (f.commit pinNsx (.map g.group g.key g.entry)) with
          groupsLive := if g.group = 0 then f.groupsLive else (f.groupsLive ++ [g.group]).eraseDups
          staged := match f.staged.find? (fun (y : Staged) => y.key == g.key) with
            | some y => f.staged.erase y
            | none => f.staged }
    { x with ftl := { f1 with stored := f1.stored.map fun y => if y == g then { y with done := true } else y } }) x

/-- CLOSE for each open superblock whose last row and its parity are programmed (R114). -/
def Tile.closeFull (pinNsx : Option Nat) (now pages : Nat) (x : Tile) : Tile :=
  (x.ftl.sbs.filter fun b => !b.closed && b.isFull pages).foldl (fun (x : Tile) (b : Superblock) =>
    let lastDone := (List.range b.width).all fun p => match b.members[p]? with
      | some (q, true) => (kvGet (pageKey q.chan q.lun 0 q.block (pages - 1)) x.flash.pages).isSome || !b.isParity p
      | _ => true
    if lastDone then
      { x with ftl := { (x.ftl.append pinNsx (.sblk 2 b.sbn 0 0 0 0 0)) with
          sbs := x.ftl.sbs.map fun y => if y.sbn == b.sbn then
            { y with closed := true, closedAt := now, closeSeq := x.ftl.nextSeq } else y } }
    else x) x

/-- A superblock's members that fail leave it from the current row on, and its unprogrammed grains there are packed again
(R120). -/
def State.dropMember (s : State) (t : Nat) (q : QuadId) : State :=
  let f := (s.tileAt t).ftl
  let again := f.stored.filter fun g => !g.done && g.loc.chan == q.chan && g.loc.lun == q.lun && g.loc.block == q.block
  let s1 := s.onTileAt t fun x => { x with ftl := { x.ftl with
    stored := x.ftl.stored.filter fun g => !again.contains g
    sbs := x.ftl.sbs.map fun b => { b with members := b.members.map fun m => if m.1 == q then (q, false) else m } } }
  again.foldl (fun s g =>
    let st := match (f.sbs.find? fun b => b.sbn == g.sbn) with
      | some b => b.stream
      | none => .host
    match s.pack t st g.len with
    | none => s
    | some (l, sbn, s2) => s2.onTileAt t fun x => { x with ftl := { x.ftl with
        stored := x.ftl.stored ++ [{ g with loc := l, sbn := sbn }] } }) s1

/-- A channel or LUN retired: quads out of service, superblocks degraded, UC computed again for a channel, and the read-only
check (R121, R123, R135, R157). -/
def State.retireMedia (s : State) (t c : Nat) (lun : Option Nat) (cause : Nat) : State :=
  let x := s.tileAt t
  let already := match lun with
    | none => !x.chanUp c
    | some l => !x.lunUp c l
  if already then s
  else
    let before := s.availableSpare
    let hit (q : QuadId) : Bool := q.chan == c && (match lun with | none => true | some l => q.lun == l)
    let s1 := s.onTileAt t fun x =>
      let f := x.ftl.append s.pinNsx (.sblk 5 0 c (lun.getD 0) 0 (if lun.isSome then 1 else 2) cause)
      { x with
        flash := { x.flash with
          retLuns := match lun with
            | some l => x.flash.retLuns ++ [(c, l)]
            | none => x.flash.retLuns
          retChans := if lun.isSome then x.flash.retChans else x.flash.retChans ++ [(c, cause)] }
        ftl := { f with
          q0 := if lun.isSome then f.q0 else f.q0 - s.fuses.luns * s.fuses.quads
          sbs := f.sbs.map fun b => { b with degraded := b.degraded || b.members.any fun m => m.2 && hit m.1 } } }
    ((s1.retireNotice t (if lun.isSome then 1 else 2) (c + lun.getD 0 * 16) cause)).checkSpare before

/-! ### Collection (R127 to R132) -/

/-- Whether a superblock holds something valid: a grain that the map names, a map page or a page of an index run. -/
def Ftl.liveIn (f : Ftl) (sbn : Nat) : Bool :=
  f.stored.any (fun g => g.sbn == sbn && f.isValid g) || f.metaPages.any fun m => m.sbn == sbn

/-- Whether a superblock holds a map page that is still kept (R106). -/
def Ftl.keptIn (f : Ftl) (sbn : Nat) : Bool := f.metaKept.any fun m => m.sbn == sbn

/-- Whether collection skips a superblock: it holds a kept map page (R106), or pages of an index run, which only a merge takes away
(R134). -/
def Ftl.skipped (f : Ftl) (sbn : Nat) : Bool := f.keptIn sbn || f.metaPages.any fun m => m.sbn == sbn && m.id.1 == 3

/-- The valid charged bytes of a superblock (R128). -/
def Ftl.validBytes (f : Ftl) (sbn : Nat) : Nat :=
  sumOf ((f.stored.filter fun g => g.sbn == sbn && f.isValid g).map f.charge) +
    sumOf ((f.metaPages.filter fun m => m.sbn == sbn).map f.metaCharge)

/-- RELEASE of a superblock (R131): the record is programmed before any erase starts. -/
def Tile.release (pinNsx : Option Nat) (x : Tile) (sbn : Nat) : Tile :=
  { x with ftl := { (x.ftl.append pinNsx (.sblk 3 sbn 0 0 0 0 0)).sync with
      sbs := x.ftl.sbs.map (fun b => if b.sbn == sbn then { b with released := true } else b)
      victimDone := true } }

/-- The erase of a released superblock's quads, with ERASED records; a quad in `fails` is retired with ERASE_FAIL and a doomed
one with REBUILT, without being erased; the others are free again (R118, R120, R131). -/
def State.eraseSb (s : State) (t sbn : Nat) (fails : List QuadId) : State :=
  let f := (s.tileAt t).ftl
  match f.sbs.find? fun b => b.sbn == sbn && b.released with
  | none => s
  | some b =>
    if f.readers.contains sbn then s
    else
      let members := b.members.map fun m => m.1
      let s1 := s.onTileAt t fun x => { x with
        ftl := { x.ftl with
          sbs := x.ftl.sbs.filter fun y => y.sbn != sbn
          stored := x.ftl.stored.filter fun g => g.sbn != sbn
          doomed := x.ftl.doomed.filter fun q => !members.contains q }
        flash := { x.flash with pages := x.flash.pages.filter fun p =>
          !(members.any fun q => p.1 / 2 ^ 28 == q.chan * 16 + q.lun && p.1 / 2 ^ 12 % 2 ^ 14 == q.block) } }
      members.foldl (fun s q =>
        if f.doomed.contains q then s.retireQuad t q 0x9B
        else if !((s.tileAt t).lunUp q.chan q.lun) then s
        else if fails.contains q then s.retireQuad t q 0x99
        else s.onTileAt t fun x =>
          let f1 := x.ftl.bumpWear q
          { x with ftl := f1.append s.pinNsx (.sblk 4 sbn q.chan q.lun q.block 0 (f1.eraseCount q)) }) s1

/-- The victim that collection takes (R122, R128): degraded superblocks first, then the fewest valid charged bytes, ties to the
earlier CLOSE. -/
def Ftl.pickVictim (f : Ftl) : Option Superblock :=
  firstBy (fun a b =>
    let va := f.validBytes a.sbn
    let vb := f.validBytes b.sbn
    (a.degraded && !b.degraded) || (a.degraded == b.degraded && (va < vb || (va == vb && a.closeSeq < b.closeSeq))))
    (f.sbs.filter fun b => b.closed && !b.released && !f.skipped b.sbn)

/-- Ascending NSX and local grain index (R129). -/
def keyLt (a b : GKey) : Bool := a.nsx < b.nsx || (a.nsx == b.nsx && a.lg < b.lg)

/-- The tile's root table changed: the copy written last. -/
def Ftl.onRoot (f : Ftl) (g : RootCopy → RootCopy) : Ftl :=
  if f.lastB then { f with rootB := g f.rootB } else { f with rootA := g f.rootA }

/-- A map page written again at the frontier of META, with PGEN + 1 and a PTR record (R99, R129). -/
def State.rewriteMap (s : State) (t : Nat) (m : MetaPage) : State :=
  let s1 := s.placeMeta t m.id m.len
  if (s1.tileAt t).ftl.metaPages.contains m then s
  else
    let pg := pgenOf (s.tileAt t).ftl.root.pgens m.id.1 m.id.2.1 m.id.2.2
    let bump (r : RootCopy) : RootCopy := { r with pgens := bumpPgen r.pgens m.id.1 m.id.2.1 m.id.2.2 }
    let rec0 : JRec := .ptr m.id.1 m.id.2.1 m.id.2.2 ((pg + 1) % 2 ^ 20)
    (if pg = 2 ^ 20 - 1 then s1.deriveSeal t else s1).onTileAt t fun x => { x with ftl := (x.ftl.onRoot bump).append s.pinNsx rec0 }

/-- The copies of a victim's valid grains, and its map pages written again (R129). -/
def State.collect (s : State) (t sbn : Nat) : State :=
  let f := (s.tileAt t).ftl
  let gs := sortBy (fun (a b : Stored) => keyLt a.key b.key) (f.stored.filter fun g => g.sbn == sbn && f.isValid g)
  (f.metaPages.filter fun m => m.sbn == sbn && m.id.1 != 3).foldl (fun s m => s.rewriteMap t m) (gs.foldl (fun s g => s.relocate t g) s)

end Sys2Proof.Machine
end

