-- ==== Sys2Proof/Machine/MapPages.lean ====
section
/-! DEFINITION. Machine/MapPages.lean: extent leaves, checkpoints, the map cache, and map pages in the saddlebag (R90 to R97, R104 to
R106). -/

namespace Sys2Proof.Machine

open Sys2Proof

/-! ### Extent leaves (R91, R113) -/

/-- The superblock that holds a location. -/
def Ftl.sbOf (f : Ftl) (l : Loc) : Option Superblock := f.sbs.find? fun b => b.members.any fun m => m.1 == ⟨l.chan, l.lun, l.block⟩

/-- The frontier of a superblock right after a grain of `len` units at a location (R113). -/
def Superblock.past (b : Superblock) (l : Loc) (len : Nat) : Option Superblock :=
  (b.dataMembers.findIdx? fun q => q == ⟨l.chan, l.lun, l.block⟩).map fun d =>
    let b1 := { b with
      row := l.page / rowDepth b.stream, lane := 4 * d + l.plane, unit := l.page % rowDepth b.stream * 64 + l.off + len }
    if b1.unit = b1.segUnits then b1.nextSegment else b1

/-- The location of the frontier (R113). -/
def Superblock.spot (b : Superblock) : Option Loc :=
  (b.dataMembers[b.lane / 4]?).map fun q =>
    ⟨q.chan, q.lun, b.lane % 4, q.block, b.row * rowDepth b.stream + b.unit / 64, b.unit % 64⟩

/-- Whether one stored grain lies right after another in packing order, with no filler between them (R113). -/
def Ftl.follows (f : Ftl) (a b : MapEntry) : Bool :=
  match f.sbOf a.loc with
  | some sb => ((sb.past a.loc a.len).bind Superblock.spot) == some b.loc
  | none => false

/-- The extent runs of the STORED grains of a span, given by ascending entry number (R91). -/
def Ftl.extentRuns (f : Ftl) : List (Nat × MapEntry) → Nat
  | [] => 0
  | [_] => 1
  | a :: b :: r => (if b.1 = a.1 + 1 && a.2.gen == b.2.gen && f.follows a.2 b.2 then 0 else 1) + f.extentRuns (b :: r)

/-- Whether a leaf is written in extent form (R91, Table 4.5). -/
def Ftl.extentForm (f : Ftl) (leaves : List (GKey × MapEntry)) (nsx j : Nat) : Bool :=
  let es := leaves.filter fun x => x.1.leaf == (nsx, j)
  let runs := f.extentRuns (sortBy (fun (a b : Nat × MapEntry) => a.1 < b.1)
    ((es.filter fun x => x.2.state == .stored).map fun x => (x.1.lg, x.2)))
  es.all (fun x => x.2.state == .stored || (x.2.state == .unmapped && x.2.gen == 0)) && 1 ≤ runs && runs ≤ 30

/-- Whether a leaf is in extent form now. -/
def Ftl.isExtent (f : Ftl) (nsx j : Nat) : Bool := f.root.extents.contains (nsx, j)

/-! ### The map cache (R93) -/

/-- The identity key of a map page in the map cache: kind (1 standard leaf, 2 interior node, 3 extent leaf), NSX and index. -/
def cacheKey (kind nsx idx : Nat) : Nat := kind * 2 ^ 60 + nsx * 2 ^ 40 + idx

/-- The key of a cached page once a checkpoint has chosen the forms of the leaves: a leaf may have changed its form. -/
def recode (extents : List (Nat × Nat)) (k : Nat) : Nat :=
  let nsx := k / 2 ^ 40 % 2 ^ 20
  let idx := k % 2 ^ 40
  if k / 2 ^ 60 = 2 then k else cacheKey (if extents.contains (nsx, idx) then 3 else 1) nsx idx

/-- The key of a map page: level 1 a leaf, level 2 an interior node. -/
def Ftl.pageId (f : Ftl) (level nsx idx : Nat) : Nat :=
  cacheKey (if level = 2 then 2 else if f.isExtent nsx idx then 3 else 1) nsx idx

/-- The slots that cached pages take: one for a standard leaf or an interior node, one for up to four extent leaves. -/
def cacheSlots (c : List (Nat × Nat)) : Nat :=
  let ext := (c.filter fun x => x.1 / 2 ^ 60 == 3).length
  c.length - ext + ceilDiv ext 4

/-- The passes of the clock sweep that a page has after a use: an interior node one more than a leaf. -/
def cachePasses (key : Nat) : Nat := if key / 2 ^ 60 = 2 then 2 else 1

/-- The clock sweep: the hand stands at the front of the list, passes over pinned pages and over pages with passes left, and evicts
others until the new page has room in the 1,024 slots. -/
def sweepCache (pinned key : Nat) : Nat → List (Nat × Nat) → List (Nat × Nat)
  | 0, c => c
  | n + 1, c =>
    if cacheSlots ((key, 0) :: c) ≤ 1024 then c
    else match c with
      | [] => []
      | x :: r =>
        if x.1 / 2 ^ 40 % 2 ^ 20 + 1 = pinned then sweepCache pinned key n (r ++ [x])
        else if 0 < x.2 then sweepCache pinned key n (r ++ [(x.1, x.2 - 1)])
        else sweepCache pinned key n r

/-- A page used that the cache holds, or one that it takes in. -/
def cacheUse (pinned key : Nat) (c : List (Nat × Nat)) : List (Nat × Nat) :=
  if c.any fun x => x.1 == key then c.map fun x => if x.1 == key then (key, cachePasses key) else x
  else sweepCache pinned key (4 * c.length + 4) c ++ [(key, cachePasses key)]

/-- The map pages of the pinned namespace, as the first sweep loads them (R93). -/
def Ftl.pinnedPages (f : Ftl) (pick : Nat → Bool) : List (Nat × Nat) :=
  (f.root.pgens.filter fun p => pick p.2.1).map fun p => let k := f.pageId p.1 p.2.1 p.2.2.1; (k, cachePasses k)

/-! ### Checkpoints (R104 to R106) -/

/-- The leaves once the overlay entries that are not held are merged into them. -/
def Ftl.mergedLeaves (f : Ftl) : List (GKey × MapEntry) :=
  (f.overlay.filter fun o => o.held == 0).foldl (fun ls o => ls.filter (fun x => x.1 != o.key) ++ [(o.key, o.entry)]) f.leaves

/-- The map pages that a checkpoint writes, with their units in flash: the changed leaves, then the nodes above them (R90, R104). -/
def Ftl.pagesToWrite (f : Ftl) : List ((Nat × Nat × Nat) × Nat) :=
  let touched := leavesOf (f.overlay.filter fun o => o.held == 0)
  (touched.map fun p => ((1, p.1, p.2), if f.extentForm f.mergedLeaves p.1 p.2 then 5 else 17)) ++
    ((touched.map fun p => (p.1, f.rootIdx p.1 p.2)).eraseDups.map fun p => ((2, p.1, p.2), 17))

/-- The pages of a checkpoint placed in META; the old places of those that it supersedes are kept until the next one, and those that the
last one kept are let go (R104 steps 2 and 3, R106). -/
def State.placePages (s : State) (t : Nat) : State :=
  let f := (s.tileAt t).ftl
  let ids := f.pagesToWrite.map fun p => p.1
  let old := f.metaPages.filter fun m => ids.contains m.id
  let s1 := s.onTileAt t fun x => { x with ftl := { x.ftl with
    metaKept := old, metaPages := x.ftl.metaPages.filter fun m => !ids.contains m.id } }
  f.pagesToWrite.foldl (fun (s : State) p => s.placeMeta t p.1 p.2) s1

/-- Steps 1 to 6 of a checkpoint (R104), with the two-copy rule of R105: entries that are not held move into the leaves, every
changed leaf and node is written with PGEN + 1 and a PTR record, the copy not written last takes the new root table, and CKPT is
appended and the tail programmed. A held entry stays in the overlay (R103). A leaf is
written in extent form where R91 allows it. The journal that the previous checkpoint started is kept
until the next one has completed (R106). -/
def Ftl.checkpoint (f : Ftl) (pinNsx : Option Nat) : Ftl :=
  let start := f.nextSeq
  let merge := f.overlay.filter fun o => o.held == 0
  let touched := leavesOf merge
  let nodes := (touched.map fun p => (p.1, f.rootIdx p.1 p.2)).eraseDups
  let leaves := f.mergedLeaves
  let pg1 := touched.foldl (fun ps p => bumpPgen ps 1 p.1 p.2) f.root.pgens
  let pg2 := nodes.foldl (fun ps p => bumpPgen ps 2 p.1 p.2) pg1
  let f1 := touched.foldl (fun f p => f.append pinNsx (.ptr 1 p.1 p.2 (pgenOf pg1 1 p.1 p.2))) f
  let f2 := nodes.foldl (fun f p => f.append pinNsx (.ptr 2 p.1 p.2 (pgenOf pg2 2 p.1 p.2))) f1
  let extents := (f.root.extents.filter fun p => !touched.contains p) ++ touched.filter fun p => f.extentForm leaves p.1 p.2
  let root : RootCopy := ⟨f.root.number + 1, start, leaves, pg2, f2.sbs, f2.mirr, extents⟩
  let f3 := (f2.append pinNsx (.ckpt (b2n (!f.lastB)) root.number start)).sync
  let heldGroups := (f.overlay.filter fun o => o.held != 0).map OverlayEntry.held
  { f3 with
    leaves := leaves
    overlay := f.overlay.filter fun o => o.held != 0
    rootA := if f.lastB then root else f.rootA
    rootB := if f.lastB then f.rootB else root
    lastB := !f.lastB
    journal := f3.journal.filter fun j => min (min start f.root.start) ((f.overlay.filter fun o => o.held != 0).foldl
                 (fun m o => min m o.seq) start) ≤ j.seq
    changes := f3.nextSeq - start
    pinChanges := 0
    cache := f.cache.map fun x => (recode extents x.1, x.2)
    kept := superseded f.root.pgens pg2
    groupsLive := f.groupsLive.filter fun g => heldGroups.contains g
    groupsDone := f.groupsDone.filter fun g => heldGroups.contains g }

/-! ### Map pages in the saddlebag (R94, R96, R97) -/

/-- What the saddlebag holds of a map page (Table 4.7): IDENT, FORM and the PGEN fields. An extent leaf goes with its three siblings in
a quad; a sibling that is no extent leaf has PGEN 0. -/
def Ftl.bagPage (f : Ftl) (t level nsx idx : Nat) : Nat × Nat × List Nat :=
  let pg (j : Nat) : Nat := pgenOf f.root.pgens level nsx j
  if level = 2 then (slotIdent t 2 idx, 1, [pg idx])
  else if f.isExtent nsx idx then
    let j0 := idx / 4 * 4
    (slotIdent t 1 (f.rootIdx nsx j0 * 512 + j0 % 512), 2,
      (List.range 4).map fun i => if f.isExtent nsx (j0 + i) then pg (j0 + i) else 0)
  else (slotIdent t 0 (f.rootIdx nsx idx * 512 + idx % 512), 1, [pg idx])

/-- Whether a slot's PGEN fields differ from the pointer entries in one in use, or lack the page that is looked for (R97 step 2). -/
def Ftl.staleSlot (f : Ftl) (level nsx idx : Nat) (pgens : List Nat) : Bool :=
  let pg (j : Nat) : Nat := pgenOf f.root.pgens level nsx j
  match pgens with
  | [p] => p != pg idx
  | ps => ps.getD (idx % 4) 0 != pg idx ||
      (List.range 4).any fun i => ps.getD i 0 != 0 && ps.getD i 0 != pg (idx / 4 * 4 + i)

/-- A map page fetched from flash or written back, copied to its home slot: content first, header last; never a page of the
pinned namespace (R96). -/
def State.bagWrite (s : State) (t level nsx idx : Nat) : State :=
  if !s.bagOn || s.pinned == nsx + 1 then s
  else
    let p := (s.tileAt t).ftl.bagPage t level nsx idx
    match s.homeSlot t p.1 with
    | none => s
    | some a => s.onTileAt t fun x => { x with ftl := { x.ftl with
        slots := x.ftl.slots.filter (fun y => y.addr != a) ++ [⟨a, p.1, x.ftl.sealep, p.2.1, p.2.2⟩] } }

/-- The use of the saddlebag for a page, with its counts: whether the copy passes the checks of R97. A copy that fails its seal check,
and a read that meets an error, count a mismatch. -/
def State.bagCheck (s : State) (t level nsx idx : Nat) (tamper poison : List Nat) : Bool × State :=
  let f := (s.tileAt t).ftl
  let p := f.bagPage t level nsx idx
  let hmb := s.host.hmb
  let count (h : Hmb) : State := { s with host := { s.host with hmb := h } }
  if !s.bagOn then (false, s)
  else match s.homeSlot t p.1 with
    | none => (false, s)
    | some a =>
      if poison.contains a then (false, s.bagMismatch a)
      else match f.slots.find? fun y => y.addr == a with
      | none => (false, count { hmb with misses := hmb.misses + 1 })
      | some y =>
        if y.ident != p.1 || y.form != p.2.1 || y.sealep != f.sealep then (false, count { hmb with misses := hmb.misses + 1 })
        else if f.staleSlot level nsx idx y.pgens then (false, count { hmb with stale := hmb.stale + 1 })
        else if tamper.contains a then (false, s.bagMismatch a)
        else (true, count { hmb with hits := hmb.hits + 1 })

/-! ### Looking up a page (R90, R92, R93) -/

/-- The grains of a leaf that a namespace has. -/
def State.leafGrains (s : State) (t nsx j : Nat) : List GKey :=
  let n := ((s.nsOf (nsx + 1)).map fun ns => ceilDiv (ns.blocks * ns.blockSize) ns.grain).getD 0
  ((List.range 512).map fun e => (⟨nsx, j * 512 + e⟩ : GKey)).filter fun k => grainAt s.n (nsx + 1) t k.lg < n

/-- A map page that neither the ladder nor RAIN recovers: every grain that it maps, and that no newer change covers, becomes LOST, and
the loss is logged with the page's identity (R90). -/
def State.loseMap (s : State) (t level nsx idx : Nat) : State :=
  let f := (s.tileAt t).ftl
  let js := if level = 2
    then (f.root.pgens.filter fun p => p.1 == 1 && p.2.1 == nsx && f.rootIdx nsx p.2.2.1 == idx).map fun p => p.2.2.1
    else [idx]
  let gs := (js.flatMap fun j => s.leafGrains t nsx j).filter fun k => (f.overOf k).isNone
  let s1 := s.onTileAt t fun x => { x with ftl := gs.foldl (fun (f : Ftl) k =>
    f.commit s.pinNsx (.map 0 k { state := .lost, gen := (f.entry k).gen })) x.ftl }
  let s2 := s1.log 2 0 0 t 0 (f.bagPage t level nsx idx).1
  { s2 with logs := { s2.logs with mediaErrors := s2.logs.mediaErrors + gs.length } }

/-- A map page brought into the map cache from the saddlebag or from flash, and whether the walk goes on: a page that was never written
has nothing below it. -/
def State.fetchPage (s : State) (t level nsx idx : Nat) (maps : List (Nat × Nat × Nat × Nat)) (tamper poison : List Nat) :
    Bool × State :=
  let f := (s.tileAt t).ftl
  let key := f.pageId level nsx idx
  let use (s : State) : State := s.onTileAt t fun x => { x with ftl := { x.ftl with cache := cacheUse s.pinned key x.ftl.cache } }
  if !f.root.pgens.any (fun p => p.1 == level && p.2.1 == nsx && p.2.2.1 == idx) then (false, s)
  else if f.cache.any fun x => x.1 == key then (true, use s)
  else
    let r := s.bagCheck t level nsx idx tamper poison
    if r.1 then (true, use r.2)
    else if maps.contains (t, level, nsx, idx) then (false, r.2.loseMap t level nsx idx)
    else (true, use (r.2.bagWrite t level nsx idx))

/-- A leaf looked up through the interior node above it: the map cache, the saddlebag, then flash (R92). -/
def State.lookupLeaf (s : State) (t nsx lg : Nat) (maps : List (Nat × Nat × Nat × Nat)) (tamper poison : List Nat) : State :=
  let j := lg / 512
  let r := s.fetchPage t 2 nsx ((s.tileAt t).ftl.rootIdx nsx j) maps tamper poison
  if r.1 then (r.2.fetchPage t 1 nsx j maps tamper poison).2 else r.2

end Sys2Proof.Machine
end

