-- ==== Sys2Proof/Machine/Keccak.lean ====
section
/-! DEFINITION. Machine/Keccak.lean: Keccak-f[1600] and the functions that the manual builds on it: SHA3, SHAKE256 (FIPS 202),
cSHAKE256 and KMAC256 (SP 800-185), for the digest engine (chapter 15) and every digest and token that the device computes. -/

namespace Sys2Proof.Machine

open Sys2Proof

/-- A lane of the Keccak state. -/
abbrev Lane := BitVec 64

/-- Lane `i` of a state of 25 lanes. -/
def lane (a : List Lane) (i : Nat) : Lane := a.getD i 0

/-- Rotation offsets of ρ, by lane x + 5y. -/
def rhoOffsets : List Nat :=
  [0, 1, 62, 28, 27, 36, 44, 6, 55, 20, 3, 10, 43, 25, 39, 41, 45, 15, 21, 8, 18, 2, 61, 56, 14]

/-- One step of the LFSR that makes the round constants. -/
def rcStep (r : Nat) : Nat := if 128 ≤ r then (r * 2 % 256) ^^^ 0x71 else r * 2

/-- The round constant from an LFSR value, with the LFSR after it: bits 2^j − 1 for j = 0 to 6. -/
def rcRound (r : Nat) : Lane × Nat :=
  (List.range 7).foldl (fun (p : Lane × Nat) j =>
    (if p.2 % 2 = 1 then p.1 ^^^ ((1 : Lane) <<< (2 ^ j - 1)) else p.1, rcStep p.2)) (0, r)

/-- θ. -/
def keccakTheta (a : List Lane) : List Lane :=
  let c := (List.range 5).map fun x =>
    lane a x ^^^ lane a (x + 5) ^^^ lane a (x + 10) ^^^ lane a (x + 15) ^^^ lane a (x + 20)
  let d := (List.range 5).map fun x => lane c ((x + 4) % 5) ^^^ (lane c ((x + 1) % 5)).rotateLeft 1
  (List.range 25).map fun i => lane a i ^^^ lane d (i % 5)

/-- ρ and π: lane (x, y) of the result comes from lane (x + 3y, x). -/
def keccakRhoPi (a : List Lane) : List Lane :=
  (List.range 25).map fun i =>
    let x := i % 5
    let y := i / 5
    let j := (x + 3 * y) % 5 + 5 * x
    (lane a j).rotateLeft (rhoOffsets.getD j 0)

/-- χ. -/
def keccakChi (a : List Lane) : List Lane :=
  (List.range 25).map fun i =>
    let x := i % 5
    let y := i / 5 * 5
    lane a i ^^^ ((~~~ lane a (y + (x + 1) % 5)) &&& lane a (y + (x + 2) % 5))

/-- `n` rounds of Keccak-f from an LFSR value. -/
def keccakRounds : Nat → Nat → List Lane → List Lane
  | 0, _, a => a
  | n + 1, r, a =>
    let rc := rcRound r
    let b := keccakChi (keccakRhoPi (keccakTheta a))
    keccakRounds n rc.2 ((lane b 0 ^^^ rc.1) :: b.drop 1)

/-- Keccak-f[1600] on 25 lanes. -/
def keccakF (a : List Lane) : List Lane := keccakRounds 24 1 a

/-- Keccak-f[1600] on 200 bytes. -/
def keccakBytes (st : List Byte) : List Byte :=
  (keccakF ((List.range 25).map fun i => BitVec.ofNat 64 (leAt st (8 * i) 8))).flatMap fun l => leBytes 8 l.toNat

/-- The state with bytes added by exclusive or from an offset. -/
def xorAt (st : List Byte) (o : Nat) (x : List Byte) : List Byte := patch st o (xorBytes (slice o x.length st) x)

/-- The whole blocks of a message absorbed, and the rest: the state and what is left, below the rate. -/
def absorb (rate : Nat) : Nat → List Byte → List Byte → List Byte × List Byte
  | 0, st, m => (st, m)
  | n + 1, st, m =>
    if m.length < rate then (st, m) else absorb rate n (keccakBytes (xorAt st 0 (m.take rate))) (m.drop rate)

/-- `n` bytes squeezed. -/
def squeeze (rate : Nat) : Nat → Nat → List Byte → List Byte
  | 0, _, _ => []
  | fuel + 1, n, st => if n ≤ rate then st.take n else st.take rate ++ squeeze rate fuel (n - rate) (keccakBytes st)

/-- The sponge: domain suffix `suffix`, pad10*1. -/
def sponge (rate suffix : Nat) (m : List Byte) (n : Nat) : List Byte :=
  let p := absorb rate (m.length / rate + 1) (zeros 200) m
  let last := xorAt (xorAt (xorAt p.1 0 p.2) p.2.length [BitVec.ofNat 8 suffix]) (rate - 1) [0x80]
  squeeze rate (n / rate + 1) n (keccakBytes last)

/-- SHAKE256. -/
def shake256 (m : List Byte) (n : Nat) : List Byte := sponge 136 0x1F m n

/-- SHA3-256. -/
def sha3_256 (m : List Byte) : List Byte := sponge 136 0x06 m 32

/-- SHA3-384. -/
def sha3_384 (m : List Byte) : List Byte := sponge 104 0x06 m 48

/-- SHA3-512. -/
def sha3_512 (m : List Byte) : List Byte := sponge 72 0x06 m 64

/-- The big-endian bytes of a number, at least one. -/
def beMin (x : Nat) : List Byte :=
  let n := (((List.range 9).drop 1).find? fun k => x < 256 ^ k).getD 8
  (leBytes n x).reverse

/-- left_encode (SP 800-185). -/
def leftEncode (x : Nat) : List Byte := BitVec.ofNat 8 (beMin x).length :: beMin x

/-- right_encode. -/
def rightEncode (x : Nat) : List Byte := beMin x ++ [BitVec.ofNat 8 (beMin x).length]

/-- encode_string. -/
def encodeString (b : List Byte) : List Byte := leftEncode (8 * b.length) ++ b

/-- bytepad to a multiple of the rate. -/
def bytepad (b : List Byte) (rate : Nat) : List Byte :=
  let x := leftEncode rate ++ b
  fit (ceilDiv x.length rate * rate) x

/-- cSHAKE256 with a function name and a customisation string. -/
def cshake256 (name custom m : List Byte) (n : Nat) : List Byte :=
  sponge 136 0x04 (bytepad (encodeString name ++ encodeString custom) 136 ++ m) n

/-- The bytes of an ASCII string. -/
def ascii (x : String) : List Byte := x.toList.map fun c => BitVec.ofNat 8 c.toNat

/-- KMAC256 with a key, a customisation string and `n` output bytes. -/
def kmac256 (key custom m : List Byte) (n : Nat) : List Byte :=
  cshake256 (ascii "KMAC") custom (bytepad (encodeString key) 136 ++ m ++ rightEncode (8 * n)) n

end Sys2Proof.Machine
end

