-- ==== Sys2Proof/Machine/KeyOps.lean ====
section
/-! DEFINITION. Machine/KeyOps.lean: the key store, its slots and the caches of their keys (chapter 15). -/

namespace Sys2Proof.Machine

open Sys2Proof

/-- A key slot; an EMPTY one reads zero (R320). -/
def State.keySlot (s : State) (n : Nat) : KeySlot :=
  (s.keys.slots.find? fun k => k.slot == n).getD ⟨n, 0, [], 0⟩

/-- STATE of a slot: 0 EMPTY, 1 PARTIAL, 2 LOADED (Table 15.2). -/
def KeySlot.state (k : KeySlot) : Nat := k.attr % 4

/-- A use bit of a slot: 2 ENC, 3 DEC, 4 XTS, 5 KMACK, 6 WRAP. -/
def KeySlot.use (k : KeySlot) (bit : Nat) : Bool := bitN k.attr bit

/-- KIND and OWNER of a slot as a cipher request names them: KIND in bits 1:0, SNUM or NSX from bit 2 (Tables 15.2 and 15.5). -/
def KeySlot.owner (k : KeySlot) : Nat := field k.attr 9 8 + field k.attr 27 10 * 4

/-- The key bytes of a slot that is LOADED; none otherwise. -/
def State.slotKey (s : State) (n : Nat) : List Byte :=
  let k := s.keySlot n
  if k.state = 2 then k.key else []

/-- The store with a slot written. -/
def KeyStore.put (k : KeyStore) (x : KeySlot) : KeyStore :=
  { k with slots := insertBy (fun a b => a.slot < b.slot) x (k.slots.filter fun y => y.slot != x.slot) }

/-- The state with a slot written. -/
def State.putSlot (s : State) (x : KeySlot) : State := { s with keys := s.keys.put x }

/-- Every cached copy of a slot's key invalidated (R325). -/
def State.uncacheKey (s : State) (n : Nat) : State :=
  let drop (l : List Nat) : List Nat := l.filter fun c => c != n
  { s with tiles := s.tiles.map fun x => { x with
      cqe := { x.cqe with cache := drop x.cqe.cache }
      xtsA := { x.xtsA with cache := drop x.xtsA.cache }
      xtsB := { x.xtsB with cache := drop x.xtsB.cache } } }

/-- A slot zeroed and its cached copies invalidated (R325). -/
def State.eraseSlot (s : State) (n : Nat) : State :=
  ({ s with keys := { s.keys with slots := s.keys.slots.filter fun y => y.slot != n } } : State).uncacheKey n

/-- A grant of the key store arbiter: requester `i` of 0 to 8 (R325, R363). -/
def State.keyGrant (s : State) (i : Nat) : State := { s with keys := { s.keys with ptr := (i + 1) % 9 } }

/-- Whether the store is locked: ALARM_STAT.LOCK (R342). -/
def State.keysLocked (s : State) : Bool := bitN (s.rd .sec 0x044) 5

/-- The check of R322 on a slot for a requester and a use bit: 0 pass, 2 KEY, 3 KEY_USE (Table 15.6). -/
def State.keyCheck (s : State) (slot owner : Nat) (uses : List Nat) : Nat :=
  let k := s.keySlot slot
  if k.state ≠ 2 then 2
  else if k.owner ≠ owner ∨ !(uses.any k.use) then 3
  else 0

/-- The lowest-numbered run of `n` free slots in the shared pool, for a session (R224); slots that a session holds are not free. -/
def State.keyRun (s : State) (n : Nat) : Option Nat :=
  let held := s.ses.sessions.map fun x => (x.kbase, x.kcnt)
  let free (i : Nat) : Bool := !(s.keys.slots.any fun k => k.slot == i) && !(held.any fun h => h.1 ≤ i && i < h.1 + h.2)
  if n = 0 then some 0
  else ((List.range (8192 - 64 + 1 - n)).find? fun i => (List.range n).all fun j => free (64 + i + j)).map fun i => 64 + i

/-- The slot of a namespace's media key (R326). -/
def State.nsKeySlot (s : State) (nsid : Nat) : Option KeySlot :=
  s.keys.slots.find? fun k => field k.attr 9 8 == 1 && field k.attr 27 10 == nsid - 1

end Sys2Proof.Machine
end

