-- ==== Sys2Proof/Machine/SesOps.lean ====
section
/-! DEFINITION. Machine/SesOps.lean: session handles, rights, quotas and what a vendor command holds of its session
(chapter 10). -/

namespace Sys2Proof.Machine

open Sys2Proof

/-- The limits that FUNC_SET has set for a function (Table 10.3): its payload, none for a function never set. -/
def State.funcDef (s : State) (f : FnId) : Option (List Byte) :=
  (s.cfg.body.funcs.find? fun x => x.fn == f).map fun x => x.bytes

/-- A limit of a function: `n` bytes at offset `o` of Table 10.3, or its default. -/
def State.funcLimit (s : State) (f : FnId) (o n dflt : Nat) : Nat :=
  match s.funcDef f with
  | some b => leAt b o n
  | none => dflt

/-- The session handle (R217). -/
def Session.handle (x : Session) : Nat := x.snum + x.gen * 2 ^ 18

/-- The session in a slot. -/
def State.sessionAt (s : State) (snum : Nat) : Option Session := s.ses.sessions.find? fun x => x.snum == snum

/-- The session that a handle names for a function: it holds the slot's FUNC, GEN matches and STATE is not FREE (R219). -/
def State.sessionOf (s : State) (handle : Nat) (f : FnId) : Option Session :=
  s.ses.sessions.find? fun x => x.handle == handle && x.fn == f

/-- The state with a session changed. -/
def State.onSession (s : State) (snum : Nat) (f : Session → Session) : State :=
  { s with ses := { s.ses with sessions := s.ses.sessions.map fun x => if x.snum == snum then f x else x } }

/-- The grant entries of a function (R222). -/
def State.grants (s : State) (f : FnId) : List Nat :=
  match s.funcDef f with
  | some b => ((List.range 20).map fun i => leAt b (24 + 2 * i) 2).filter fun e => e != 0
  | none => []

/-- The bits R 1, W 2 and S 4 that a list of rights entries carries for a namespace (Table 10.4). -/
def rightBits (es : List Nat) (nsx : Nat) : Nat :=
  (es.filter fun e => e % 4096 == nsx).foldl (fun a e => a ||| (e / 4096 % 8)) 0

/-- The rights of a session to a namespace that are in force: carried by its table and by the function's grant, the namespace
attached to the function's controller (R223). -/
def State.rightsOn (s : State) (x : Session) (nsx : Nat) : Nat :=
  match s.nsOf (nsx + 1) with
  | none => 0
  | some ns => if ns.attached.contains x.fn then rightBits x.rights nsx &&& rightBits (s.grants x.fn) nsx else 0

/-- The snapshot that a check takes (R228). -/
def State.snapOf (s : State) (x : Session) : SesSnap :=
  ⟨x.snum, x.handle, x.cls, ((x.rights.map fun e => e % 4096).eraseDups).map fun n => (n, s.rightsOn x n), x.kbase, x.kcnt,
   x.sslot, x.qbi, x.label⟩

/-- The rights of a snapshot to a namespace. -/
def SesSnap.bits (x : SesSnap) (nsid : Nat) : Nat := ((x.rights.find? fun r => r.1 + 1 == nsid).map fun r => r.2).getD 0

/-! ### Quotas (R230 to R232) -/

/-- A quota block that has been set. -/
def State.quota (s : State) (qbi : Nat) : Option Quota := s.ses.quotas.find? fun q => q.qbi == qbi

/-- The state with a quota block changed. -/
def State.onQuota (s : State) (qbi : Nat) (f : Quota → Quota) : State :=
  { s with ses := { s.ses with quotas := s.ses.quotas.map fun q => if q.qbi == qbi then f q else q } }

/-- The all-ones limit of `n` bytes, which means no limit (R230). -/
def noLimit (n lim : Nat) : Bool := lim == 256 ^ n - 1

/-- Whether a scan-byte charge stays within SLIM (R231). A block never set has no limits in force. -/
def State.scanFits (s : State) (qbi n : Nat) : Bool :=
  match s.quota qbi with
  | none => true
  | some q => noLimit 8 q.slim || q.suse + n ≤ q.slim

/-- Whether the scan-byte quota has run out (R211). -/
def State.scanSpent (s : State) (qbi : Nat) : Bool :=
  match s.quota qbi with
  | none => false
  | some q => !noLimit 8 q.slim && q.slim ≤ q.suse

/-- Whether a write charge stays within WLIM (R231). -/
def State.writeFits (s : State) (qbi n : Nat) : Bool :=
  match s.quota qbi with
  | none => true
  | some q => noLimit 8 q.wlim || q.wuse + n ≤ q.wlim

/-- Whether one more vendor command stays within OLIM (R231). -/
def State.outFits (s : State) (qbi : Nat) : Bool :=
  match s.quota qbi with
  | none => true
  | some q => noLimit 2 q.olim || q.ouse + 1 ≤ q.olim

/-- Whether CUSE has reached CLIM, so that no further quantum is given (R231). -/
def State.coreSpent (s : State) (qbi : Nat) : Bool :=
  match s.quota qbi with
  | none => false
  | some q => !noLimit 8 q.clim && q.clim ≤ q.cuse

/-- Scan bytes charged. -/
def State.chargeScan (s : State) (qbi n : Nat) : State := s.onQuota qbi fun q => { q with suse := q.suse + n }

/-- Scan bytes given back (R190). -/
def State.refundScan (s : State) (qbi n : Nat) : State := s.onQuota qbi fun q => { q with suse := q.suse - n }

/-- Written bytes charged. -/
def State.chargeWrite (s : State) (qbi n : Nat) : State := s.onQuota qbi fun q => { q with wuse := q.wuse + n }

/-- Core time charged. -/
def State.chargeCore (s : State) (qbi n : Nat) : State := s.onQuota qbi fun q => { q with cuse := q.cuse + n }

/-! ### What a checked command holds (R227, R228) -/

/-- A grant of the arbiter of a session's store on its home tile: 0 and 1 the checks from ports A and B, 2 a 02xxh message, 3 a
completion (R227). -/
def State.sesGrant (s : State) (snum i : Nat) : State :=
  { s with ses := { s.ses with ptrs := kvSet (snum / 32768) ((i + 1) % 4) s.ses.ptrs } }

/-- A grant of the quota array's arbiter: 0 and 1 the checks, 2 + t a charge or refund from tile t (R232). -/
def State.quotaGrant (s : State) (i : Nat) : State :=
  { s with ses := { s.ses with ptrs := kvSet 8 ((i + 1) % 10) s.ses.ptrs } }

/-- A vendor command that has passed its check: OUTST and OUSE advance, and the track keeps the snapshot. -/
def State.vendorStart (s : State) (k : CmdKey) (x : SesSnap) : State :=
  let s0 := (s.sesGrant x.snum k.fn.port.val).quotaGrant k.fn.port.val
  let s1 := (s0.onSession x.snum fun y => { y with outst := y.outst + 1 }).onQuota x.qbi fun q => { q with ouse := q.ouse + 1 }
  { s1 with host := { s1.host with tracks := s1.host.tracks.map fun t => if t.key == k then { t with ses := some x } else t } }

/-- The end of a checked vendor command: OUTST and OUSE go back, what it had in progress is dropped, its invocations with it. -/
def State.vendorDone (s : State) (t : Track) : State :=
  match t.ses with
  | none => s
  | some x =>
    let s1 := ((s.sesGrant x.snum 3).onSession x.snum fun y => if y.handle = x.handle then { y with outst := y.outst - 1 } else y).onQuota x.qbi
      fun q => { q with ouse := q.ouse - 1 }
    let mine (j : Option Job) : Bool := (j.map fun j => j.key == t.key).getD false
    { s1 with sift := { s1.sift with runs := s1.sift.runs.filter (fun r => r.key != t.key)
                                     areas := s1.sift.areas.filter fun a => a.key != t.key }
              cores := { s1.cores with
                threads := s1.cores.threads.filter fun h => !mine h.job
                parked := s1.cores.parked.filter fun p => !mine p.2.job
                queue := s1.cores.queue.filter fun w => match w.what with
                  | .run k => k != t.key
                  | .esc k _ _ => k != t.key
                  | .ctx i => !(s1.cores.parked.any fun p => mine p.2.job && (p.2.job.map fun j => j.inv == i).getD false) } }

/-- An entry of a session in its function's log (R423, R235): KIND SESSION, with the handle as DETAIL. -/
def State.logSession (s : State) (f : FnId) (sev cause handle : Nat) : State := s.logFunc f sev cause handle

end Sys2Proof.Machine
end

