-- ==== Sys2Proof/Machine/Crc.lean ====
section
/-! DEFINITION. Machine/Crc.lean: the checks that the manual names: CRC-32C (chapter 0), CRC-32 and Adler-32 (R160), and the
16-bit guard of protection information (Table 3.1). -/

namespace Sys2Proof.Machine

open Sys2Proof

/-- One bit of a reflected 32-bit CRC. -/
def crcBit (poly c : Word) : Word := if c.getLsbD 0 then (c >>> 1) ^^^ poly else c >>> 1

/-- One byte of a reflected 32-bit CRC. -/
def crcByte (poly c : Word) (b : Byte) : Word :=
  (List.range 8).foldl (fun c _ => crcBit poly c) (c ^^^ b.setWidth 32)

/-- A reflected 32-bit CRC over a byte string, from a running value. -/
def crcFold (poly c : Word) (bs : List Byte) : Word := bs.foldl (crcByte poly) c

/-- CRC-32C: polynomial 0x1EDC_6F41 reflected, initial value and final XOR all ones (chapter 0). -/
def crc32c (bs : List Byte) : Word := crcFold 0x82F63B78 0xFFFFFFFF bs ^^^ 0xFFFFFFFF

/-- The CRC-32 of RFC 1952. -/
def crc32 (bs : List Byte) : Word := crcFold 0xEDB88320 0xFFFFFFFF bs ^^^ 0xFFFFFFFF

/-- Adler-32 of RFC 1950. -/
def adler32 (bs : List Byte) : Nat :=
  let r := bs.foldl (fun (p : Nat × Nat) b =>
    let a := (p.1 + b.toNat) % 65521
    (a, (p.2 + a) % 65521)) (1, 0)
  r.2 * 65536 + r.1

/-- One byte of the 16-bit guard CRC, polynomial 0x8BB7, most significant bit first. -/
def guardByte (c : BitVec 16) (b : Byte) : BitVec 16 :=
  (List.range 8).foldl (fun c _ => if c.getMsbD 0 then (c <<< 1) ^^^ 0x8BB7 else c <<< 1)
    (c ^^^ ((b.setWidth 16) <<< 8))

/-- The 16-bit guard of a logical block (NVM Command Set). -/
def guard16 (bs : List Byte) : BitVec 16 := bs.foldl guardByte 0

/-- A number as big-endian bytes. -/
def beBytes (n x : Nat) : List Byte := (leBytes n x).reverse

/-- The big-endian number that a byte string spells. -/
def beNat (bs : List Byte) : Nat := leNat bs.reverse

end Sys2Proof.Machine
end

