-- ==== Sys2Proof/Machine/Float.lean ====
section
/-! DEFINITION. Machine/Float.lean: IEEE 754 binary32 and binary64 values as bit patterns, computed exactly on integers and
rounded to nearest, ties to even: for record fields (chapter 8) and for FTOI and ITOF (R265). -/

namespace Sys2Proof.Machine

open Sys2Proof

/-- A binary interchange format: bits of the significand field and of the exponent field. -/
structure Fmt where
  mant : Nat
  exp  : Nat
  deriving DecidableEq, Repr

/-- binary32. -/
def Fmt.f32 : Fmt := ⟨23, 8⟩

/-- binary64. -/
def Fmt.f64 : Fmt := ⟨52, 11⟩

/-- The exponent of the least significand bit of subnormals. -/
def Fmt.emin (f : Fmt) : Int := 2 - (2 ^ (f.exp - 1) : Nat) - f.mant

/-- What a bit pattern stands for; a finite value is (−1)^neg × m × 2^e. -/
inductive FVal where
  | nan
  | inf (neg : Bool)
  | fin (neg : Bool) (m : Nat) (e : Int)
  deriving DecidableEq, Repr

/-- The value of a bit pattern. -/
def Fmt.decode (f : Fmt) (x : Nat) : FVal :=
  let neg := bitN x (f.mant + f.exp)
  let e := x / 2 ^ f.mant % 2 ^ f.exp
  let m := x % 2 ^ f.mant
  if e = 2 ^ f.exp - 1 then (if m = 0 then .inf neg else .nan)
  else if e = 0 then .fin neg m f.emin
  else .fin neg (m + 2 ^ f.mant) (f.emin + (e - 1 : Nat))

/-- num ÷ den rounded to an integer, ties to even. -/
def roundDiv (num den : Nat) : Nat :=
  let q := num / den
  let r := num % den
  if 2 * r < den then q else if den < 2 * r then q + 1 else if q % 2 = 0 then q else q + 1

/-- The infinite pattern. -/
def Fmt.infPat (f : Fmt) (neg : Bool) : Nat := b2n neg * 2 ^ (f.mant + f.exp) + (2 ^ f.exp - 1) * 2 ^ f.mant

/-- The canonical NaN. -/
def Fmt.nanPat (f : Fmt) : Nat := (2 ^ f.exp - 1) * 2 ^ f.mant + 2 ^ (f.mant - 1)

/-- The bit pattern nearest to (−1)^neg × num ÷ den, for den above 0. -/
def Fmt.round (f : Fmt) (neg : Bool) (num den : Nat) : Nat :=
  let s := b2n neg * 2 ^ (f.mant + f.exp)
  if num = 0 then s
  else
    let e0 : Int := (num.log2 : Int) - den.log2 - f.mant
    -- the value lies in [2^(mant−1), 2^(mant+1)) × 2^e0
    let below := if 0 ≤ e0 then decide (num < 2 ^ f.mant * (den * 2 ^ e0.toNat)) else
      decide (num * 2 ^ (-e0).toNat < 2 ^ f.mant * den)
    let e1 := if below then e0 - 1 else e0
    let e := max e1 f.emin
    let q := if 0 ≤ e then roundDiv num (den * 2 ^ e.toNat) else roundDiv (num * 2 ^ (-e).toNat) den
    let pat := (e - f.emin).toNat * 2 ^ f.mant + q
    s + min pat ((2 ^ f.exp - 1) * 2 ^ f.mant)

/-- The bit pattern nearest to (−1)^neg × m × 2^e. -/
def Fmt.roundScaled (f : Fmt) (neg : Bool) (m : Nat) (e : Int) : Nat :=
  if 0 ≤ e then f.round neg (m * 2 ^ e.toNat) 1 else f.round neg m (2 ^ (-e).toNat)

/-- binary32 widened to binary64; every NaN as the canonical one. -/
def widen (x : Nat) : Nat :=
  match Fmt.f32.decode x with
  | .nan => Fmt.f64.nanPat
  | .inf n => Fmt.f64.infPat n
  | .fin n m e => Fmt.f64.roundScaled n m e

/-- Whether a binary64 pattern is a NaN. -/
def isNaN (x : Nat) : Bool := Fmt.f64.decode x == .nan

/-- A key that orders binary64 patterns other than NaN, with −0 and +0 equal. -/
def f64Key (x : Nat) : Int :=
  let m : Nat := x % 2 ^ 63
  if bitN x 63 then -(m : Int) else m

/-- The signed integer of a finite value at a scale of 2^lo, for lo at most its exponent. -/
def fscaled (neg : Bool) (m : Nat) (e lo : Int) : Int :=
  let v : Int := m * 2 ^ (e - lo).toNat
  if neg then -v else v

/-- The sum of two binary64 patterns, rounded to nearest, ties to even. -/
def f64Add (x y : Nat) : Nat :=
  match Fmt.f64.decode x, Fmt.f64.decode y with
  | .nan, _ | _, .nan => Fmt.f64.nanPat
  | .inf a, .inf b => if a = b then Fmt.f64.infPat a else Fmt.f64.nanPat
  | .inf a, _ | _, .inf a => Fmt.f64.infPat a
  | .fin a m e, .fin b n g =>
    let lo := min e g
    let v := fscaled a m e lo + fscaled b n g lo
    if v = 0 then b2n (a && b) * 2 ^ 63 else Fmt.f64.roundScaled (v < 0) v.natAbs lo

/-! ### Numeric text (R178) -/

/-- Whether a byte is a decimal digit. -/
def isDigit (b : Byte) : Bool := 0x30 ≤ b.toNat && b.toNat ≤ 0x39

/-- The value of a string of digits. -/
def digitsNat (bs : List Byte) : Nat := bs.foldl (fun (a : Nat) b => a * 10 + (b.toNat - 0x30)) 0

/-- Leading spaces dropped. -/
def dropSpaces (bs : List Byte) : List Byte := bs.dropWhile fun b => b == 0x20

/-- Leading and trailing spaces dropped. -/
def trimSpaces (bs : List Byte) : List Byte := (dropSpaces (dropSpaces bs).reverse).reverse

/-- A sign taken from the front: negative, and the rest. -/
def takeSign : List Byte → Bool × List Byte
  | b :: bs => if b = 0x2D then (true, bs) else if b = 0x2B then (false, bs) else (false, b :: bs)
  | [] => (false, [])

/-- Integer text: [sign] digits. -/
def parseInt (bs : List Byte) : Option (Bool × Nat) :=
  let p := takeSign bs
  if p.2 ≠ [] ∧ p.2.all isDigit then some (p.1, digitsNat p.2) else none

/-- Float text: [sign] digits [. digits] [(e or E) [sign] digits], rounded to a format; none where it does not parse or where it
rounds to an infinity, which is out of range for the type. -/
def parseFloat (f : Fmt) (bs : List Byte) : Option Nat :=
  let p := takeSign bs
  let ip := p.2.takeWhile isDigit
  let r1 := p.2.dropWhile isDigit
  let fp := match r1 with
    | b :: bs => if b = 0x2E then some (bs.takeWhile isDigit, bs.dropWhile isDigit) else some ([], b :: bs)
    | [] => some ([], [])
  match fp with
  | none => none
  | some (fr, r2) =>
    let hasDot := r1.head? == some 0x2E
    let ex : Option (Bool × Nat) := match r2 with
      | [] => some (false, 0)
      | b :: bs => if b = 0x65 ∨ b = 0x45 then parseInt bs else none
    if ip = [] ∨ (hasDot ∧ fr = []) then none
    else ex.bind fun x =>
      let m := digitsNat (ip ++ fr)
      let g : Int := (min x.2 1000 : Nat)
      let e : Int := (if x.1 then -g else g) - fr.length
      let v := if 0 ≤ e then f.round p.1 (m * 10 ^ e.toNat) 1 else f.round p.1 m (10 ^ (-e).toNat)
      if f.decode v = .inf p.1 then none else some v

end Sys2Proof.Machine
end

