-- ==== Sys2Proof/Machine/SiftOps.lean ====
section
/-! DEFINITION. Machine/SiftOps.lean: record layouts, framing, field values, sift images, terms and the combiner
(chapter 8, R174 to R186, R466, R469), as functions of bytes alone. -/

namespace Sys2Proof.Machine

open Sys2Proof

/-- The smallest offset whose check fails. -/
def firstFault (checks : List (Nat × Bool)) : Option Nat :=
  (checks.filter fun c => !c.2).foldl (fun m c => match m with
    | none => some c.1
    | some x => some (min x c.1)) none

/-- The byte at an offset. -/
def at1 (b : List Byte) (o : Nat) : Nat := leAt b o 1

/-- Checks that the bytes from `o` for `n` are zero, each at its own offset. -/
def zeroChecks (b : List Byte) (o n : Nat) : List (Nat × Bool) := (List.range n).map fun i => (o + i, at1 b (o + i) == 0)

/-! ### Layouts (Tables 8.1 to 8.3) -/

/-- KIND: 0 FIXED, 1 LP16, 2 LP32, 3 DELIM. -/
def layKind (d : List Byte) : Nat := at1 d 1

/-- NFIELD. -/
def layFields (d : List Byte) : Nat := leAt d 2 2

/-- RECSIZE. -/
def layRec (d : List Byte) : Nat := leAt d 4 4

/-- The bytes of the delimiter. -/
def layDelim (d : List Byte) : List Byte := slice 12 (at1 d 8) d

/-- Whether quoting is in use. -/
def layQuoted (d : List Byte) : Bool := bitN (at1 d 11) 0

/-- TYPE of field `i`. -/
def fldType (d : List Byte) (i : Nat) : Nat := at1 d (32 + 8 * i)

/-- POS of field `i`. -/
def fldPos (d : List Byte) (i : Nat) : Nat := leAt d (36 + 8 * i) 2

/-- LEN of field `i`. -/
def fldLen (d : List Byte) (i : Nat) : Nat := leAt d (38 + 8 * i) 2

/-- The width of a field: LEN for FSTR, 4 for a REF slot (Table 8.3, R174). -/
def fldWidth (d : List Byte) (i : Nat) : Nat :=
  match fldType d i with
  | 1 | 5 => 1
  | 2 | 6 => 2
  | 3 | 7 | 9 | 14 => 4
  | 4 | 8 | 10 | 13 => 8
  | 11 => fldLen d i
  | _ => 0

/-- U8 to U64. -/
def isUnsignedType (t : Nat) : Bool := 1 ≤ t && t ≤ 4

/-- S8 to S64 and TS64. -/
def isSignedType (t : Nat) : Bool := 5 ≤ t && t ≤ 8 || t == 13

/-- F32 and F64. -/
def isFloatType (t : Nat) : Bool := t == 9 || t == 10

/-- FSTR, VSTR and REF. -/
def isStringType (t : Nat) : Bool := t == 11 || t == 12 || t == 14

/-- Numeric or TS64. -/
def isNumType (t : Nat) : Bool := isUnsignedType t || isSignedType t || isFloatType t

/-- The offset of the first faulty byte of a layout descriptor, none for one that R174 accepts. -/
def layoutFault (d : List Byte) : Option Nat :=
  let k := layKind d
  let n := layFields d
  let delim := k == 3
  let len := 32 + 8 * n
  firstFault <| show List (Nat × Bool) from
    [(d.length, d.length == len || len < d.length), (len, d.length ≤ len || !(1 ≤ n && n ≤ 64)),
     (0, at1 d 0 == 1), (1, k ≤ 3), (2, 1 ≤ n && n ≤ 64), (4, 8 ≤ layRec d && layRec d ≤ if k = 0 then 65536 else 16384),
     (8, if delim then 1 ≤ at1 d 8 && at1 d 8 ≤ 4 else at1 d 8 == 0), (9, delim || at1 d 9 == 0),
     (10, delim && layQuoted d || at1 d 10 == 0), (11, if delim then at1 d 11 ≤ 1 else at1 d 11 == 0)] ++
    ((List.range 4).map fun i => (12 + i, delim && i < at1 d 8 || at1 d (12 + i) == 0)) ++ zeroChecks d 17 15 ++
    (if 64 < n then [] else (List.range n).flatMap fun i =>
      let o := 32 + 8 * i
      let t := fldType d i
      [(o, 1 ≤ t && t ≤ 14 && (t != 12 || delim) && !(delim && (t == 11 || t == 14)) && !(t == 14 && k == 0)),
       (o + 1, at1 d (o + 1) ≤ 1 && !(delim && at1 d (o + 1) != 0)), (o + 2, at1 d (o + 2) == 0),
       (o + 3, at1 d (o + 3) == 0), (o + 4, delim || fldPos d i + fldWidth d i ≤ layRec d),
       (o + 6, (t == 11) == (fldLen d i != 0))])

/-- LAYOUT ID (R174). -/
def layoutId (d : List Byte) : Nat := leNat (shake256 d 8)

/-- m of R176: a record of a FIXED layout larger than the grain takes 2^m grains. -/
def largeShift (d : List Byte) (g : Nat) : Nat :=
  ((List.range 20).find? fun m => layRec d ≤ g * 2 ^ m).getD 20

/-- Whether records are larger than the grain (R176). -/
def isLarge (d : List Byte) (g : Nat) : Bool := layKind d == 0 && g < layRec d

/-! ### Framing (R176 to R178) -/

/-- A record framed in a grain. -/
structure Rec where
  off  : Nat
  len  : Nat
  malf : Bool
  deriving DecidableEq, Repr

/-- FIXED: records of a grain (R176). -/
def frameFixed (d : List Byte) (g gidx : Nat) : List Rec :=
  if isLarge d g then (if gidx % 2 ^ largeShift d g = 0 then [⟨0, g, false⟩] else [])
  else (List.range (g / layRec d)).map fun k => ⟨k * layRec d, layRec d, false⟩

/-- LP16 and LP32 (R177), with prefixes of `w` bytes, from position `p`. -/
def frameLp (w rs g : Nat) (b : List Byte) : Nat → Nat → List Rec
  | 0, _ => []
  | fuel + 1, p =>
    let left := g - p
    if left < w then (if leAt b p left = 0 then [] else [⟨p, left, true⟩])
    else
      let x := leAt b p w
      if x = 0 then []
      else if left < w + x then [⟨p, left, true⟩]
      else ⟨p, w + x, rs < w + x⟩ :: frameLp w rs g b fuel (p + w + x)

/-- The bytes from the start of `b` to the end of the first delimiter outside quotes; none when there is no such delimiter. -/
def findDelim (delim : List Byte) (quote : Option Byte) : Bool → Nat → List Byte → Option Nat
  | _, _, [] => none
  | inq, n, b :: bs =>
    if !inq && (b :: bs).take delim.length == delim then some (n + delim.length)
    else findDelim delim quote (if quote == some b then !inq else inq) (n + 1) bs

/-- The quote byte of a layout, when quoting is in use. -/
def layQuote (d : List Byte) : Option Byte := if layQuoted d then some (BitVec.ofNat 8 (at1 d 10)) else none

/-- Text cut into columns at FSEP outside quotes. -/
def splitCols (sep : Byte) (quote : Option Byte) : Bool → List Byte → List Byte → List (List Byte)
  | _, cur, [] => [cur.reverse]
  | inq, cur, b :: bs =>
    if !inq && b == sep then cur.reverse :: splitCols sep quote false [] bs
    else splitCols sep quote (if quote == some b then !inq else inq) (b :: cur) bs

/-- Doubled quotes made single. -/
def undouble (q : Byte) : List Byte → List Byte
  | a :: b :: bs => if a = q ∧ b = q then q :: undouble q bs else a :: undouble q (b :: bs)
  | bs => bs

/-- Text without its enclosing quotes and its doubled quotes (R178, R182). -/
def unquote (quote : Option Byte) (x : List Byte) : List Byte :=
  match quote with
  | none => x
  | some q =>
    let inner := if 2 ≤ x.length ∧ x.head? = some q ∧ x.getLast? = some q then (x.drop 1).dropLast else x
    undouble q inner

/-- A field's value. -/
inductive FldVal where
  | null
  | int (v : Int)
  | flt (bits : Nat)
  | str (b : List Byte)
  deriving DecidableEq, Repr

/-- The bounds of an integer type. -/
def intRange (t : Nat) : Int × Int :=
  match t with
  | 1 => (0, 2 ^ 8 - 1)
  | 2 => (0, 2 ^ 16 - 1)
  | 3 => (0, 2 ^ 32 - 1)
  | 4 => (0, 2 ^ 64 - 1)
  | 5 => (-2 ^ 7, 2 ^ 7 - 1)
  | 6 => (-2 ^ 15, 2 ^ 15 - 1)
  | 7 => (-2 ^ 31, 2 ^ 31 - 1)
  | _ => (-2 ^ 63, 2 ^ 63 - 1)

/-- The value of numeric text (R178); none where it does not parse or is out of range. The 40-character limit counts the text
without the spaces that parsing ignores. -/
def textValue (t : Nat) (x : List Byte) : Option FldVal :=
  let y := trimSpaces x
  if 40 < y.length then none
  else if t = 9 then (parseFloat .f32 y).map fun v => .flt (widen v)
  else if t = 10 then (parseFloat .f64 y).map .flt
  else (parseInt y).bind fun p =>
    let v : Int := if p.1 then -(p.2 : Int) else p.2
    let r := intRange t
    if isUnsignedType t && p.1 || v < r.1 || r.2 < v then none else some (.int v)

/-- The columns of a DELIM record, delimiter included in `rec`. -/
def recCols (d r : List Byte) : List (List Byte) :=
  splitCols (BitVec.ofNat 8 (at1 d 9)) (layQuote d) false [] (r.take (r.length - at1 d 8))

/-- The value of a DELIM column; the outer none marks text that makes the record malformed. -/
def colValue (d : List Byte) (cols : List (List Byte)) (i : Nat) : Option FldVal :=
  match cols[fldPos d i]? with
  | none => some .null
  | some x =>
    if x = [] then some .null
    else if isStringType (fldType d i) then some (.str (unquote (layQuote d) x))
    else
      let q := layQuote d
      let enclosed : Bool := match q with
        | some c => 2 ≤ x.length && x.head? == some c && x.getLast? == some c
        | none => false
      textValue (fldType d i) (if enclosed then unquote q x else x)

/-- Whether a DELIM record has a numeric field that makes it malformed (R178). -/
def colsBad (d r : List Byte) : Bool :=
  let cols := recCols d r
  (List.range (layFields d)).any fun i => (colValue d cols i).isNone

/-- DELIM (R178), from position `p`. -/
def frameDelim (d : List Byte) (g : Nat) (b : List Byte) : Nat → Nat → List Rec
  | 0, _ => []
  | fuel + 1, p =>
    let rest := slice p (g - p) b
    if g ≤ p then []
    else match findDelim (layDelim d) (layQuote d) false 0 rest with
      | none => if leNat rest = 0 then [] else [⟨p, g - p, true⟩]
      | some n =>
        ⟨p, n, layRec d < n || colsBad d (rest.take n)⟩ :: frameDelim d g b fuel (p + n)

/-- The records of a grain of `g` bytes, in order (R176 to R178). -/
def frame (d : List Byte) (g gidx : Nat) (b : List Byte) : List Rec :=
  match layKind d with
  | 0 => frameFixed d g gidx
  | 1 => frameLp 2 (layRec d) g b g 0
  | 2 => frameLp 4 (layRec d) g b g 0
  | _ => frameDelim d g b g 0

/-! ### Field values (R179, R182, R469) -/

/-- Trailing PAD bytes dropped. -/
def stripPad (pad : Byte) (b : List Byte) : List Byte := (b.reverse.dropWhile fun x => x == pad).reverse

/-- The value of field `i` of the record `r` (its bytes, prefix or delimiter included). -/
def fldValue (d r : List Byte) (i : Nat) : FldVal :=
  if layKind d = 3 then (colValue d (recCols d r) i).getD .null
  else
    let t := fldType d i
    let p := fldPos d i
    let w := fldWidth d i
    if r.length < p + w then .null
    else
      let raw := slice p w r
      let v := if bitN (at1 d (33 + 8 * i)) 0 then beNat raw else leNat raw
      if t = 14 then
        let o := leAt r p 2
        let n := leAt r (p + 2) 2
        if n = 0 ∨ r.length < o + n then .null else .str (slice o n r)
      else if t = 11 then .str (stripPad (BitVec.ofNat 8 (at1 d 16)) raw)
      else if t = 9 then .flt (widen v)
      else if t = 10 then .flt v
      else if isSignedType t then .int (if v < 2 ^ (8 * w - 1) then v else (v : Int) - 2 ^ (8 * w))
      else .int v

/-- The 8-byte form of a number: two's complement, or binary64 with −0 as +0 (R182). -/
def num8 (v : Int) : List Byte := leBytes 8 (v % 2 ^ 64).toNat

/-- The bytes that INSET and index keys take of a value in query form (R182, Table 9.3). -/
def queryBytes : FldVal → List Byte
  | .null => []
  | .int v => num8 v
  | .flt x => leBytes 8 (if isNaN x then Fmt.f64.nanPat else if x = 2 ^ 63 then 0 else x)
  | .str b => b

/-- Byte strings compared as unsigned; a string that begins the other is the lesser (R182). -/
def bytesLt : List Byte → List Byte → Bool
  | _, [] => false
  | [], _ :: _ => true
  | a :: as, b :: bs => a.toNat < b.toNat || (a == b && bytesLt as bs)

/-- Whether `x` begins with `p`. -/
def hasHead (p x : List Byte) : Bool := x.take p.length == p

/-- Whether `p` occurs in `x`. -/
def hasPart (p : List Byte) : List Byte → Bool
  | [] => p == []
  | b :: bs => hasHead p (b :: bs) || hasPart p bs

/-! ### Images (Tables 8.4 to 8.6) -/

/-- MODE. -/
def imgMode (m : List Byte) : Nat := at1 m 1

/-- NTERM. -/
def imgTerms (m : List Byte) : Nat := at1 m 2

/-- NPROD. -/
def imgProds (m : List Byte) : Nat := at1 m 3

/-- FLAGS.MALFORM is ESCALATE. -/
def imgMalform (m : List Byte) : Bool := bitN (at1 m 6) 0

/-- OUTF: the fields that PROJECT or AGG names. -/
def imgOut (m : List Byte) : List Nat := ((slice 16 16 m).map fun b => b.toNat).filter fun x => x != 0xFF

/-- The offset of term `k`. -/
def termAt (m : List Byte) (k : Nat) : Nat := 32 + 4 * imgProds m + 24 * k

/-- Whether an operator suits a field type (Table 8.6). -/
def opSuits (op t : Nat) : Bool :=
  if op = 7 then isNumType t else if op = 8 ∨ op = 9 then isStringType t else true

/-- The offset of the first faulty byte of a sift image, none for one that R181 accepts. `lay` is the layout it was written for,
where one is known; `sets` the installed set slots; `sachet` whether the session has a sachet slot. -/
def imageFault (m : List Byte) (lay : Option (List Byte)) (sets : List Nat) (sachet : Bool) : Option Nat :=
  let mode := imgMode m
  let nt := imgTerms m
  let np := imgProds m
  let d := lay.getD []
  let nf := layFields d
  let cap := if mode = 2 then 16 else if mode = 5 then 4 else 0
  let outs := imgOut m
  let ok := nt ≤ 16 && np ≤ 8
  firstFault <| show List (Nat × Bool) from
    [(m.length, decide (32 ≤ m.length)), (0, at1 m 0 == 1), (1, 1 ≤ mode && mode ≤ 7 && (mode != 7 || sachet)), (2, nt ≤ 16),
     (3, 1 ≤ np && np ≤ 8), (4, leAt m 4 2 == 32 + 4 * np + 24 * nt && leAt m 4 2 == m.length),
     (6, at1 m 6 ≤ 1 && (at1 m 6 == 0 || sachet)), (7, if mode = 6 then decide (at1 m 7 ≤ 16) else at1 m 7 == 0),
     (8, lay.isSome), (16, cap == 0 || outs != [])] ++
    ((List.range 16).map fun i =>
      let v := at1 m (16 + i)
      (16 + i, v == 0xFF || (i < cap && ((List.range i).all fun j => at1 m (16 + j) != 0xFF) && (lay.isNone || v < nf) &&
        (mode != 5 || lay.isNone || isNumType (fldType d v))))) ++
    (if !ok then [] else
      ((List.range np).flatMap fun i =>
        let req := leAt m (32 + 4 * i) 2
        let inv := leAt m (34 + 4 * i) 2
        [(32 + 4 * i, decide (req < 2 ^ nt)), (34 + 4 * i, decide (inv < 2 ^ nt) && (req &&& inv) == 0)]) ++
      ((List.range nt).flatMap fun k =>
        let o := termAt m k
        let op := at1 m o
        let f := at1 m (o + 1)
        let t := fldType d f
        let strop := isStringType t && op != 10
        let used := if strop then at1 m (o + 3) else if op = 10 then 0 else if op = 7 then 16 else 8
        [(o, decide (1 ≤ op ∧ op ≤ 10) && (lay.isNone || nf ≤ f || opSuits op t)), (o + 1, lay.isNone || f < nf),
         (o + 2, at1 m (o + 2) ≤ 1 && (at1 m (o + 2) == 0 || sachet)),
         (o + 3, lay.isNone || (if strop then 1 ≤ at1 m (o + 3) && at1 m (o + 3) ≤ 16 else at1 m (o + 3) == 0)),
         (o + 4, if op = 10 then sets.contains (at1 m (o + 4)) else at1 m (o + 4) == 0)] ++
        zeroChecks m (o + 5) 3 ++ (if lay.isNone then [] else zeroChecks m (o + 8 + used) (16 - used))))

/-- The set slots that an image names. -/
def imgSets (m : List Byte) : List Nat :=
  ((List.range (imgTerms m)).filter fun k => at1 m (termAt m k) == 10).map fun k => at1 m (termAt m k + 4)

/-- Whether an image uses the sachet: ESCALATE mode, MALFORM = ESCALATE or a DEFER term (R181, R185). -/
def imgEscalates (m : List Byte) : Bool :=
  imgMode m == 7 || at1 m 6 == 1 || (List.range (imgTerms m)).any fun k => at1 m (termAt m k + 2) == 1

/-- The field numbers that an image tests, projects or aggregates. -/
def imgFields (m : List Byte) : List Nat := imgOut m ++ (List.range (imgTerms m)).map fun k => at1 m (termAt m k + 1)

/-! ### Evaluation (R182 to R184) -/

/-- Whether a set filter holds a value's bytes (R182). -/
def inSet (probes : Nat) (filter v : List Byte) : Bool :=
  let h1 := (crc32c v).toNat
  let h2 := (h1 / 4096 % 4096) ||| 1
  (List.range probes).all fun i =>
    let b := (h1 + i * h2) % 4096
    bitN (at1 filter (b / 8)) (b % 8)

/-- A comparison decided from less and equal. -/
def cmpOp (op : Nat) (lt eq : Bool) : Bool :=
  match op with
  | 1 => eq
  | 2 => !eq
  | 3 => lt
  | 4 => lt || eq
  | 5 => !(lt || eq)
  | 6 => !lt
  | _ => false

/-- A constant of an integer field. -/
def intConst (signed : Bool) (x : Nat) : Int := if signed && 2 ^ 63 ≤ x then (x : Int) - 2 ^ 64 else x

/-- The test of a term on a value (R182). -/
def termTest (d m : List Byte) (sets : List (Nat × Nat × List Byte)) (k : Nat) (v : FldVal) : Bool :=
  let o := termAt m k
  let op := at1 m o
  let a := leAt m (o + 8) 8
  let b := leAt m (o + 16) 8
  let inset := match sets.find? fun x => x.1 == at1 m (o + 4) with
    | some x => inSet x.2.1 x.2.2 (queryBytes v)
    | none => false
  match v with
  | .null => false
  | .int x =>
    let sg := isSignedType (fldType d (at1 m (o + 1)))
    let ca := intConst sg a
    if op = 10 then inset
    else if op = 7 then ca ≤ x && x ≤ intConst sg b
    else cmpOp op (x < ca) (x == ca)
  | .flt x =>
    if isNaN x then op == 2
    else if op = 10 then inset
    else if op = 7 then !isNaN a && !isNaN b && f64Key a ≤ f64Key x && f64Key x ≤ f64Key b
    else if isNaN a then op == 2
    else cmpOp op (f64Key x < f64Key a) (f64Key x == f64Key a)
  | .str x =>
    let c := slice (o + 8) (at1 m (o + 3)) m
    if op = 10 then inset
    else if op = 8 then hasHead c x
    else if op = 9 then hasPart c x
    else cmpOp op (bytesLt x c) (x == c)

/-- The combiner over the values of the terms (R183). -/
def combine (m : List Byte) (ts : List Bool) : Bool :=
  (List.range (imgProds m)).any fun i =>
    let req := leAt m (32 + 4 * i) 2
    let inv := leAt m (34 + 4 * i) 2
    (List.range 16).all fun k => (!bitN req k || ts.getD k false) && (!bitN inv k || !ts.getD k false)

/-- What the pipeline finds for a record. -/
inductive Verdict where
  | drop | pass | malf | undecided
  deriving DecidableEq, Repr

/-- A record evaluated (R179, R183, R184). -/
def judgeRecord (d m : List Byte) (sets : List (Nat × Nat × List Byte)) (r : Rec) (b : List Byte) : Verdict :=
  if r.malf then .malf
  else
    let x := slice r.off r.len b
    let tests := (List.range (imgTerms m)).map fun k => (termTest d m sets k (fldValue d x (at1 m (termAt m k + 1))),
      bitN (at1 m (termAt m k + 2)) 0)
    let hi := combine m (tests.map fun t => t.1)
    let lo := combine m (tests.map fun t => t.1 && !t.2)
    if hi = lo then (if hi then .pass else .drop) else .undecided

/-! ### Output (R186, R466) -/

/-- The little-endian bytes of a projected value, for a field of width `w`. -/
def projFixed (d r : List Byte) (i : Nat) : List Byte :=
  let w := fldWidth d i
  match fldValue d r i with
  | .null => zeros w
  | v =>
    if layKind d = 3 then
      match v with
      | .int x => leBytes w (x % 2 ^ (8 * w)).toNat
      | .flt x => if fldType d i = 9 then (match Fmt.f64.decode x with
          | .nan => leBytes 4 Fmt.f32.nanPat
          | .inf n => leBytes 4 (Fmt.f32.infPat n)
          | .fin n y e => leBytes 4 (Fmt.f32.roundScaled n y e)) else leBytes 8 x
      | _ => zeros w
    else
      let raw := slice (fldPos d i) w r
      if fldType d i ≠ 11 ∧ bitN (at1 d (33 + 8 * i)) 0 then raw.reverse else raw

/-- NULLS: bit i set when projected field i is null. -/
def projNulls (d m r : List Byte) : List Byte :=
  leBytes 2 (sumOf ((List.range (imgOut m).length).map fun k =>
    if fldValue d r ((imgOut m).getD k 0) = .null then 2 ^ k else 0))

/-- The bytes of a string value, empty for null. -/
def strOf : FldVal → List Byte
  | .str b => b
  | _ => []

/-- Whether a projected field is of variable length: VSTR or REF. -/
def isVar (d : List Byte) (i : Nat) : Bool := fldType d i == 12 || fldType d i == 14

/-- The PROJECT value of a record (R186). -/
def projOut (d m r : List Byte) : List Byte :=
  projNulls d m r ++ (imgOut m).flatMap fun i =>
    if isVar d i then
      let x := strOf (fldValue d r i)
      leBytes 2 x.length ++ x
    else projFixed d r i

/-- Whether a PROJECT image has a derived layout with strings (R466). -/
def derivedVar (d m : List Byte) : Bool := (imgOut m).any (isVar d)

/-- The fixed part of a derived record: NULLS and each field at its width, 4 for a string's slot (R466). -/
def derivedFixed (d m : List Byte) : Nat := 2 + sumOf ((imgOut m).map fun i => if isVar d i then 4 else fldWidth d i)

/-- The derived layout of a PROJECT image for a target grain of `g` bytes (R466). -/
def derivedLayout (d m : List Byte) (g : Nat) : List Byte :=
  let var := derivedVar d m
  let p0 := if var then 4 else 0
  let size := if var then g else max 8 (derivedFixed d m)
  let fld (t pos len : Nat) : List Byte := leBytes 1 t ++ zeros 3 ++ leBytes 2 pos ++ leBytes 2 len
  let body := (imgOut m).foldl (fun (p : List Byte × Nat) i =>
    let t := if isVar d i then 14 else fldType d i
    (p.1 ++ fld t p.2 (if t = 11 then fldLen d i else 0), p.2 + (if isVar d i then 4 else fldWidth d i)))
    (fld 2 p0 0, p0 + 2)
  leBytes 1 1 ++ leBytes 1 (if var then 2 else 0) ++ leBytes 2 ((imgOut m).length + 1) ++ leBytes 4 size ++ zeros 8 ++
    leBytes 1 (at1 d 16) ++ zeros 15 ++ body.1

/-- A projected record in the form of its derived layout (R466). -/
def derivedRecord (d m r : List Byte) : List Byte :=
  if derivedVar d m then
    let base := 4 + derivedFixed d m
    let p := (imgOut m).foldl (fun (p : List Byte × List Byte) i =>
      if isVar d i then
        let x := strOf (fldValue d r i)
        let slot := if fldValue d r i = .null then 0 else base + p.2.length + x.length * 65536
        (p.1 ++ leBytes 4 slot, p.2 ++ x)
      else (p.1 ++ projFixed d r i, p.2)) (projNulls d m r, [])
    leBytes 4 (p.1.length + p.2.length) ++ p.1 ++ p.2
  else fit (max 8 (derivedFixed d m)) (projOut d m r)

/-- Whether SAMPLE selects a record by its place (R186). -/
def sampleHit (m : List Byte) (nsid gidx ridx : Nat) : Bool :=
  (crc32c (leBytes 4 nsid ++ leBytes 8 gidx ++ leBytes 4 ridx)).toNat % 2 ^ at1 m 7 == 0

/-! ### Aggregates (R186, R188) -/

/-- A value added to an aggregate. -/
def Agg.add (a : Agg) : FldVal → Agg
  | .int v => { a with count := a.count + 1, seen := true, mn := if a.seen then min a.mn v else v,
                       mx := if a.seen then max a.mx v else v, sum := a.sum + v }
  | .flt x =>
    let s := if a.count = 0 then (if isNaN x then Fmt.f64.nanPat else x) else f64Add a.fsum x
    if isNaN x then { a with count := a.count + 1, fsum := s }
    else { a with count := a.count + 1, seen := true, fsum := s,
                  fmn := if a.seen && f64Key a.fmn ≤ f64Key x then a.fmn else x,
                  fmx := if a.seen && f64Key x ≤ f64Key a.fmx then a.fmx else x }
  | _ => a

/-- The 40 bytes of an aggregate in the END block (Table 8.8). -/
def Agg.bytes (a : Agg) (float : Bool) : List Byte :=
  if a.count = 0 then zeros 40
  else if float then
    let nan := Fmt.f64.nanPat
    leBytes 8 (if a.seen then a.fmn else nan) ++ leBytes 8 (if a.seen then a.fmx else nan) ++ leBytes 8 a.fsum ++ zeros 8 ++
      leBytes 8 a.count
  else leBytes 8 (a.mn % 2 ^ 64).toNat ++ leBytes 8 (a.mx % 2 ^ 64).toNat ++ leBytes 16 (a.sum % 2 ^ 128).toNat ++
    leBytes 8 a.count

end Sys2Proof.Machine
end

