-- ==== Sys2Proof/Machine/IdxOps.lean ====
section
/-! DEFINITION. Machine/IdxOps.lean: index keys, tuples, the sort area and the run directory of a tile (chapter 9, R197 to
R205, R214). -/

namespace Sys2Proof.Machine

open Sys2Proof

/-- SHAKE128. -/
def shake128 (m : List Byte) (n : Nat) : List Byte := sponge 168 0x1F m n

/-- The declaration of a namespace's index (Table 9.1). -/
def State.indexDecl (s : State) (nsid : Nat) : Option (List Byte) :=
  (s.cfg.body.indexes.find? fun x => x.nsid == nsid).map fun x => x.decl

/-- The descriptor of the layout attached to a namespace (R175). -/
def State.nsLayout (s : State) (nsid : Nat) : Option (List Byte) :=
  (s.cfg.body.layouts.find? fun x => x.1 == nsid).map fun x => x.2

/-- KIND of a declaration is HASH. -/
def declHash (d : List Byte) : Bool := at1 d 4 == 1

/-- The field numbers of a declaration. -/
def declFields (d : List Byte) : List Nat := (List.range (min 4 (at1 d 5))).map fun i => at1 d (8 + i)

/-- The stored form of a binary64 query value (Table 9.3). -/
def storedFloat (x : Nat) : List Byte := beBytes 8 (if bitN x 63 then 2 ^ 64 - 1 - x else x + 2 ^ 63)

/-- The stored form of a query-form key of a field type (Table 9.3); type 0 stands for a HASH key. -/
def storedOf (t : Nat) (q : List Byte) : List Byte :=
  if isStringType t then q
  else if isFloatType t then storedFloat (leNat q)
  else if isSignedType t then beBytes 8 ((leNat q + 2 ^ 63) % 2 ^ 64)
  else beBytes 8 (leNat q)

/-- The query form of a stored key (Table 9.7). -/
def queryOf (t : Nat) (k : List Byte) : List Byte :=
  let x := beNat (k.take 8)
  if isStringType t then k
  else if isFloatType t then leBytes 8 (if bitN x 63 then x - 2 ^ 63 else 2 ^ 64 - 1 - x)
  else if isSignedType t then leBytes 8 ((x + 2 ^ 63) % 2 ^ 64)
  else leBytes 8 x

/-- The field type that a FIELD declaration keys, 0 for HASH. -/
def declType (decl lay : List Byte) : Nat := if declHash decl then 0 else fldType lay (at1 decl 8)

/-- The 64-bit hash of a HASH key (R198). -/
def hashKey (decl lay r : List Byte) : Nat :=
  leNat (shake128 ((declFields decl).flatMap fun i =>
    match fldValue lay r i with
    | .null => leBytes 2 0xFFFF
    | v => leBytes 2 (queryBytes v).length ++ queryBytes v) 8)

/-- The stored key of a record and whether it was truncated; none for a record that gives no tuple (R197 to R199). -/
def recordKey (decl lay r : List Byte) : Option (List Byte × Bool) :=
  if declHash decl then some (beBytes 8 (hashKey decl lay r), false)
  else
    let i := at1 decl 8
    match fldValue lay r i with
    | .null => none
    | .str b => if b = [] then none else some (b.take 32, decide (32 < b.length))
    | v => some (storedOf (fldType lay i) (queryBytes v), false)

/-- What a grain gives the index: its tuples, records without a key and malformed records (R199, R200). -/
def tuplesOf (decl lay : List Byte) (g gidx gen : Nat) (b : List Byte) : List Tuple × Nat × Nat :=
  let rs := frame lay g gidx b
  let each := (List.range rs.length).map fun i =>
    match rs[i]? with
    | none => (none, false)
    | some r =>
      if r.malf then (none, true)
      else match recordKey decl lay (slice r.off r.len b) with
        | none => (none, false)
        | some k => (some (⟨fit 32 k.1, k.1.length, k.2, gen, i, r.off, gidx⟩ : Tuple), false)
  (each.filterMap fun e => e.1, (each.filter fun e => e.1.isNone && !e.2).length, (each.filter fun e => e.2).length)

/-- KEY[0:KLEN] of a tuple. -/
def Tuple.real (x : Tuple) : List Byte := x.key.take x.klen

/-- The order of tuples: key, GIDX, RIDX, GEN (chapter 9). -/
def Tuple.lt (a b : Tuple) : Bool :=
  bytesLt a.real b.real || (a.real == b.real &&
    (a.gidx < b.gidx || (a.gidx == b.gidx && (a.ridx < b.ridx || (a.ridx == b.ridx && a.gen < b.gen)))))

/-- The 64 bytes of a tuple (Table 9.4). -/
def Tuple.bytes (x : Tuple) : List Byte :=
  let b := fit 32 x.key ++ leBytes 1 x.klen ++ leBytes 1 (b2n x.trunc) ++ leBytes 1 x.gen ++ leBytes 1 0 ++ leBytes 2 x.ridx ++
    leBytes 2 x.roff ++ leBytes 8 x.gidx ++ zeros 12
  b ++ leBytes 4 (crc32c b).toNat

/-- A tuple read from its 64 bytes; none when its CRC fails. -/
def Tuple.ofBytes (b : List Byte) : Option Tuple :=
  if leAt b 60 4 = (crc32c (slice 0 60 b)).toNat then
    some ⟨slice 0 32 b, at1 b 32, bitN (at1 b 33) 0, at1 b 34, leAt b 36 2, leAt b 38 2, leAt b 40 8⟩
  else none

/-- GEN of a grain as R92 resolves it, when it is STORED: staging first (R204). -/
def Ftl.genOf (f : Ftl) (k : GKey) : Option Nat :=
  let mine := f.staged.filter fun x => x.key == k && x.commit
  match mine.getLast? with
  | some x => match x.kind with
    | .data _ => some (((f.entry k).gen + mine.length) % 256)
    | .zero _ => none
  | none => if (f.entry k).state = .stored then some (f.entry k).gen else none

/-- Whether a tuple of a namespace is live on its tile (R204). -/
def State.tupleLive (s : State) (t nsx : Nat) (x : Tuple) : Bool :=
  let p := grainPlace s.n (nsx + 1) x.gidx
  p.1 == t && (s.tileAt t).ftl.genOf ⟨nsx, p.2⟩ == some x.gen

/-- Fence entries in use: one for each tuple block (R203, FENCEUSE). -/
def IdxSide.fences (x : IdxSide) : Nat := sumOf (x.runs.map fun r => ceilDiv r.tuples.length 1024)

/-- SORTCNT, FENCEUSE and STAT brought up to date (Table 9.10). FULL is set when the entries and the two halves would pass the limit
(R214). -/
def State.idxStat (s : State) (t : Nat) : State :=
  let x := (s.tileAt t).idx
  let b : Block := .idx t
  let need := x.fences + ceilDiv x.half0.length 1024 + ceilDiv x.half1.length 1024
  let full := 57344 < need
  let cnt := if x.second then x.half1.length else x.half0.length
  let st := if x.regen != [] then 2 else b2n (bitN (s.rd b 0) 0)
  let s1 := s.onTileAt t fun y => { y with idx := { y.idx with full := full } }
  let s2 := ((s1.wr b 0x00C (cnt + (if x.second then 16384 else 0))).wr b 0x010 x.fences).wr b 0x004
    (st + (if x.running.isSome then 4 else 0) + (if full then 8 else 0))
  if full && !x.full then s2.flag b 0x028 1 else s2

/-- The engine that serves a tile's index work: its own, or the stand-in of a retired one (R420). -/
def State.idxUp (s : State) (t : Nat) : Bool := s.hasTile t && (s.tileAt t).idx.retired.isNone

/-- Tuples of a grain counted (R199). -/
def State.countTuples (s : State) (t : Nat) (r : List Tuple × Nat × Nat) : State :=
  let b : Block := .idx t
  (((s.count b 0x080 r.1.length).count b 0x084 r.2.1).count b 0x088 r.2.2).count b 0x08C
    (r.1.filter fun x => x.trunc).length

/-- When a write commits a grain of an indexed namespace, the builder frames it and forms its tuples (R200). They stand beside the
sort area until an EXTRACT job takes them. -/
def State.indexGrain (s : State) (t nsx lg : Nat) (bytes : List Byte) : State :=
  match s.nsOf (nsx + 1), s.indexDecl (nsx + 1), s.nsLayout (nsx + 1) with
  | some ns, some decl, some lay =>
    let gen := ((s.tileAt t).ftl.genOf ⟨nsx, lg⟩).getD 0
    let r := tuplesOf decl lay ns.grain (grainAt s.n (nsx + 1) t lg) gen (bytes.take ns.grain)
    (s.countTuples t r).onTileAt t fun x =>
      { x with idx := { x.idx with fresh := x.idx.fresh ++ r.1.map fun y => (nsx, y) } }
  | _, _, _ => s

/-- The tuples of a namespace that the sort area and the staged grains of a tile hold. -/
def IdxSide.loose (x : IdxSide) (nsx : Nat) : List Tuple :=
  ((x.half0 ++ x.half1 ++ x.fresh).filter fun p => p.1 == nsx).map fun p => p.2

/-- Every live tuple of a namespace on a tile, in order, without duplicates (R204, R207). -/
def State.liveTuples (s : State) (t nsx : Nat) : List Tuple :=
  let x := (s.tileAt t).idx
  let all := (x.runs.filter fun r => r.nsx == nsx).flatMap (fun r => r.tuples) ++ x.loose nsx
  sortBy Tuple.lt ((all.filter (s.tupleLive t nsx)).eraseDups)

/-- Blocks of the membership filter of a run (R203). -/
def filterBlocks (count : Nat) : Nat := ceilDiv (count * 10) 512

/-- The size of a run image. -/
def runBytes (count : Nat) : Nat :=
  4096 + ceilDiv count 1024 * 65536 + ceilDiv (ceilDiv count 1024 * 16) 4096 * 4096 + filterBlocks count * 64

/-- The pages of a run placed in META (R112, R203). -/
def State.placeRun (s : State) (t num count : Nat) : State :=
  let units := ceilDiv (runBytes count) 256
  (List.range (ceilDiv units 64)).foldl (fun (s : State) i => s.placeMeta t (3, num, i) (min 64 (units - 64 * i))) s

/-- A batch or run added to the directory with its IRUN ADD record, and its pages (R205). -/
def State.addRun (s : State) (t nsx level : Nat) (ts : List Tuple) : State :=
  if ts = [] then s
  else
    let num := (s.tileAt t).idx.nextRun
    (s.onTileAt t fun x => { x with
      idx := { x.idx with runs := x.idx.runs ++ [⟨num, nsx, level, ts⟩], nextRun := num + 1 }
      ftl := x.ftl.append s.pinNsx (.irun 1 nsx num level) }).placeRun t num ts.length

/-- Runs taken from the directory with their IRUN REMOVE records, and their pages let go (R205). -/
def State.dropRuns (s : State) (t : Nat) (p : Run → Bool) : State :=
  s.onTileAt t fun x => { x with
    idx := { x.idx with runs := x.idx.runs.filter fun r => !p r }
    ftl :=
      let f := (x.idx.runs.filter p).foldl (fun (f : Ftl) r => f.append s.pinNsx (.irun 2 r.nsx r.num r.level)) x.ftl
      { f with metaPages := f.metaPages.filter fun m => !(m.id.1 == 3 && x.idx.runs.any fun r => p r && r.num == m.id.2.1) } }

/-- The loose tuples of a tile that a batch may take now: those whose grain has its MAP record, which are the ones that staging
does not hold (R201). -/
def State.batchable (s : State) (t : Nat) (p : Nat × Tuple) : Bool :=
  let g := grainPlace s.n (p.1 + 1) p.2.gidx
  !((s.tileAt t).ftl.staged.any fun x => x.key == ⟨p.1, g.2⟩ && x.commit)

/-- Loose tuples that `p` selects sorted into one batch for each namespace (R201). -/
def State.writeBatches (s : State) (t : Nat) (p : Nat × Tuple → Bool) : State :=
  let x := (s.tileAt t).idx
  let take := (x.half0 ++ x.half1 ++ x.fresh).filter p
  let s1 := (take.map fun y => y.1).eraseDups.foldl (fun (s : State) nsx =>
    s.addRun t nsx 15 (sortBy Tuple.lt ((take.filter fun y => y.1 == nsx).map fun y => y.2))) s
  (s1.onTileAt t fun y => { y with idx := { y.idx with
    half0 := y.idx.half0.filter fun z => !p z
    half1 := y.idx.half1.filter fun z => !p z
    fresh := y.idx.fresh.filter fun z => !p z } }).idxStat t

/-- Runs merged into one run of a level, stale tuples and duplicates dropped, the output durable before the sources are removed
(R202, R205). -/
def State.mergeRuns (s : State) (t nsx level : Nat) (p : Run → Bool) : State :=
  let src := (s.tileAt t).idx.runs.filter p
  let all := src.flatMap fun r => r.tuples
  let live := sortBy Tuple.lt ((all.filter (s.tupleLive t nsx)).eraseDups)
  let nums := src.map fun r => r.num
  let s1 := (s.addRun t nsx level live).dropRuns t fun r => nums.contains r.num
  (((s1.count (.idx t) 0x090 (all.length - live.length)).count (.idx t) 0x094 1)).idxStat t

/-- The first and last key of a run. -/
def Run.span (r : Run) : List Byte × List Byte :=
  ((r.tuples.head?.map Tuple.real).getD [], (r.tuples.getLast?.map Tuple.real).getD [])

/-- Whether the keys of two runs overlap. -/
def Run.overlaps (a b : Run) : Bool := !(bytesLt a.span.2 b.span.1) && !(bytesLt b.span.2 a.span.1)

/-- The closed superblock with the fewest valid charged bytes, whether or not collection skips it for the pages of a run (R128,
R134). -/
def Ftl.runVictim (f : Ftl) : Option Superblock :=
  firstBy (fun a b => f.validBytes a.sbn < f.validBytes b.sbn ||
      (f.validBytes a.sbn == f.validBytes b.sbn && a.closeSeq < b.closeSeq))
    (f.sbs.filter fun b => b.closed && !b.released && !f.keptIn b.sbn)

/-- The merge that a victim of collection asks of a run (R134, R202): a batch with the other batches of its namespace, a run below L7
with the overlapping runs of the next level, a run at L7 alone. -/
def State.mergeVictim (s : State) (t nsx : Nat) : Option (Nat × List Run) :=
  let x := s.tileAt t
  if !x.ftl.collecting then none
  else x.ftl.runVictim.bind fun b =>
    let mine := x.idx.runs.filter fun r => r.nsx == nsx
    (mine.find? fun r => x.ftl.metaPages.any fun m => m.sbn == b.sbn && m.id.1 == 3 && m.id.2.1 == r.num).map fun r =>
      if r.level = 15 then (0, mine.filter fun y => y.level == 15)
      else if r.level = 7 then (7, [r])
      else (r.level + 1, r :: mine.filter fun y => y.level == r.level + 1 && r.overlaps y)

/-- The merge that R202 makes due for a namespace on a tile, if one is: its level and its sources. MERGETH of the fence entries
merges from L0 upward even below 8 runs (R214). -/
def State.mergeDue (s : State) (t nsx : Nat) : Option (Nat × List Run) :=
  let x := (s.tileAt t).idx
  let lv (k : Nat) := x.runs.filter fun r => r.nsx == nsx && r.level == k
  let above := (s.eff (.idx t) 0x018) % 128 * 65536 < x.fences * 100
  if 128 ≤ (lv 15).length then some (0, lv 15)
  else match (List.range 8).find? fun k => 8 ≤ (lv k).length || (above && k < 7 && 2 ≤ (lv k).length) with
    | some k => some (min 7 (k + 1), lv k)
    | none => s.mergeVictim t nsx

end Sys2Proof.Machine
end

