-- ==== Sys2Proof/Machine/MirrorOps.lean ====
section
/-! DEFINITION. Machine/MirrorOps.lean: what the write path and the rein share: the state of a mirrored namespace, frames and their
transmitter, and the forwarding and local commit of a mirrored change (chapter 19). -/

namespace Sys2Proof.Machine

open Sys2Proof

/-! ### Mirrored namespaces (R397, R403, R411) -/

/-- The mirror definition of a namespace. -/
def State.mirrorDef (s : State) (nsid : Nat) : Option MirrorDef := s.cfg.body.mirrors.find? fun m => m.nsid == nsid

/-- The run-time state of a mirrored namespace. -/
def State.mirrNs (s : State) (nsid : Nat) : MirrNs := (s.mirror.ns.find? fun x => x.nsid == nsid).getD { nsid := nsid }

/-- The state with that of a mirrored namespace changed. -/
def State.onMirrNs (s : State) (nsid : Nat) (f : MirrNs → MirrNs) : State :=
  { s with mirror := { s.mirror with ns := s.mirror.ns.filter (fun x => x.nsid != nsid) ++ [f (s.mirrNs nsid)] } }

/-- The state with the rein changed. -/
def State.onRein (s : State) (f : Rein → Rein) : State := { s with mirror := { s.mirror with rein := f s.mirror.rein } }

/-- The history of a namespace (R411). -/
def State.mirrHist (s : State) (nsid : Nat) : MirrHist :=
  ((s.tileAt 0).ftl.mirr.find? fun h => h.nsid == nsid).getD { nsid := nsid }

/-- TERM of the newest term. -/
def State.mirrTerm (s : State) (nsid : Nat) : Nat := (((s.mirrHist nsid).terms.getLast?).map fun t => t.term).getD 0

/-- LINK of REIN.STAT (Table 19.10). -/
def State.link (s : State) : Nat := s.rdField .rein 0x004 2 0

/-- The link carries mirrored changes: paired, or retraining after it was (R403, R407). -/
def State.pairedLink (s : State) : Bool := s.link == 3 || (s.link == 1 && s.mirror.rein.retrain == some 3)

/-- Whether the peer is unavailable to a namespace (R403). -/
def State.peerAway (s : State) (nsid : Nat) : Bool :=
  !s.pairedLink || s.mirror.rein.silent || (s.mirrNs nsid).split != 0

/-- STATE of NS_STATE (Table 19.1). -/
def State.mirrStateOf (s : State) (nsid : Nat) : Nat :=
  let x := s.mirrNs nsid
  if x.split ≠ 0 then 3
  else if s.peerAway nsid then 2
  else if x.full then 4
  else if x.backlog.any (fun b => x.peerMseq < b.2) || x.resends != [] then 1
  else 0

/-- The states of the mirrored namespaces brought up to date; vendor event 03h for each that changes (R403). -/
def State.mirrRefresh (s : State) : State :=
  s.cfg.body.mirrors.foldl (fun (s : State) m =>
    let st := s.mirrStateOf m.nsid
    if (s.mirrNs m.nsid).state = st then s
    else (s.onMirrNs m.nsid fun x => { x with state := st }).raise 7 3 0xC3) s

/-- The check of a change to a namespace: the secondary and the read-only side of a split end it with 20h, and STRICT with the peer
unavailable with C6h (R397, R414, Table 19.3). -/
def State.mirrGate (s : State) (nsid : Nat) : NvmeStatus :=
  match s.mirrorDef nsid with
  | none => .success
  | some m =>
    if !m.primary || (s.mirrNs nsid).split == 2 then .writeProtected
    else if m.policy == 0 && s.peerAway nsid then .peerUnavailable
    else .success

/-! ### The transmitter (R405, R409, R410, Tables 19.4 to 19.6) -/

/-- Whether the staging of some tile is full: its share of 8 MiB is taken (R16, R410). -/
def State.stagingFull (s : State) : Bool :=
  8388608 ≤ sumOf (s.mirror.pend.map fun p => p.data.length) ||
    s.tiles.toList.any fun x => 8388608 ≤ sumOf (x.ftl.staged.map fun g => match g.kind with
      | .data b => b.length
      | .zero _ => 0)

/-- A frame put on the lanes. It carries ACK, EPOCH and HOLD. -/
def State.reinEmit (s : State) (type flags seq : Nat) (payload : List Byte) : State :=
  let hold := s.stagingFull
  let f : RFrame := ⟨type, flags + (if hold then 4 else 0), seq, s.rd .rein 0x018, s.rd .rein 0x00C, payload⟩
  ((s.onRein fun r => { r with wire := r.wire ++ [f] }).count .rein 0x040 1).wrField .rein 0x004 17 17 (b2n hold)

/-- A frame without a sequence number: NAK or PING. Its SEQ is the next one to be sent; a NAK names the frame wanted. -/
def State.reinUnseq (s : State) (type seq : Nat) (payload : List Byte) : State := s.reinEmit type 2 seq payload

/-- NAK for the frame expected (R407). -/
def State.reinNak (s : State) : State := (s.reinUnseq 0x0A (s.rd .rein 0x018) []).count .rein 0x04C 1

/-- PING with the monotonic time (R409); it carries the ACK. -/
def State.reinPing (s : State) : State := s.reinUnseq 0x0B (s.rd .rein 0x010) (leBytes 8 (s.now - s.boot.since))

/-- The requester that sends next (R409): the first entry of each index asks; an index in the middle of a change keeps the other
data index out. -/
def Rein.pick (r : Rein) : Option (Nat × Nat × List Byte) :=
  let first (i : Nat) : Option (Nat × Nat × List Byte) := r.queue.find? fun e => e.1 == i
  let mid (i : Nat) : Bool := ((first i).map fun e => e.2.1 == 2).getD false
  let asks (i : Nat) : Bool := (first i).isSome && !(i == 1 && mid 2) && !(i == 2 && mid 1)
  (rotate 3 r.ptr asks).bind first

/-- Sequenced frames sent while the link is up, fewer than 256 are unacknowledged and no rate step holds them back (R405, R410). -/
def State.reinPumpN (s : State) : Nat → State
  | 0 => s
  | fuel + 1 =>
    let r := s.mirror.rein
    if (s.link != 2 && s.link != 3) || 256 ≤ r.unacked.length || (r.step.map fun x => x.phase == 1).getD false then s
    else match r.pick with
      | none => s
      | some e =>
        let seq := s.rd .rein 0x010
        let s1 := (s.reinEmit e.2.1 0 seq e.2.2).wr .rein 0x010 ((seq + 1) % 2 ^ 32)
        let fr := s1.mirror.rein.wire.getLast?.toList
        (s1.onRein fun r => { r with queue := r.queue.erase e, unacked := r.unacked ++ fr, ptr := (e.1 + 1) % 3 }).reinPumpN fuel

/-- The transmitter run until nothing more can be sent. -/
def State.reinPump (s : State) : State := s.reinPumpN 256

/-- A sequenced frame offered to the transmitter by a requester. -/
def State.reinSend (s : State) (idx type : Nat) (payload : List Byte) : State :=
  (s.onRein fun r => { r with queue := r.queue ++ [(idx, type, payload)] }).reinPump

/-- WHDR and the DATA frames of one range of a change (Table 19.6). -/
def changeFrames (idx nsid mseq term : Nat) (fua : Bool) (p : MirrPart) : List (Nat × Nat × List Byte) :=
  let hdr := leBytes 8 mseq ++ leBytes 4 term ++ leBytes 4 nsid ++ leBytes 8 p.slba ++ leBytes 4 p.nlb ++ leBytes 1 p.op ++
    leBytes 1 (b2n fua) ++ zeros 2 ++ leBytes 4 p.data.length ++ zeros 28
  (idx, 1, hdr) :: (List.range (ceilDiv p.data.length 8192)).map fun i => (idx, 2, (p.data.drop (8192 * i)).take 8192)

/-- The frames of a forwarded change offered to the transmitter. -/
def State.sendChange (s : State) (o : MirrOut) : State :=
  let fs := (List.range o.parts.length).flatMap fun i => match o.parts[i]? with
    | some p => changeFrames 1 o.nsid (o.lo + i) o.term o.fua p
    | none => []
  (s.onRein fun r => { r with queue := r.queue ++ fs }).reinPump

/-! ### Changes of the primary (R400, R401, R411, R413) -/

/-- Staged changes of a tile past their commit point: Write Zeroes and deallocate enter the journal at once, as one ZRANGE record
each, and leave the staging buffer (R62, R85, R468). -/
def Ftl.settleZero (pin : Option Nat) (f : Ftl) : Ftl :=
  (f.staged.filter fun g => g.commit && (match g.kind with | .zero _ => true | _ => false)).foldl (fun f g =>
    match g.kind with
    | .zero st => { (f.commit pin (.zrange g.group g.key st 1)) with staged := f.staged.erase g }
    | .data _ => f) f

/-- The tuples of every grain that a command changed in an indexed namespace (R200). -/
def State.indexAll (s : State) (gs : List (Nat × Staged)) : State :=
  gs.foldl (fun (s : State) p =>
    match p.2.kind with
    | .data b => s.indexGrain p.1 p.2.key.nsx p.2.key.lg b
    | .zero _ => s) s

/-- A MIRR record in T0's journal (R411, Table 19.8). -/
def State.mirrRecord (s : State) (event group nsid term mseq : Nat) (uid : List Byte) : State :=
  s.onTileAt 0 fun x => { x with ftl := x.ftl.commit s.pinNsx (.mirr event group (nsid - 1) term mseq uid) }

/-- A new term of this unit as primary that starts at an MSEQ (R402, R411). -/
def State.newTerm (s : State) (nsid mseq : Nat) : State :=
  s.mirrRecord 2 0 nsid (s.mirrTerm nsid + 1) mseq s.fuses.uid

/-- The staged changes of a group that has not committed, by tile. -/
def State.groupStaged (s : State) (g : Nat) : List (Nat × Staged) :=
  s.tileIds.flatMap fun t => ((s.tileAt t).ftl.staged.filter fun y => y.group == g && !y.commit).map fun y => (t, y)

/-- A mirrored change committed on this unit (R66, R411): every staged grain of its group, GCOMMIT on T0, then one MIRR CHANGE for
each MSEQ that it took. -/
def State.commitGroup (s : State) (nsid g term lo hi : Nat) : State :=
  let gs := s.groupStaged g
  let tiles := (gs.map fun p => p.1).eraseDups
  let cnt (t : Nat) : Nat := (gs.filter fun p => p.1 == t).length
  let a := tiles.headD 0
  let b := (tiles.drop 1).headD a
  let s1 := s.onTileAt 0 fun x =>
    { x with ftl := x.ftl.commit s.pinNsx (.gcommit g a (cnt a) b (if b = a then 0 else cnt b)) }
  let s2 := (List.range (hi + 1 - lo)).foldl (fun (s : State) i => s.mirrRecord 1 g nsid term (lo + i) []) s1
  let mark (y : Staged) : Staged := if y.group == g then { y with commit := true } else y
  let s3 : State := { s2 with tiles := s2.tiles.map fun x =>
    { x with ftl := Ftl.settleZero s.pinNsx { x.ftl with staged := x.ftl.staged.map mark } } }
  (s3.indexAll gs).onMirrNs nsid fun x => { x with applied := x.applied ++ [(hi, g)] }

/-- The spans of a namespace that a range touches. -/
def spansOf (ns : Namespace) (slba nlb : Nat) : List Nat :=
  let span := ns.grain * 512
  let lo := slba * ns.blockSize / span
  let hi := (slba + nlb) * ns.blockSize
  if nlb = 0 then [] else (List.range ((hi - 1) / span + 1 - lo)).map fun i => lo + i

/-- A change recorded in the backlog (R413). A full ring makes every span due. -/
def State.backlogAdd (s : State) (nsid mseq : Nat) (ps : List MirrPart) : State :=
  match s.nsOf nsid with
  | none => s
  | some ns =>
    let spans := (ps.flatMap fun p => spansOf ns p.slba p.nlb).eraseDups
    let s1 := s.onMirrNs nsid fun x =>
      let due (sp : Nat) : Bool := (x.backlog.filter fun b => b.1 == sp).all fun b => b.2 ≤ x.peerDur
      { x with backlog := x.backlog ++ (spans.filter due).map fun sp => (sp, mseq) }
    let all := s1.mirror.ns.flatMap fun x => x.backlog.map fun b => owner s.n x.nsid b.1
    if s.tileIds.any fun t => 4194304 < (all.filter fun u => u == t).length then
      s1.onMirrNs nsid fun x => { x with full := true, backlog := [] }
    else s1

/-- A change of a mirrored namespace that this unit has staged under a group, as primary: forwarded when the peer is there, and
otherwise, under LOOSE, committed here and recorded in the backlog (R401, Table 19.3). The flag tells whether the change now waits
for the peer. -/
def State.mirrChange (s : State) (nsid g : Nat) (who : MirrWho) (fua : Bool) (parts : List MirrPart) : Bool × State :=
  let lo := (s.mirrNs nsid).sent + 1
  let hi := (s.mirrNs nsid).sent + parts.length
  let term := s.mirrTerm nsid
  let s1 := s.onMirrNs nsid fun x => { x with sent := hi }
  if s.peerAway nsid then (false, ((s1.commitGroup nsid g term lo hi).backlogAdd nsid hi parts).mirrRefresh)
  else
    let o : MirrOut := { nsid := nsid, term := term, lo := lo, hi := hi, group := g, who := who, fua := fua, parts := parts }
    let s2 : State := { s1 with mirror := { s1.mirror with out := s1.mirror.out ++ [o] } }
    (true, s2.sendChange o)

/-- Whether some change for `who` still waits for the peer. -/
def State.mirrWaits (s : State) (who : MirrWho) : Bool :=
  s.mirror.out.any (fun o => o.who == who) || s.mirror.voids.any fun v => v.who == who

/-- Whether a Flush of a mirrored namespace still waits for the peer's durability (R401): outside Protected mode, while the peer is
there, every change applied must be reported durable by it. -/
def State.mirrFlushWaits (s : State) (nsid : Nat) : Bool :=
  match s.mirrorDef nsid with
  | some m => m.primary && !s.peerAway nsid && (s.mirrNs nsid).peerDur < (s.mirrHist nsid).mseq
  | none => false

end Sys2Proof.Machine
end

