-- ==== Sys2Proof/Machine/NvmeIo.lean ====
section
/-! DEFINITION. Machine/NvmeIo.lean: queues, fetching, tracking and the NVM I/O commands (chapter 3). -/

namespace Sys2Proof

open Machine (bitN)

/-- The first logical block of a standard command. -/
def Sqe.slba (e : Sqe) : Nat := e.cdw10.toNat + e.cdw11.toNat * 2 ^ 32

/-- The number of logical blocks of a standard command. -/
def Sqe.nlb (e : Sqe) : Nat := e.cdw12.toNat % 65536 + 1

/-- Whether the device makes and strips the protection information itself (PRACT). -/
def Sqe.pract (e : Sqe) : Bool := bitN e.cdw12.toNat 29

end Sys2Proof

namespace Sys2Proof.Machine

open Sys2Proof

/-! ### Epoch tags and the mode -/

/-- The epoch with which island `i` tags new operations: the pending one once the island has adopted it (R46, R47). -/
def State.islandEpoch (s : State) (i : Nat) : BitVec 16 :=
  if s.cinch.pending && s.cinch.mask.getLsbD i then s.cinch.pend else s.cinch.cur

/-- Whether the device runs in Protected mode: MODE_STAT.PROT (R369). -/
def State.protected_ (s : State) : Bool := bitN (s.rd .glb 0x20C) 0

/-! ### Tracks -/

/-- The track of a command. -/
def State.track (s : State) (k : CmdKey) : Option Track := s.host.tracks.find? fun t => t.key == k

/-- The state without a track. -/
def State.untrack (s : State) (k : CmdKey) : State :=
  { s with host := { s.host with tracks := s.host.tracks.filter fun t => t.key != k } }

/-- The state with a track changed. -/
def State.onTrack (s : State) (k : CmdKey) (f : Track → Track) : State :=
  { s with host := { s.host with tracks := s.host.tracks.map fun t => if t.key == k then f t else t } }

/-- RETAINED cleared once no tracked operation carries the old epoch (R48). -/
def State.releaseEpoch (s : State) : State :=
  if s.cinch.retained && !s.cinch.pending && s.host.tracks.all (fun t => t.epoch == s.cinch.cur)
  then { s with cinch := { s.cinch with retained := false } } else s

/-- The single completion of a tracked command (R18, R75). -/
def State.finish (s : State) (c : Cqe) : State :=
  let s1 := match s.track c.key with
    | some t => s.vendorDone t
    | none => s
  ((s1.untrack c.key).cqPost c).releaseEpoch

/-- A tracked command ended with a status and nothing else. -/
def State.fail (s : State) (k : CmdKey) (st : NvmeStatus) : State := s.finish (Cqe.of k st)

/-- A meaning that applies only to a tracked command of one opcode. -/
def State.withTrack (s : State) (k : CmdKey) (opc : Byte) (f : Track → State) : State :=
  match s.track k with
  | some t => if t.sqe.opc = opc then f t else s
  | none => s

/-! ### Doorbells and fetching (R26, R59, R60, R85) -/

/-- The submission queue of a controller. -/
def Controller.sq (c : Controller) (q : Nat) : Option SubQueue := c.sqs.find? fun x => x.qid == q

/-- DOORBELL_WRITE: doorbell `index` is the tail of submission queue index/2 when even, the head of completion queue index/2 when
odd (CAP.DSTRD 0). A doorbell of a queue that has not been created is ignored and raises Invalid Doorbell Write (R26). Doorbells
are ignored until CSTS.RDY (R392). -/
def execDoorbellWrite (f : FnId) (index : Fin 8192) (value : BitVec 16) (s : State) : Out :=
  s.ends (match s.host.ctrl f with
    | none => s
    | some c =>
      let q := index.val / 2
      if !c.rdy then s
      else if index.val % 2 = 0 then
        match c.sq q with
        | none => s.raiseOn f 0 0 1
        | some x =>
          if x.size ≤ value.toNat then s.raiseOn f 0 1 1
          else
            let set (y : SubQueue) : SubQueue := if y.qid = q then { y with tail := value.toNat } else y
            s.onCtrl f fun c => { c with sqs := c.sqs.map set }
      else
        match c.cqs.find? fun y => y.qid == q with
        | none => s.raiseOn f 0 0 1
        | some x =>
          if x.size ≤ value.toNat then s.raiseOn f 0 1 1
          else
            let set (y : ComQueue) : ComQueue := if y.qid = q then { y with head := value.toNat } else y
            s.onCtrl f fun c => { c with cqs := c.cqs.map set })

/-- The cap on tracking entries of a function: MAXTRACK of FUNC_SET, FFFFh for none (R60, Table 10.3). -/
def State.trackCap (s : State) (f : FnId) : Nat :=
  match s.funcDef f with
  | some b => if leAt b 10 2 = 0xFFFF then 65536 else leAt b 10 2
  | none => 65536

/-- Whether a candidate may be fetched: its controller is ready on this port, its queue has a new entry, and the function is below
its cap (R59, R60). -/
def State.fetchable (s : State) (port : Nat) (x : FetchCand) : Bool :=
  match s.host.ctrl x.key.fn with
  | none => false
  | some c =>
    c.fn.port.val == port && c.rdy && c.online && x.key.sq != 0 &&
    (match c.sq x.key.sq with | some q => q.head != q.tail | none => false) &&
    (s.host.tracks.filter fun t => t.key.fn == x.key.fn).length < s.trackCap x.key.fn &&
    (s.track x.key).isNone

/-- The I/O commands of the device (Table 3.1): Flush, Write, Read, Compare, Write Zeroes, Dataset Management and the five vendor
commands. -/
def ioOpcodes : List Nat := [0x00, 0x01, 0x02, 0x05, 0x08, 0x09, 0x82, 0x86, 0x8A, 0x8C, 0x8F]

/-! ### Checks on standard commands -/

/-- The disagreements of Table 3.10 for a standard command of `len` data bytes and `md` metadata bytes. -/
def dataPtrStatus (d : DataPtr) (len md : Nat) : NvmeStatus :=
  if d.sgl then
    if d.len < len || d.metaLen < md then .dataSglLengthInvalid
    else if d.transferError then .dataTransferError else .success
  else if d.prpOffsetBad then .invalidPrpOffset
  else if d.transferError then .dataTransferError
  else .success

/-- The namespace of an I/O command when it is attached to the controller, and the status of a command that fails its checks:
namespace, range, readiness, media key (R61, R388, R342). -/
def State.nsCheck (s : State) (f : FnId) (nsid slba nlb : Nat) : NvmeStatus × Option Namespace :=
  match s.nsOf nsid with
  | none => (.invalidNamespace, none)
  | some ns =>
    if !ns.attached.contains f then (.invalidNamespace, none)
    else if ns.blocks < slba + nlb then (.lbaOutOfRange, none)
    else if !(s.nsRun nsid).ready then (.notReady, none)
    else if (s.nsRun nsid).keyLost then (.keyLost, none)
    else (.success, some ns)

/-- MDTS: 2 MiB for standard commands (Table 3.3). -/
def mdtsBytes : Nat := 2097152

/-! ### Reading -/

/-- What a read of one grain gives, with the lookups that it makes (R19, R90, R92); a grain that neither the ladder nor RAIN recovers
becomes LOST (R86, R119). -/
def State.readGrain (s : State) (ns : Namespace) (g : Nat) (env : MediaEnv) : GrainRead × State :=
  let p := grainPlace s.n ns.nsid g
  let k : GKey := ⟨ns.nsx, p.2⟩
  let f0 := (s.tileAt p.1).ftl
  let bad := env.bad.contains (p.1, ns.nsx, p.2)
  let s1 := if (f0.visible k).isNone && (f0.overOf k).isNone then s.lookupLeaf p.1 ns.nsx p.2 env.maps env.tamper env.poison else s
  let f := (s1.tileAt p.1).ftl
  let stored := (f.visible k).isNone && (f.entry k).state == .stored
  let s2 := if bad && stored then s1.loseGrain p.1 k else s1
  (f.read ns.keyTag k (bad && stored), s2)

/-- Logical blocks read: the data and metadata of each, or that some block is lost. -/
def State.readBlocks (s : State) (ns : Namespace) (env : MediaEnv) :
    Nat → Nat → (Option (List Byte × List Byte) × State)
  | _, 0 => (some ([], []), s)
  | lba, n + 1 =>
    let g := lba / ns.perGrain
    let i := lba % ns.perGrain
    let r := s.readGrain ns g env
    let blk : Option (List Byte × List Byte) := match r.1 with
      | .zeros => some (zeros ns.blockSize, zeros ns.mdSize)
      | .data b => some (slice (i * ns.blockSize) ns.blockSize b, slice (ns.grain + i * ns.mdSize) ns.mdSize b)
      | .lost => none
    let rest := r.2.readBlocks ns env (lba + 1) n
    (match blk, rest.1 with
      | some (d, m), some (ds, ms) => some (d ++ ds, m ++ ms)
      | _, _ => none, rest.2)

/-- The protection information of a block (Type 1, 16-bit guard): guard, application tag, reference tag, big-endian. -/
def piOf (data : List Byte) (app lba : Nat) : List Byte :=
  beBytes 2 (guard16 data).toNat ++ beBytes 2 app ++ beBytes 4 (lba % 2 ^ 32)

/-- PRCHK of CDW12 applied to the blocks of a command: the first failure. An application tag of FFFFh escapes the checks (Type 1,
NVM Command Set). -/
def piCheck (ns : Namespace) (e : Sqe) (data md : List Byte) : NvmeStatus :=
  if ns.mdSize = 0 then .success
  else
    let chk := e.cdw12.toNat / 2 ^ 26 % 8
    let mask := e.cdw15.toNat / 65536
    let app := e.cdw15.toNat % 65536
    (List.range (md.length / 8)).foldl (fun st i =>
      if st ≠ .success then st
      else
        let p := slice (8 * i) 8 md
        let a := beNat (slice 2 2 p)
        if a = 0xFFFF then .success
        else if bitN chk 2 && beNat (slice 0 2 p) != (guard16 (slice (i * ns.blockSize) ns.blockSize data)).toNat then
          .guardCheck
        else if bitN chk 1 && a &&& mask != app &&& mask then .appTagCheck
        else if bitN chk 0 && beNat (slice 4 4 p) != (e.cdw14.toNat + i) % 2 ^ 32 then .refTagCheck
        else .success) .success

/-- The metadata bytes that a command moves to or from the host. -/
def mdMoved (ns : Namespace) (e : Sqe) : Nat := if e.pract then 0 else e.nlb * ns.mdSize

/-- The checks of a standard read or write before its data move: FUSE, length, range, readiness, key, data pointer. -/
def State.ioCheck (s : State) (t : Track) : NvmeStatus × Option Namespace :=
  let e := t.sqe
  if e.fuse ≠ 0 then (.invalidField, none)
  else
    let c := s.nsCheck t.key.fn e.nsid.toNat e.slba e.nlb
    match c.2 with
    | none => c
    | some ns =>
      if mdtsBytes < e.nlb * ns.blockSize then (.invalidField, none)
      else match dataPtrStatus e.dptr (e.nlb * ns.blockSize) (mdMoved ns e) with
        | .success => (.success, some ns)
        | st => (st, none)

/-- READ (R19): the logical data of the blocks; Unrecovered Read Error when a block is lost; protection information checked. -/
def execRead (k : CmdKey) (env : MediaEnv) (s : State) : Out :=
  s.ends (s.withTrack k 0x02 fun t =>
    match s.ioCheck t with
    | (_, some ns) =>
      let r := s.readBlocks ns env t.sqe.slba t.sqe.nlb
      match r.1 with
      | none => r.2.fail k .unrecoveredRead
      | some (d, m) =>
        match piCheck ns t.sqe d m with
        | .success => r.2.finish { Cqe.of k .success 0 0 d with md := if t.sqe.pract then [] else m }
        | st => r.2.fail k st
    | (st, none) => s.fail k st)

/-- COMPARE: the blocks read and compared with the host's data. -/
def execCompare (k : CmdKey) (env : MediaEnv) (s : State) : Out :=
  s.ends (s.withTrack k 0x05 fun t =>
    match s.ioCheck t with
    | (_, some ns) =>
      let r := s.readBlocks ns env t.sqe.slba t.sqe.nlb
      match r.1 with
      | none => r.2.fail k .unrecoveredRead
      | some (d, m) =>
        match piCheck ns t.sqe d m with
        | .success => r.2.fail k (if d = fit d.length t.sqe.data then .success else .compareFailure)
        | st => r.2.fail k st
    | (st, none) => s.fail k st)

/-! ### Writing -/

/-- The fragments of a logical byte range: one for each leaf span that it meets (R17). -/
def fragsOf (n : Nat) (ns : Namespace) (start : Nat) : Nat → Nat → List Frag
  | 0, _ => []
  | _, 0 => []
  | fuel + 1, len =>
    let span := ns.grain * 512
    let sp := start / span
    let here := min len ((sp + 1) * span - start)
    ⟨owner n ns.nsid sp, start, here, 0, .success⟩ :: fragsOf n ns (start + here) fuel (len - here)

/-- Groups that hold records or staged changes anywhere (R103). -/
def State.groupsInUse (s : State) : List Nat :=
  (s.tiles.toList.flatMap fun x => x.ftl.groupsLive ++ (x.ftl.staged.map fun g => g.group)) ++
    s.host.tracks.map fun t => t.group

/-- A free group number from 1 to 16,383 (R103). -/
def State.freeGroup (s : State) : Option Nat :=
  ((List.range 16383).map (· + 1)).find? fun g => !s.groupsInUse.contains g

/-- Whether a write must be durable in flash before it completes: FUA, or the volatile cache disabled in Unprotected mode
(R62, R64). -/
def State.writeThrough (s : State) (t : Track) : Bool :=
  bitN t.sqe.cdw12.toNat 30 ||
    (!s.protected_ && !((s.host.ctrl t.key.fn).map fun c => c.feat.vwc).getD true)

/-- Whether fragments commit as one group: they lie on two tiles and cover at most 2 MiB (R66). Those of a longer change each lie on
one tile and commit on their own (R65, R66). -/
def groupedFrags (fr : List Frag) : Bool :=
  (fr.map fun f => f.tile).eraseDups.length == 2 && sumOf (fr.map fun f => f.bytes) ≤ 2097152

/-- A write-like command that has passed its checks: its fragments are sent to their tiles, with a group number when they commit as a
group (R17, R66). -/
def State.startFrags (s : State) (k : CmdKey) (fr : List Frag) : State :=
  if fr = [] then s.fail k .success
  else
    let g := if groupedFrags fr then (s.freeGroup).getD 0 else 0
    s.onTrack k fun t => { t with started := true, frags := fr, group := g }

/-- The checks on anything that writes: configuration loss (R382), the read-only end (R78) and the mirror (R397, R403, R414). -/
def State.writeGate (s : State) (nsid : Nat) : NvmeStatus :=
  if s.cfg.loss then .operationDenied else if s.boot.readOnly then .writeProtected else s.mirrGate nsid

/-- WRITE: checked, cut at leaf-span boundaries and sent to the owning tiles (R17, R62, R66). Protection information that the host
supplies is checked first. -/
def execWrite (k : CmdKey) (s : State) : Out :=
  s.ends (s.withTrack k 0x01 fun t =>
    if t.started then s
    else match s.writeGate t.sqe.nsid.toNat with
      | .success =>
        match s.ioCheck t with
        | (_, some ns) =>
          let e := t.sqe
          match (if e.pract then NvmeStatus.success else piCheck ns e (fit (e.nlb * ns.blockSize) e.data) (fit (mdMoved ns e) e.md)) with
          | .success => s.startFrags k (fragsOf s.n ns (e.slba * ns.blockSize) 4 (e.nlb * ns.blockSize))
          | st => s.fail k st
        | (st, none) => s.fail k st
      | st => s.fail k st)

/-- WRITE_ZEROES (R62, R468). -/
def execWriteZeroes (k : CmdKey) (s : State) : Out :=
  s.ends (s.withTrack k 0x08 fun t =>
    if t.started then s
    else match s.writeGate t.sqe.nsid.toNat with
      | .success =>
        let e := t.sqe
        let c := s.nsCheck t.key.fn e.nsid.toNat e.slba e.nlb
        match c.2 with
        | some ns => s.startFrags k (fragsOf s.n ns (e.slba * ns.blockSize) (e.nlb + 2) (e.nlb * ns.blockSize))
        | none => s.fail k c.1
      | st => s.fail k st)

/-- The ranges of a Dataset Management command: first block and blocks of each. -/
def dsmRanges (e : Sqe) : List (Nat × Nat) :=
  (List.range (e.cdw10.toNat % 256 + 1)).map fun i => (leAt e.data (16 * i + 8) 8, leAt e.data (16 * i + 4) 4)

/-- DATASET_MANAGEMENT: with AD, every range is deallocated (R62, R468); without it nothing changes. -/
def execDatasetManagement (k : CmdKey) (s : State) : Out :=
  s.ends (s.withTrack k 0x09 fun t =>
    if t.started then s
    else match s.writeGate t.sqe.nsid.toNat with
      | .success =>
        let e := t.sqe
        let rs := dsmRanges e
        let c := s.nsCheck t.key.fn e.nsid.toNat 0 0
        match c.2 with
        | none => s.fail k c.1
        | some ns =>
          if rs.any (fun r => ns.blocks < r.1 + r.2) then s.fail k .lbaOutOfRange
          else match dataPtrStatus e.dptr (16 * rs.length) 0 with
            | .success =>
              if !bitN e.cdw11.toNat 2 then s.fail k .success
              else s.startFrags k (rs.flatMap fun r => fragsOf s.n ns (r.1 * ns.blockSize) (r.2 + 2) (r.2 * ns.blockSize))
            | st => s.fail k st
      | st => s.fail k st)

/-- The grains of a fragment. -/
def grainsOf (ns : Namespace) (f : Frag) : List Nat :=
  if f.bytes = 0 then [] else
  (List.range ((f.start + f.bytes - 1) / ns.grain + 1 - f.start / ns.grain)).map fun i => f.start / ns.grain + i

/-- The staged change of one grain by a command (R62, R86, R468): none where the command changes nothing of it. `first` is the
logical byte at which the command's data begin. A partly covered grain is rewritten over its old content, and its other blocks
take zeroes where that content is lost. -/
def State.stageOf (s : State) (ns : Namespace) (t : Track) (first : Nat) (f : Frag) (g : Nat) : Option StageKind :=
  let p := grainPlace s.n ns.nsid g
  let key : GKey := ⟨ns.nsx, p.2⟩
  let lo := max f.start (g * ns.grain)
  let hi := min (f.start + f.bytes) ((g + 1) * ns.grain)
  let whole := hi - lo == ns.grain
  let e := t.sqe
  let old := (s.tileAt p.1).ftl.read ns.keyTag key false
  let oldBytes := match old with
    | .data b => fit ns.grainFull b
    | _ => zeros ns.grainFull
  let at_ := lo - g * ns.grain
  let nb := (hi - lo) / ns.blockSize
  let b0 := at_ / ns.blockSize
  if e.opc = 0x01 then
    let data := slice (lo - first) (hi - lo) e.data
    let lba0 := lo / ns.blockSize
    let md := if ns.mdSize = 0 then []
      else if e.pract then (List.range nb).flatMap fun i =>
        piOf (slice (i * ns.blockSize) ns.blockSize data) (e.cdw15.toNat % 65536) (e.cdw14.toNat + lba0 + i - e.slba)
      else slice ((lo - first) / ns.blockSize * 8) (nb * 8) e.md
    some (.data (patch (patch oldBytes at_ data) (ns.grain + b0 * ns.mdSize) md))
  else
    let st : GState := if e.opc = 0x08 && !bitN e.cdw12.toNat 25 then .zeroed else .unmapped
    if whole then some (.zero st)
    else match old with
      | .zeros => none
      | _ => some (.data (patch (patch oldBytes at_ (zeros (hi - lo))) (ns.grain + b0 * ns.mdSize) (zeros (nb * ns.mdSize))))

/-- The staged changes that a command made. -/
def Staged.ofCmd (k : CmdKey) (g : Staged) : Bool := g.cmd == some k && !g.commit

/-- The staged changes of a command that has not reached its commit point, discarded (Table 3.9). -/
def State.discard (s : State) (k : CmdKey) : State :=
  { s with tiles := s.tiles.map fun x =>
      { x with ftl := { x.ftl with staged := x.ftl.staged.filter fun g => !g.ofCmd k } } }

/-- Change records that a tile's staged fragment of a command makes (R66, R100). -/
def Ftl.fragCount (f : Ftl) (k : CmdKey) : Nat := (f.staged.filter fun g => g.ofCmd k).length

/-- The staged changes that a command is about to commit, by tile. -/
def State.uncommitted (s : State) (k : CmdKey) : List (Nat × Staged) :=
  s.tileIds.flatMap fun t => ((s.tileAt t).ftl.staged.filter fun g => g.ofCmd k).map fun g => (t, g)

/-- The commit point of a write (Table 3.9, R66): every fragment staged, and for a group the group commit record in T0's journal.
Abort no longer reaches it. -/
def State.commitWrite (s : State) (k : CmdKey) (t : Track) : State :=
  let s1 := match groupedFrags t.frags, (t.frags.map fun f => f.tile).eraseDups with
    | true, [a, b] =>
      let rec0 : JRec := .gcommit t.group a ((s.tileAt a).ftl.fragCount k) b ((s.tileAt b).ftl.fragCount k)
      s.onTileAt 0 fun x => { x with ftl := x.ftl.commit s.pinNsx rec0 }
    | _, _ => s
  let mark (g : Staged) : Staged := if g.ofCmd k then { g with commit := true, group := t.group } else g
  let upd (x : Tile) : Tile := { x with ftl := Ftl.settleZero s.pinNsx { x.ftl with staged := x.ftl.staged.map mark } }
  let s2 : State := { s1 with tiles := s1.tiles.map upd }
  (s2.indexAll (s.uncommitted k)).onTrack k fun x => { x with committed := true }

/-- The ranges of a write, Write Zeroes or deallocate as a mirrored change (Table 19.6). The data of a format with metadata are
followed by the metadata. -/
def partsOf (ns : Namespace) (t : Track) : List MirrPart :=
  let e := t.sqe
  if e.opc = 0x09 then (dsmRanges e).map fun r => ⟨3, r.1, r.2, []⟩
  else if e.opc = 0x08 then [⟨if bitN e.cdw12.toNat 25 then 3 else 2, e.slba, e.nlb, []⟩]
  else
    let data := fit (e.nlb * ns.blockSize) e.data
    let md := if ns.mdSize = 0 then []
      else if e.pract then (List.range e.nlb).flatMap fun i =>
        piOf (slice (i * ns.blockSize) ns.blockSize data) (e.cdw15.toNat % 65536) (e.cdw14.toNat + i)
      else fit (e.nlb * 8) e.md
    [⟨1, e.slba, e.nlb, data ++ md⟩]

/-- A staged write of a mirrored namespace, as primary: always under a group (R411), forwarded, and committed when MACK STAGED
arrives (R401). -/
def State.forwardWrite (s : State) (k : CmdKey) (t : Track) : State :=
  match s.nsOf t.sqe.nsid.toNat, (if t.group = 0 then s.freeGroup else some t.group) with
  | some ns, some g =>
    let mark (x : Staged) : Staged := if x.ofCmd k then { x with group := g } else x
    let s1 : State := { s with tiles := s.tiles.map fun x => { x with ftl := { x.ftl with staged := x.ftl.staged.map mark } } }
    let s2 := s1.onTrack k fun x => { x with group := g }
    match s2.mirrChange ns.nsid g (.cmd k) (bitN t.sqe.cdw12.toNat 30) (partsOf ns t) with
    | (true, s3) => s3.onTrack k fun x => { x with mseq := some (s3.mirrNs ns.nsid).sent }
    | (false, s3) => s3.onTrack k fun x => { x with committed := true }
  | _, _ => s

/-- The end of a write whose fragments have all been judged: a refusal of one fails the whole (R78); otherwise the write commits
once it holds a group number where it needs one (R66, R103). -/
def State.judged (s : State) (k : CmdKey) : State :=
  match s.track k with
  | none => s
  | some t =>
    if t.frags.any (fun f => f.phase == 0) then s
    else if t.frags.any (fun f => f.phase == 2) then s.discard k
    else if t.committed || t.mseq.isSome then s
    else if (s.mirrorDef t.sqe.nsid.toNat).isSome then s.forwardWrite k t
    else if groupedFrags t.frags && t.group == 0 then
      match s.freeGroup with
      | none => s
      | some g => (s.onTrack k fun x => { x with group := g }).commitWrite k { t with group := g }
    else s.commitWrite k t

/-- FRAGMENT_STAGED: a fragment reaches its owning tile, is judged for space and staged (R62, R78, R136). Map changes wait while
the overlay is full (R102). -/
def execFragmentStaged (k : CmdKey) (t : TileId) (s : State) : Out :=
  s.ends (match s.track k with
    | none => s
    | some tr =>
      match tr.frags.find? fun f => f.tile == t.val && f.phase == 0 with
      | none => s
      | some f =>
        match s.nsOf tr.sqe.nsid.toNat with
        | none => s
        | some ns =>
          if (s.tileAt t).ftl.full then s
          else
            let first := tr.sqe.slba * ns.blockSize
            let changes := (grainsOf ns f).filterMap fun g => (s.stageOf ns tr first f g).map fun kd =>
              (⟨⟨ns.nsx, (grainPlace s.n ns.nsid g).2⟩, kd, some k, tr.group, tr.epoch.toNat, false, none⟩ : Staged)
            let units := sumOf (changes.map fun g => g.units)
            let ok := (tr.sqe.opc != 0x01 || s.judge t ns.nsid units (changes.map fun g => g.key)) &&
              !((s.tileAt t).idx.full && (s.indexDecl ns.nsid).isSome)
            let set (x : Frag) : Frag := if x == f then { x with phase := if ok then 1 else 2,
                                                                   stat := if ok then .success else .capacityExceeded } else x
            let s1 := s.onTrack k fun x => { x with frags := x.frags.map set }
            let s2 := if ok then s1.onTile t fun x => { x with ftl := { x.ftl with staged := x.ftl.staged ++ changes } }
              else s1
            s2.judged k)

/-- Whether everything that a write staged is in flash and its journal records are programmed (R62). -/
def State.durable (s : State) (k : CmdKey) : Bool :=
  s.tiles.toList.all fun x => !(x.ftl.staged.any fun g => g.cmd == some k)

/-- Filler for a Write with FUA or a Flush (R115), and the journal tail programmed. -/
def State.pushOut (s : State) (t : Nat) (busy : Ftl → Bool) : State :=
  (s.onTileAt t fun x =>
    if busy x.ftl then
      { x with ftl := { x.ftl with sbs := x.ftl.sbs.map fun b => if b.closed then b else b.fillMember } }
    else { x with ftl := x.ftl.sync }).reportGroups

/-- FRAGMENT_COMPLETE: a fragment finishes on its tile; when it is the last, the package steward posts the one completion, whose
status is the first failure in the order of logical addresses (R18, R62). A fragment of a write completes only at its commit
point, and of a write with FUA only when it is durable; until then this changes nothing but the filler of R115. -/
def execFragmentComplete (k : CmdKey) (t : TileId) (stat : NvmeStatus) (s : State) : Out :=
  s.ends (match s.track k with
    | none => s
    | some tr =>
      match tr.frags.find? fun f => f.tile == t.val && f.phase != 3 with
      | none => s
      | some f =>
        if f.phase = 0 && stat == .success then s
        else if f.phase = 1 && stat == .success && !tr.committed && !tr.frags.any (fun f => f.phase == 2) then s
        else if tr.mseq.isSome || s.mirrWaits (.cmd k) then s
        else if tr.committed && s.writeThrough tr && !s.durable k then
          s.pushOut t fun x => x.staged.any fun g => g.cmd == some k
        else
          let st := if tr.committed then (if f.phase = 2 then f.stat else .success)
            else if f.stat != .success then f.stat else stat
          let set (x : Frag) : Frag := if x == f then { x with phase := 3, stat := st } else x
          let frs := tr.frags.map set
          let s1 := if tr.committed && s.writeThrough tr then s.pushOut t fun _ => false else s
          let s2 := if tr.committed then s1 else s1.discard k
          if frs.all fun f => f.phase == 3 then
            let first := (sortBy (fun (a b : Frag) => a.start < b.start) frs).find? fun f => f.stat != .success
            s2.fail k ((first.map fun f => f.stat).getD .success)
          else s2.onTrack k fun x => { x with frags := frs })

/-- FLUSH (R63): at once in Protected mode. In Unprotected mode it waits until every committed write of the namespace, or of all
namespaces for NSID FFFF_FFFFh, is programmed and journalled; each attempt places the filler of R115. -/
def execFlush (k : CmdKey) (s : State) : Out :=
  s.ends (s.withTrack k 0x00 fun t =>
    let all := t.sqe.nsid == 0xFFFFFFFF
    let c := s.nsCheck t.key.fn t.sqe.nsid.toNat 0 0
    if !all && c.2.isNone then s.fail k c.1
    else if s.protected_ then s.fail k .success
    else
      let mine (g : Staged) : Bool := g.commit && (all || g.key.nsx + 1 == t.sqe.nsid.toNat)
      if s.cfg.body.mirrors.any fun m => (all || m.nsid == t.sqe.nsid.toNat) && s.mirrFlushWaits m.nsid then s
      else if s.tiles.toList.any fun x => x.ftl.staged.any mine then
        s.tileIds.foldl (fun s t => s.pushOut t fun f => f.staged.any mine) s
      else (s.tileIds.foldl (fun s t => s.pushOut t fun _ => false) s).fail k .success)

/-! ### Abort (R75, R76) -/

/-- Whether a tracked command is before its commit point (Table 3.9): a write that has not committed, and any other command that
has not been acted on. -/
def Track.abortable (t : Track) : Bool := t.sqe.opc != 0x00 && !t.committed

/-- The end of a tracked command on which an Abort takes effect: staged fragments are discarded. -/
def State.abortTrack (s : State) (k : CmdKey) : State := (s.discard k).fail k .abortRequested

end Sys2Proof.Machine
end

