-- ==== Sys2Proof/Machine/LmcsOps.lean ====
section
/-! DEFINITION. Machine/LmcsOps.lean: LMCS requests on their three carriers: admission in the order of R464, roles, responses
(chapter 2). -/

namespace Sys2Proof

/-- The function that a request acts for; none on the sideband (Table 2.6, R37). -/
def Carrier.fn : Carrier → Option FnId
  | .mailbox f _ => some f
  | .admin f _ => some f
  | .mctp _ => none

/-- The largest request payload of a carrier (Table 2.6). -/
def Carrier.limit : Carrier → Nat
  | .mailbox _ _ => 2032
  | .admin _ _ => 1048576
  | .mctp _ => 4080

/-- The largest response payload of a carrier (Table 2.6). -/
def Carrier.respLimit : Carrier → Nat
  | .mailbox _ _ => 2016
  | .admin _ _ => 1048576
  | .mctp _ => 4080

/-- Whether two carriers are one carrier instance: one mailbox, one controller's admin queue, one endpoint (R353). -/
def Carrier.same : Carrier → Carrier → Bool
  | .mailbox f m, .mailbox g n => f == g && m == n
  | .admin f _, .admin g _ => f == g
  | .mctp a, .mctp b => a == b
  | _, _ => false

/-- The payload that LENGTH delimits; bytes beyond it are ignored (R35). -/
def Req.body (q : Req) : List Byte := q.msg.payload.take q.msg.length

end Sys2Proof

namespace Sys2Proof.Machine

open Sys2Proof

/-- Whether a carrier instance holds the platform owner role (R353). -/
def State.isOwner (s : State) (c : Carrier) : Bool := s.lmcs.owners.any fun o => o.1.same c

/-- Who may send a message, as far as no session decides it (Tables 2.4, 10.6, 15.3 and 16.3, R37). -/
inductive Role where
  /-- Anyone. -/
  | any
  /-- A function. -/
  | func
  /-- A function, or the platform owner. -/
  | funcOrOwner
  /-- The platform owner. -/
  | owner
  /-- The platform owner, or the sideband. -/
  | ownerOrSide
  /-- The sideband. -/
  | side
  deriving DecidableEq, Repr

/-- What an opcode requires before its own conditions: the role, whether it names a session, the least payload, and the most, none
for no bound of its own. A message of R354 may come in parts, so its length is checked where it is assembled. -/
structure OpSpec where
  role : Role
  sess : Bool
  lo   : Nat
  hi   : Option Nat
  deriving DecidableEq, Repr

/-- An opcode with a fixed payload length. -/
def fixedOp (role : Role) (sess : Bool) (n : Nat) : Option OpSpec := some ⟨role, sess, n, some n⟩

/-- The opcodes of this release (Tables 2.13, 2.16, 2.19, 8.13, 9.2, 10.6, 13.2, 15.3, 16.3 and 19.1, R427). -/
def opSpec (op : Nat) : Option OpSpec :=
  match op with
  | 0x0101 => fixedOp .any false 0
  | 0x0102 => fixedOp .any false 8
  | 0x0201 => some ⟨.func, false, 16, none⟩
  | 0x0202 => fixedOp .func true 0
  | 0x0203 => fixedOp .funcOrOwner true 0
  | 0x0204 => some ⟨.func, true, 4, none⟩
  | 0x0205 => fixedOp .func true 4
  | 0x0206 => fixedOp .funcOrOwner false 8
  | 0x0210 => fixedOp .owner false 64
  | 0x0211 => fixedOp .funcOrOwner false 4
  | 0x0212 => fixedOp .owner false 36
  | 0x0213 => fixedOp .funcOrOwner false 4
  | 0x0214 | 0x0215 | 0x0216 => fixedOp .owner true 0
  | 0x0301 => some ⟨.func, true, 0, none⟩
  | 0x0302 => fixedOp .func true 8
  | 0x0303 => fixedOp .func true 8
  | 0x0304 => some ⟨.func, true, 8, none⟩
  | 0x0305 | 0x0307 | 0x0308 => fixedOp .func true 8
  | 0x0306 => fixedOp .func true 520
  | 0x0309 => fixedOp .func true 0
  | 0x030A => fixedOp .func true 16
  | 0x030B | 0x030C => fixedOp .func true 8
  | 0x0401 => some ⟨.func, true, 8, none⟩
  | 0x0402 | 0x0403 => fixedOp .func true 8
  | 0x0404 => fixedOp .func true 0
  | 0x0501 => some ⟨.func, true, 8, none⟩
  | 0x0502 => some ⟨.func, true, 9, some 264⟩
  | 0x0503 | 0x0504 => fixedOp .func true 8
  | 0x0510 => fixedOp .owner false 8
  | 0x0511 => fixedOp .ownerOrSide false 0
  | 0x0601 | 0x0603 | 0x0609 => fixedOp .owner false 0
  | 0x0602 => fixedOp .owner false 24
  | 0x0604 | 0x0605 | 0x0606 | 0x0607 | 0x0608 => fixedOp .owner false 8
  | 0x0701 => fixedOp .any false 12
  | 0x0702 => fixedOp .any false 1
  | 0x0801 => fixedOp .any false 8
  | 0x0810 => fixedOp .any false 0
  | 0x0811 => some ⟨.any, false, 1, none⟩
  | 0x0812 => fixedOp .owner false 0
  | 0x0813 => some ⟨.side, false, 1, none⟩
  | 0x0814 => some ⟨.owner, false, 1, none⟩
  | 0x0820 => some ⟨.owner, false, 8, none⟩
  | 0x0821 => fixedOp .owner false 8
  | 0x0822 => fixedOp .any false 0
  | 0x0823 => fixedOp .owner false 0
  | 0x0830 => some ⟨.any, false, 4, none⟩
  | 0x0840 => fixedOp .ownerOrSide false 0
  | 0x0841 => some ⟨.ownerOrSide, false, 1, none⟩
  | 0x0901 => fixedOp .owner false 8
  | 0x0902 => some ⟨.owner, false, 8, none⟩
  | 0x0903 | 0x0904 | 0x0905 | 0x0907 => fixedOp .owner false 8
  | 0x0906 => fixedOp .owner false 0
  | 0x0908 => some ⟨.owner, false, 8, none⟩
  | 0x0A01 => fixedOp .owner false 8
  | 0x0A02 => some ⟨.owner, false, 8, none⟩
  | _ => none

/-- Whether a role is held (step 4 of R464). -/
def State.roleOk (s : State) (q : Req) : Role → Bool
  | .any => true
  | .func => q.car.fn.isSome
  | .funcOrOwner => q.car.fn.isSome || s.isOwner q.car
  | .owner => s.isOwner q.car
  | .ownerOrSide => s.isOwner q.car || q.car.fn.isNone
  | .side => q.car.fn.isNone

/-- The subset that the sideband answers in recovery and after a failed start (R465). -/
def recoveryOp (op : Nat) : Bool := op / 256 == 1 || op == 0x0701 || op == 0x0702 || op / 256 == 8

/-- Whether the device is in recovery or its start failed (R379, R378). -/
def State.inRecovery (s : State) : Bool := s.boot.recovery || s.boot.startFailed

/-- Step 5 of R464: the session that a message names for its requester, in a state in which the message is acted on (R219,
Table 10.2, R229). -/
def State.namedSession (s : State) (q : Req) : Option Session :=
  let op := q.msg.opcode.toNat
  let byOwner := s.isOwner q.car
  let mine := s.ses.sessions.find? fun x => x.handle == q.msg.session.toNat && some x.fn == q.car.fn
  let any := s.ses.sessions.find? fun x => x.handle == q.msg.session.toNat
  let pick := if op = 0x0203 then (if mine.isSome then mine else if byOwner then any else none)
    else if op = 0x0214 ∨ op = 0x0215 ∨ op = 0x0216 then any else mine
  match pick with
  | none => none
  | some x =>
    if x.state = 1 then some x
    else if x.state = 2 ∧ (op = 0x0203 ∨ op = 0x0202 ∨ op = 0x0214 ∨ op = 0x0215 ∨ op = 0x0216) then some x
    else none

/-- Steps 1 to 6 of R464: the status of the first failure, or the session that the message names. -/
def State.admission (s : State) (q : Req) : Except Nat (Option Session) :=
  let m := q.msg
  let op := m.opcode.toNat
  if m.payload.length < m.length || q.car.limit < m.length then .error 3
  else if m.version ≠ 1 ∨ m.flags ≠ 0 ∨ m.status ≠ 0 then .error 2
  else if s.inRecovery && !recoveryOp op then .error 1
  else match opSpec op with
    | none => .error 1
    | some d =>
      if !s.roleOk q d.role then .error 4
      else
        let lenOk := d.lo ≤ m.length && (match d.hi with
          | some h => m.length ≤ h
          | none => true)
        if d.sess then
          match s.namedSession q with
          | none => .error 9
          | some x => if lenOk then .ok (some x) else .error 3
        else if m.session ≠ 0xFFFFFFFF then .error 2
        else if lenOk then .ok none else .error 3

/-! ### Responses (R29 to R32, R35, R36) -/

/-- The message of a response, payload truncated to `space` bytes while LENGTH states the full size (Table 2.3, R35). -/
def respBytes (q : Req) (status : Nat) (payload : List Byte) (space : Nat) : List Byte :=
  leBytes 2 q.msg.opcode.toNat ++ leBytes 1 1 ++ leBytes 1 1 ++ leBytes 2 q.msg.tag.toNat ++ leBytes 2 status ++
    leBytes 4 payload.length ++ leBytes 4 q.msg.session.toNat ++ payload.take space

/-- A Receive that waits for the response to a TAG of a controller. -/
def State.receiveOf (s : State) (f : FnId) (tag : BitVec 16) : Option (CmdKey × Nat) :=
  (s.lmcs.receives.find? fun r => r.1 == f && r.2.1 == tag).map fun r => r.2.2

/-- An admin command completed on its controller's admin queue. -/
def State.adminDone (s : State) (c : Cqe) : State := s.cqPost c

/-- A C2h Receive completes: the response truncated to its buffer, and DW0 the full response length (R35, R36). -/
def State.deliverReceive (s : State) (k : CmdKey) (room : Nat) (q : Req) (status : Nat) (payload : List Byte) : State :=
  s.adminDone (Cqe.of k .success (16 + payload.length) 0 ((respBytes q status payload q.car.respLimit).take room))

/-- A response made: the request is no longer in progress; one that a reset of its carrier ended gets none (R33). A mailbox response waits to be posted (R29), a Receive that waits gets
its response at once (R36), and a sideband response goes out. -/
def State.respond (s : State) (q : Req) (status : Nat) (payload : List Byte) : State :=
  let l := s.lmcs
  let l1 := { l with inFlight := l.inFlight.filter (fun x => x != q), started := l.started.filter fun x => x != q }
  if q.car.fn.isSome && !(l.inFlight.contains q || l.started.contains q) then s
  else match q.car with
  | .mctp eid => { s with lmcs := { l1 with outbox := l1.outbox ++ [(eid, respBytes q status payload q.car.respLimit)] } }
  | .mailbox _ _ => { s with lmcs := { l1 with done := l1.done ++ [⟨q, status, payload⟩] } }
  | .admin f tag =>
    match s.receiveOf f tag with
    | some (k, room) =>
      let s1 : State := { s with lmcs := { l1 with receives := l1.receives.filter fun r => !(r.1 == f && r.2.1 == tag) } }
      s1.deliverReceive k room q status payload
    | none => { s with lmcs := { l1 with done := l1.done ++ [⟨q, status, payload⟩] } }

/-- The mailbox of a function, at its reset values when it is not listed. -/
def State.mailbox (s : State) (f : FnId) (m : Nat) : Mailbox :=
  (s.lmcs.boxes.find? fun b => b.fn == f && b.num == m).getD { fn := f, num := m }

/-- The state with a mailbox changed. -/
def State.onBox (s : State) (f : FnId) (m : Nat) (g : Mailbox → Mailbox) : State :=
  let b := g (s.mailbox f m)
  { s with lmcs := { s.lmcs with boxes := s.lmcs.boxes.filter (fun x => !(x.fn == f && x.num == m)) ++ [b] } }

/-- Whether a request was asked to abort before its commit point (R31). -/
def State.abortAsked (s : State) (q : Req) : Bool :=
  match q.car with
  | .mailbox f m => (s.mailbox f m).abort
  | _ => false

/-- Whether a request may be acted on now: accepted and in progress, or arriving on the sideband. -/
def State.waiting (s : State) (q : Req) : Bool :=
  match q.car with
  | .mctp _ => true
  | _ => s.lmcs.inFlight.contains q

/-- The meaning of one LMCS opcode: admission (R464), an Abort before the commit point (R31), then the opcode's own checks and effect.
`act` answers no response when it comes later. -/
def State.lmcsRun (s : State) (q : Req) (op : Nat) (act : Option Session → State → Option (Nat × List Byte) × State) : State :=
  if q.msg.opcode.toNat ≠ op ∨ !s.waiting q then s
  else match s.admission q with
    | .error st => s.respond q st []
    | .ok x =>
      if s.abortAsked q then s.respond q 6 []
      else match act x s with
        | (some r, s1) => s1.respond q r.1 r.2
        | (none, s1) => { s1 with lmcs := { s1.lmcs with inFlight := s1.lmcs.inFlight.filter (fun y => y != q)
                                                         started := s1.lmcs.started ++ [q] } }

/-- The meaning of an opcode that names a session. -/
def State.sessRun (s : State) (q : Req) (op : Nat) (act : Session → State → Option (Nat × List Byte) × State) : State :=
  s.lmcsRun q op fun x s => match x with
    | some y => act y s
    | none => (some (9, []), s)

/-- A plain answer. -/
abbrev Answer := Option (Nat × List Byte) × State

/-- A failure that changes nothing. -/
def refuse (s : State) (st : Nat) (payload : List Byte := []) : Answer := (some (st, payload), s)

/-- A success. -/
def done (s : State) (payload : List Byte := []) : Answer := (some (0, payload), s)

end Sys2Proof.Machine
end

