-- ==== Sys2Proof/Machine/Inflate.lean ====
section
/-! DEFINITION. Machine/Inflate.lean: decompression of raw DEFLATE, zlib and gzip streams as Table 7.1 supports them (R160). -/

namespace Sys2Proof.Machine

open Sys2Proof

/-- How decompression of what was given so far stops. -/
inductive InfStop where
  /-- The stream's end. -/
  | done
  /-- The input ran out. -/
  | more
  /-- The output limit was reached. -/
  | full
  /-- An invalid or unsupported stream (FORMAT). -/
  | format
  /-- A trailer or header check failed (CHECK). -/
  | check
  deriving DecidableEq, Repr

/-- The result: the output, the input bits consumed, and why it stopped. -/
structure InfOut where
  out  : List Byte
  used : Nat
  stop : InfStop
  deriving DecidableEq, Repr

/-- A Huffman code: length, code and symbol of each symbol in use. -/
abbrev HuffTable := List (Nat × Nat × Nat)

/-- The first code of a length (RFC 1951, 3.2.2). -/
def firstCode (ls : List Nat) : Nat → Nat
  | 0 => 0
  | n + 1 => (firstCode ls n + (if n = 0 then 0 else ls.count n)) * 2

/-- The canonical code of a list of lengths. -/
def huffTable (ls : List Nat) : HuffTable :=
  ((List.range ls.length).foldl (fun (p : HuffTable × List Nat) i =>
    let l := ls.getD i 0
    if l = 0 then p else (p.1 ++ [(l, firstCode ls l + p.2.count l, i)], l :: p.2)) ([], [])).1

/-- Whether a list of lengths over-subscribes its code space. -/
def overSubscribed (ls : List Nat) : Bool := 32768 < sumOf (ls.map fun l => if l = 0 then 0 else 2 ^ (15 - l))

/-- `n` bits, least significant first. -/
def getBits : Nat → List Bool → Option (Nat × List Bool)
  | 0, bs => some (0, bs)
  | _ + 1, [] => none
  | n + 1, b :: bs => (getBits n bs).map fun r => (b2n b + 2 * r.1, r.2)

/-- A symbol decoded: none when the bits run out, `some none` when no code matches. -/
def getSym (t : HuffTable) : Nat → Nat → Nat → List Bool → Option (Option Nat × List Bool)
  | 0, _, _, bs => some (none, bs)
  | _ + 1, _, _, [] => none
  | f + 1, len, code, b :: bs =>
    match t.find? fun e => e.1 == len + 1 && e.2.1 == code * 2 + b2n b with
    | some e => some (some e.2.2, bs)
    | none => getSym t f (len + 1) (code * 2 + b2n b) bs

/-- Base length and extra bits of a length symbol 257 to 285. -/
def lenCode (i : Nat) : Nat × Nat :=
  [(3, 0), (4, 0), (5, 0), (6, 0), (7, 0), (8, 0), (9, 0), (10, 0), (11, 1), (13, 1), (15, 1), (17, 1), (19, 2), (23, 2),
   (27, 2), (31, 2), (35, 3), (43, 3), (51, 3), (59, 3), (67, 4), (83, 4), (99, 4), (115, 4), (131, 5), (163, 5), (195, 5),
   (227, 5), (258, 0)].getD i (0, 0)

/-- Base distance and extra bits of a distance symbol. -/
def distCode (i : Nat) : Nat × Nat :=
  if i < 4 then (i + 1, 0) else (1 + (2 + i % 2) * 2 ^ (i / 2 - 1), i / 2 - 1)

/-- The lengths of the fixed literal code (RFC 1951, 3.2.6). -/
def fixedLens : List Nat := List.replicate 144 8 ++ List.replicate 112 9 ++ List.replicate 24 7 ++ List.replicate 8 8

/-- The order of the code length code lengths. -/
def clOrder : List Nat := [16, 17, 18, 0, 8, 7, 9, 6, 10, 5, 11, 4, 12, 3, 13, 2, 14, 1, 15]

/-- What the decoder stands in. -/
inductive InfMode where
  | header
  | stored (n : Nat)
  | codes (lit dist : HuffTable)
  | copy (n d : Nat) (lit dist : HuffTable)
  deriving Repr

/-- The code lengths of a dynamic block, read with the code length code; none when the bits run out, an empty list for an
invalid stream. -/
def readLens (t : HuffTable) (want : Nat) : Nat → List Nat → List Bool → Option (List Nat × List Bool)
  | 0, acc, bs => some (acc, bs)
  | f + 1, acc, bs =>
    if want ≤ acc.length then some (if acc.length = want then acc else [], bs)
    else match getSym t 15 0 0 bs with
      | none => none
      | some (none, r) => some ([], r)
      | some (some y, r) =>
        if y < 16 then readLens t want f (acc ++ [y]) r
        else
          let (n, base) := if y = 16 then (2, 3) else if y = 17 then (3, 3) else (7, 11)
          match getBits n r with
          | none => none
          | some (x, r') =>
            if y = 16 ∧ acc = [] then some ([], r')
            else readLens t want f (acc ++ List.replicate (base + x) (if y = 16 then acc.getLastD 0 else 0)) r'

/-- The tables of a dynamic block; none when the bits run out, `some none` for an invalid one. -/
def readDynamic (bs : List Bool) : Option (Option (HuffTable × HuffTable) × List Bool) := do
  let (hlit, b1) ← getBits 5 bs
  let (hdist, b2) ← getBits 5 b1
  let (hclen, b3) ← getBits 4 b2
  let (cl, b4) ← (List.range (hclen + 4)).foldlM (fun (p : List Nat × List Bool) _ =>
    (getBits 3 p.2).map fun r => (p.1 ++ [r.1], r.2)) (([] : List Nat), b3)
  let cls := (List.range 19).map fun i => (((clOrder.zip cl).find? fun e => e.1 == i).map fun e => e.2).getD 0
  let (ls, b5) ← readLens (huffTable cls) (hlit + 257 + hdist + 1) 400 [] b4
  let lit := ls.take (hlit + 257)
  let dist := ls.drop (hlit + 257)
  if ls = [] || overSubscribed cls || overSubscribed lit || overSubscribed dist || lit.getD 256 0 == 0 || 286 < hlit + 257
    then some (none, b5)
    else some (some (huffTable lit, huffTable dist), b5)

/-- The decoder. `out` is the output so far, newest byte first, after `hist` bytes of history; `n` counts the bytes that this
call has made, at most `limit`. -/
def inflateGo (limit : Option Nat) : Nat → InfMode → Bool → List Bool → List Byte → Nat → (List Byte × List Bool × InfStop)
  | 0, _, _, bs, out, _ => (out, bs, .more)
  | f + 1, m, fin, bs, out, n =>
    match m with
    | .header =>
      if fin then (out, bs, .done)
      else match getBits 3 bs with
        | none => (out, bs, .more)
        | some (h, r) =>
          let fin' := h % 2 == 1
          if h / 2 = 0 then
            match getBits 32 (r.drop (r.length % 8)) with
            | none => (out, bs, .more)
            | some (x, r') =>
              if x % 65536 + x / 65536 = 65535 then inflateGo limit f (.stored (x % 65536)) fin' r' out n
              else (out, r', .format)
          else if h / 2 = 1 then
            inflateGo limit f (.codes (huffTable fixedLens) (huffTable (List.replicate 30 5))) fin' r out n
          else if h / 2 = 2 then
            match readDynamic r with
            | none => (out, bs, .more)
            | some (none, r') => (out, r', .format)
            | some (some (a, b), r') => inflateGo limit f (.codes a b) fin' r' out n
          else (out, r, .format)
    | .stored 0 => inflateGo limit f .header fin bs out n
    | .stored (k + 1) =>
      if limit = some n then (out, bs, .full)
      else match getBits 8 bs with
        | none => (out, bs, .more)
        | some (x, r) => inflateGo limit f (.stored k) fin r (BitVec.ofNat 8 x :: out) (n + 1)
    | .codes a b =>
      match getSym a 15 0 0 bs with
      | none => (out, bs, .more)
      | some (none, r) => (out, r, .format)
      | some (some y, r) =>
        if y < 256 then
          if limit = some n then (out, bs, .full)
          else inflateGo limit f (.codes a b) fin r (BitVec.ofNat 8 y :: out) (n + 1)
        else if y = 256 then inflateGo limit f .header fin r out n
        else if 285 < y then (out, r, .format)
        else
          let (lb, le) := lenCode (y - 257)
          match getBits le r with
          | none => (out, bs, .more)
          | some (lx, r1) =>
            match getSym b 15 0 0 r1 with
            | none => (out, bs, .more)
            | some (none, r2) => (out, r2, .format)
            | some (some dy, r2) =>
              if 29 < dy then (out, r2, .format)
              else
                let (db, de) := distCode dy
                match getBits de r2 with
                | none => (out, bs, .more)
                | some (dx, r3) =>
                  if out.length < db + dx ∨ 32768 < db + dx then (out, r3, .format)
                  else inflateGo limit f (.copy (lb + lx) (db + dx) a b) fin r3 out n
    | .copy 0 _ a b => inflateGo limit f (.codes a b) fin bs out n
    | .copy (k + 1) d a b =>
      if limit = some n then (out, bs, .full)
      else inflateGo limit f (.copy k d a b) fin bs (out.getD (d - 1) 0 :: out) (n + 1)

/-- The bits of a byte string, least significant first. -/
def toBits (bs : List Byte) : List Bool := bs.flatMap fun b => (List.range 8).map fun i => b.getLsbD i

/-- Raw DEFLATE from empty history (R160). -/
def inflate (limit : Option Nat) (bs : List Byte) : InfOut :=
  let bits := toBits bs
  let r := inflateGo limit (2100 * bits.length + 16) .header false bits [] 0
  ⟨r.1.reverse, bits.length - r.2.1.length, r.2.2⟩

/-- The header of a zlib or gzip stream: its length in bytes, `none` while more input is needed, or a stop (Table 7.1). -/
def wrapHeader (fmt : Nat) (bs : List Byte) : Except InfStop Nat :=
  match fmt with
  | 0 => .ok 0
  | 1 =>
    if bs.length < 2 then .error .more
    else
      let cmf := leAt bs 0 1
      let flg := leAt bs 1 1
      if cmf % 16 = 8 ∧ cmf / 16 ≤ 7 ∧ (cmf * 256 + flg) % 31 = 0 ∧ bitN flg 5 = false then .ok 2 else .error .format
  | _ =>
    if bs.length < 10 then .error .more
    else if leAt bs 0 2 ≠ 0x8B1F ∨ leAt bs 2 1 ≠ 8 ∨ 32 ≤ leAt bs 3 1 then .error .format
    else
      let flg := leAt bs 3 1
      let h1 := if bitN flg 2 then 12 + leAt bs 10 2 else 10
      let skip (h : Nat) : Nat := h + ((bs.drop h).takeWhile fun b => b != 0).length + 1
      let h2 := if bitN flg 3 then skip h1 else h1
      let h3 := if bitN flg 4 then skip h2 else h2
      let h4 := if bitN flg 1 then h3 + 2 else h3
      if bs.length < h4 then .error .more
      else if bitN flg 1 && leAt bs h3 2 != (crc32 (bs.take h3)).toNat % 65536 then .error .check
      else .ok h4

/-- A stream in one of the formats of Table 7.1, decompressed up to `limit` bytes; `used` counts bits, the trailer included once it
has been checked (R160, R172). -/
def inflateStream (fmt : Nat) (limit : Option Nat) (bs : List Byte) : InfOut :=
  match wrapHeader fmt bs with
  | .error e => ⟨[], 8 * bs.length, e⟩
  | .ok h =>
    let r := inflate limit (bs.drop h)
    let at0 := h + ceilDiv r.used 8
    if r.stop ≠ .done ∨ fmt = 0 then { r with used := r.used + 8 * h }
    else
      let n := if fmt = 1 then 4 else 8
      if bs.length < at0 + n then { r with used := 8 * bs.length, stop := .more }
      else
        let ok := if fmt = 1 then beNat (slice at0 4 bs) == adler32 r.out
          else leAt bs at0 4 == (crc32 r.out).toNat && leAt bs (at0 + 4) 4 == r.out.length % 2 ^ 32
        ⟨r.out, 8 * (at0 + n), if ok then .done else .check⟩

/-- The header that a compressed stream opens with, by format and level (Table 7.1). -/
def wrapOpen (fmt level : Nat) : List Byte :=
  match fmt with
  | 0 => []
  | 1 =>
    let fl := (if level ≤ 1 then 0 else if level ≤ 5 then 1 else if level = 6 then 2 else 3) * 64
    [0x78, BitVec.ofNat 8 (fl + (31 - (0x7800 + fl) % 31) % 31)]
  | _ => [0x1F, 0x8B, 8, 0, 0, 0, 0, 0, if 9 ≤ level then 2 else if level = 1 ∨ level = 2 then 4 else 0, 255]

/-- The trailer of a compressed stream over its whole input. -/
def wrapClose (fmt : Nat) (input : List Byte) : List Byte :=
  match fmt with
  | 0 => []
  | 1 => beBytes 4 (adler32 input)
  | _ => leBytes 4 (crc32 input).toNat ++ leBytes 4 input.length

end Sys2Proof.Machine
end

