-- ==== Sys2Proof/Machine/Rings.lean ====
section
/-! DEFINITION. Machine/Rings.lean: the descriptor and completion rings that the stewards share with the engines
(R147, R150, R168). -/

namespace Sys2Proof.Machine

open Sys2Proof

/-- A ring: its memory and its two indices, modulo twice its size. -/
structure Ring where
  base : Nat
  size : Nat
  head : Nat
  tail : Nat
  deriving DecidableEq, Repr

/-- Entries between head and tail (R150). -/
def Ring.count (r : Ring) : Nat := (r.tail + 2 * r.size - r.head % (2 * r.size)) % (2 * r.size)

/-- The address of the entry at an index, for entries of `n` bytes. -/
def Ring.at (r : Ring) (i n : Nat) : Nat := r.base + i % r.size * n

/-- An index advanced by one. -/
def Ring.next (r : Ring) (i : Nat) : Nat := (i + 1) % (2 * r.size)

/-- Queue `q` of an engine whose queue registers start at 0x040 (Tables 7.7, 9.10 and 15.9). -/
def State.queueRing (s : State) (b : Block) (q : Nat) : Ring :=
  let base := s.rd b (0x040 + 16 * q)
  ⟨base / 64 * 64, 2 ^ (base % 16), s.rd b (0x048 + 16 * q), s.rd b (0x04C + 16 * q)⟩

/-- Whether queue `q` of an engine is enabled. -/
def State.queueOn (s : State) (b : Block) (q : Nat) : Bool := bitN (s.rd b (0x044 + 16 * q)) 0

/-- The completion ring of an engine, with CBASE at `cb`, CHEAD at `ch` and CTAIL at `ct`. -/
def State.compRing (s : State) (b : Block) (cb ch ct : Nat) : Ring :=
  let base := s.rd b cb
  ⟨base / 64 * 64, 2 ^ (base % 16), s.rd b ch, s.rd b ct⟩

/-- A completion entry posted in the completion ring of an engine of tile `t`, when it has a free slot. -/
def State.postComp (s : State) (t : Nat) (b : Block) (cb ch ct : Nat) (entry : List Byte) : State :=
  let r := s.compRing b cb ch ct
  if r.count < r.size then (s.writeMem t (r.at r.tail entry.length) entry).wr b ct (r.next r.tail) else s

/-- Whether the completion ring of an engine has a free slot. -/
def State.compFree (s : State) (b : Block) (cb ch ct : Nat) : Bool :=
  let r := s.compRing b cb ch ct
  r.count < r.size

/-- The descriptor at the head of queue `q`. -/
def State.queueHead (s : State) (t : Nat) (b : Block) (q n : Nat) : List Byte :=
  let r := s.queueRing b q
  s.readMem t (r.at r.head n) n

/-- The head of queue `q` advanced past one descriptor. -/
def State.queueTake (s : State) (b : Block) (q : Nat) : State :=
  let r := s.queueRing b q
  s.wr b (0x048 + 16 * q) (r.next r.head)

/-- Whether queue `q` requests: enabled, with a descriptor not yet taken (R168). -/
def State.queueReq (s : State) (b : Block) (q : Nat) : Bool :=
  s.queueOn b q && (s.queueRing b q).count != 0

/-- Every untaken descriptor of queue `q` ended in ring order with a completion that `mk` makes from it (R150). -/
def State.flushQueue (s : State) (t : Nat) (b : Block) (q cb ch ct n : Nat) (mk : List Byte → List Byte) : State :=
  (List.range (s.queueRing b q).count).foldl (fun s _ =>
    let d := s.queueHead t b q n
    (s.queueTake b q).postComp t b cb ch ct (mk d)) s

/-- A write of QTAIL[q] by the steward: one past the last descriptor written (R147). -/
def State.setTail (s : State) (b : Block) (q : Nat) (v : Word) : State :=
  if s.blockOn b then s.wr b (0x04C + 16 * q) (v.toNat % 2048) else s.decErr (regAddr b (0x04C + 16 * q)) 0

end Sys2Proof.Machine
end

