-- ==== Sys2Proof/Machine/Compress.lean ====
section
/-! DEFINITION. Machine/Compress.lean: the compression engine (chapter 7): inline grains, stream jobs, verification and
retirement. -/

namespace Sys2Proof.Machine

open Sys2Proof

/-! ### Grains (R163) -/

/-- The most units a compressed grain may take (R163). -/
def grainBound (size : Nat) : Nat := 15 * (size / 4096)

/-- The units of a stored grain with a payload of `clen` bytes (R163). -/
def grainUnits (clen : Nat) : Nat := ceilDiv (16 + clen) 256

/-- A stored grain: header, payload and zero padding to whole units (R163, Table 7.3). -/
def grainBytes (fmt level llen : Nat) (payload : List Byte) : List Byte :=
  let h := leBytes 1 fmt ++ leBytes 1 level ++ leBytes 2 0 ++ leBytes 4 llen ++ leBytes 4 payload.length
  let b := h ++ leBytes 4 (crc32c (h ++ payload)).toNat ++ payload
  fit (grainUnits payload.length * 256) b

/-- The stored form of a grain at a level: the DEFLATE body when it meets the bound, otherwise the raw container, which level 0
always gives (R161, R163). The Bool is CMP. -/
def storeGrain (level : Nat) (src : List Byte) : Bool × List Byte :=
  let p := Config.deflate level [] src true
  if level ≠ 0 ∧ grainUnits p.length ≤ grainBound src.length then (true, grainBytes 1 level src.length p)
  else (false, grainBytes 0 level src.length src)

/-- The checks of R164 on a stored grain, against the map entry's CMP bit and LENGTH and the namespace's grain size. -/
def grainChecks (b : List Byte) (cmp : Bool) (len grain : Nat) : Bool :=
  let fmt := leAt b 0 1
  let clen := leAt b 8 4
  (fmt == 0 && !cmp || fmt == 1 && cmp) && leAt b 1 1 ≤ 12 && leAt b 2 2 == 0 && leAt b 4 4 == grain &&
  grainUnits clen == len && leAt b 12 4 == (crc32c (slice 0 12 b ++ slice 16 clen b)).toNat

/-- The logical bytes of a stored grain that passes its checks; none for an invalid stream or another length (R164). -/
def loadGrain (b : List Byte) : Option (List Byte) :=
  let clen := leAt b 8 4
  let llen := leAt b 4 4
  if leAt b 0 1 = 0 then some (slice 16 clen b)
  else
    let r := inflate (some llen) (slice 16 clen b)
    if r.stop = .done ∧ r.out.length = llen then some r.out else none

/-- NSLVL in force for a namespace and an epoch; 13 to 15 act as 12 (R162, R173). -/
def State.nsLevel (s : State) (t nsx : Nat) (tag : BitVec 16) : Nat :=
  min 12 (field (s.effective (regAddr (.cmp t) 0x014 + nsx * 2 ^ 32) tag).toNat 3 0)

/-- The level of an inline grain: min(NSLVL, GOVCAP) (R162). -/
def State.grainLevel (s : State) (t nsx : Nat) (tag : BitVec 16) : Nat := min (s.nsLevel t nsx tag) s.power.govcap

/-! ### The engine -/

/-- Whether the compressor of a tile is in service. -/
def State.cmpUp (s : State) (t : Nat) : Bool := s.hasTile t && (s.tileAt t).comp.retired.isNone

/-- PARTNER.ACCEPT of tile `t`, as its partner's state decides it (R166). -/
def State.partnerAccept (s : State) (t : Nat) : Bool :=
  let p := t ^^^ 1
  s.cmpUp p && s.blockOn (.cmp p) && bitN (s.rd (.cmp p) 0) 0 &&
  (s.queueRing (.cmp p) 1).count < (s.queueRing (.cmp p) 1).size &&
  2 * (s.queueRing (.cmp p) 0).count < (s.queueRing (.cmp p) 0).size

/-- STAT brought up to date. -/
def State.cmpStat (s : State) (t : Nat) : State :=
  let x := (s.tileAt t).comp
  let st := if x.retired.isSome then 2 else b2n (bitN (s.rd (.cmp t) 0) 0)
  let live := match x.live with
    | some l => 8 + l.ctx % 65536 * 16
    | none => 0
  s.wr (.cmp t) 0x004 (st + (if x.running.isSome then 4 else 0) + live + (x.retired.getD 0) * 2 ^ 24)

/-- CMP_QTAIL: a steward advances QTAIL of a queue; queue 1 is written by the partner tile's steward (R168). -/
def execCmpQtail (t : TileId) (qn : Fin 4) (v : Word) (s : State) : Out := s.ends (s.setTail (.cmp t) qn v)

/-- The job that starts next: the queue that the arbiter grants and the state with its pointer moved; none unless the engine is
in service, enabled, idle and a completion slot is free (R168). -/
def State.cmpPick (s : State) (t : Nat) : Option (Nat × State) :=
  let b : Block := .cmp t
  if !s.cmpUp t || !s.blockOn b || !bitN (s.rd b 0) 0 || (s.tileAt t).comp.running.isSome || !s.compFree b 0x018 0x020 0x024
    then none
  else (rotate 4 (s.tileAt t).comp.ptr (s.queueReq b)).map fun q =>
    (q, s.onTileAt t fun x => { x with comp := { x.comp with ptr := (q + 1) % 4 } })

/-- The reserved bits and ranges of a job descriptor (Table 7.4). -/
def cmpInvalid (d : List Byte) : Bool :=
  let op := leAt d 0 1
  let flags := leAt d 3 1
  leAt d 10 2 != 0 || !zeroAt d 40 24 || leAt d 16 4 % 64 != 0 || leAt d 24 4 % 64 != 0 || 63 < flags ||
  (if op = 1 then leAt d 1 1 != 0 || leAt d 2 1 != 0 || flags != 0 && flags != 32 || leAt d 4 2 != 0 || leAt d 28 4 != 0 ||
      !(leAt d 20 4 == 4096 || leAt d 20 4 == 16384) || 4096 ≤ leAt d 6 2 || leAt d 36 4 != 0
   else if op = 2 ∨ op = 3 then 2 < leAt d 1 1 || 12 < leAt d 2 1 || (op = 3 && leAt d 2 1 != 0) || leAt d 6 4 != 0 ||
      leAt d 20 4 == 0 || 16777216 < leAt d 20 4 || leAt d 32 4 % 64 != 0 || (op = 2 && leAt d 36 4 != 0) ||
      (if bitN flags 2 then leAt d 28 4 == 0 || 16 < leAt d 28 4 else leAt d 28 4 % 64 != 0)
   else true)

/-- The compressor retired (R165, R166): the state, the notice, and every queued job flushed. -/
def State.retireComp (s : State) (t : Nat) : State :=
  let s1 := s.onTileAt t fun x => { x with comp := { x.comp with retired := some 0xA0, live := none } }
  let flush (st : State) (q : Nat) : State := st.flushQueue t (.cmp t) q 0x018 0x020 0x024 64 fun d =>
    slice 12 4 d ++ leBytes 1 0x0B ++ zeros 11
  (((List.range 4).foldl flush s1).flag (.cmp t) 0x028 2).retireNotice t 3 0 0xA0

/-- A job taken from the head of queue `q` with its result; BUSY from here to its completion. -/
def State.cmpRun (s : State) (t q : Nat) (d : List Byte) (status level flags inLen outLen : Nat) : State :=
  let j : CmpJob := ⟨q, d, status, level, flags + (if q = 1 then 2 else 0), inLen, outLen⟩
  let s0 := s.holdRef t (leAt d 16 4) (leAt d 20 4)
  let s1 := (s0.queueTake (.cmp t) q).onTileAt t fun x => { x with comp := { x.comp with running := some j } }
  s1.cmpStat t

/-- A verified release: the outcome of the two attempts of R165. The state transformer `ok` releases the block. -/
def State.verified (s : State) (t : Nat) (level : Nat) (v : VerifyEnv) (ok : State → State) (bad : State → State) : State :=
  if level = 0 || v.first then ok s
  else if v.second then (((ok s).count (.cmp t) 0x08C 1).flag (.cmp t) 0x028 1).logTransient 0xA0 t 0
  else bad (s.flag (.cmp t) 0x028 1)

/-- FLAGS.VRETRY. -/
def vretry (level : Nat) (v : VerifyEnv) : Nat := if level = 0 || v.first then 0 else 1

/-- The raw container that the owning tile writes itself, or the partner's work, for the oldest staged grain that is not yet
packed, when the tile's own compressor is retired (R166). -/
def State.inlineFallback (s : State) (t : Nat) : State :=
  let f := (s.tileAt t).ftl
  match f.staged.find? fun g => g.commit && !(f.stored.any fun y => y.key == g.key && !y.done) &&
      (match g.kind with | .data _ => true | _ => false) with
  | none => s
  | some g =>
    match g.kind, s.nsOf (g.key.nsx + 1) with
    | .data bytes, some ns =>
      let level := s.grainLevel t ns.nsx (BitVec.ofNat 16 g.epoch)
      let st := if s.partnerAccept t then storeGrain level (bytes.take ns.grain)
        else (false, grainBytes 0 level ns.grain (bytes.take ns.grain))
      let s1 := if s.partnerAccept t then s.count (.cmp (t ^^^ 1)) 0x090 1 else s
      match s1.pack t (streamFor ns.alt false) (st.2.length / 256) with
      | none => s1
      | some (l, sbn, s2) => s2.onTileAt t fun x => { x with ftl := { x.ftl with stored := x.ftl.stored ++
          [⟨g.key, l, st.2.length / 256, st.1, x.ftl.nextGen g.key, bytes, ns.keyTag, false, sbn, g.group, none⟩] } }
    | _, _ => s

/-- GRAIN: one grain compressed with empty history, verified and written as a stored grain (R163). On a tile whose compressor is
retired the grain goes to the partner or is stored raw (R166). -/
def execGrain (t : TileId) (verify : VerifyEnv) (s : State) : Out :=
  s.ends (if s.hasTile t && !s.cmpUp t then s.inlineFallback t
  else match s.cmpPick t with
    | none => s
    | some (q, s1) =>
      let d := s1.queueHead t (.cmp t) q 64
      if leAt d 0 1 ≠ 1 then s
      else if cmpInvalid d then s1.cmpRun t q d 0x0A 0 0 0 0
      else
        let size := leAt d 20 4
        let src := s1.readMem t (leAt d 16 4) size
        let level := s1.grainLevel t (leAt d 6 2) (BitVec.ofNat 16 (leAt d 8 2))
        let g := storeGrain level src
        s1.verified t level verify
          (fun s =>
            let s2 := ((s.writeMem t (leAt d 24 4) g.2).count (.cmp t) 0x080 (size / 256)).count (.cmp t) 0x084
              (g.2.length / 256)
            let s3 := if g.1 then s2 else s2.count (.cmp t) 0x088 1
            let s4 := if q = 1 then s3.count (.cmp t) 0x090 1 else s3
            s4.cmpRun t q d (if g.1 then 0 else 1) level (vretry level verify) size g.2.length)
          (fun s => (s.cmpRun t q d 0x09 level 1 0 0).retireComp t))

/-! ### Stream jobs (R169 to R172) -/

/-- The output buffers of a stream job: one buffer, or those of the chain table. -/
def State.cmpBufs (s : State) (t : Nat) (d : List Byte) : List (Nat × Nat) :=
  if bitN (leAt d 3 1) 2 then
    (List.range (leAt d 28 4)).map fun i =>
      let e := s.readMem t (leAt d 24 4 + 8 * i) 8
      (leAt e 0 4, leAt e 4 4)
  else [(leAt d 24 4, leAt d 28 4)]

/-- Bytes written into buffers in order. -/
def State.scatter (s : State) (t : Nat) (bufs : List (Nat × Nat)) (bs : List Byte) : State :=
  (bufs.foldl (fun (p : State × List Byte) b => (p.1.writeMem t b.1 (p.2.take b.2), p.2.drop b.2)) (s, bs)).1

/-- The save area that a context makes (R170): 32 KiB of history, a state whose layout belongs to the engine, and the CRC-32C. -/
def State.saveCtx (s : State) (t addr : Nat) (c : StreamCtx) : State :=
  let all := if c.op = 2 then c.input else c.output
  let fr := s.drawBytes 1020
  let body := fit 32768 (newest 32768 all) ++ fr.1
  let crc := (crc32c body).toNat
  (fr.2.writeMem t addr (body ++ leBytes 4 crc)).onTileAt t fun x => { x with comp := { x.comp with
    saves := x.comp.saves.filter (fun y => y.1 != addr) ++ [(addr, crc, c)] } }

/-- A save area restored (R170): its CRC, OP, FMT and CTX must agree with the descriptor. -/
def State.restoreCtx (s : State) (t : Nat) (d : List Byte) : Option StreamCtx :=
  let addr := leAt d 32 4
  let area := s.readMem t addr 33792
  let crc := (crc32c (area.take 33788)).toNat
  if leAt area 33788 4 ≠ crc then none
  else match (s.tiles.toList.flatMap fun x => x.comp.saves).find? fun y => y.2.1 == crc &&
      y.2.2.op == leAt d 0 1 && y.2.2.fmt == leAt d 1 1 && y.2.2.ctx == leAt d 4 2 with
    | some y => some y.2.2
    | none => none

/-- The context that a stream job works on, or the status that ends it without effect (R169, R170). -/
def State.streamCtx (s : State) (t : Nat) (d : List Byte) : Except Nat StreamCtx :=
  let fl := leAt d 3 1
  if bitN fl 3 then match s.restoreCtx t d with
    | some c => .ok c
    | none => .error 0x08
  else if bitN fl 0 then .ok ⟨leAt d 4 2, leAt d 0 1, leAt d 1 1, leAt d 2 1, [], []⟩
  else match (s.tileAt t).comp.live with
    | some c => if c.ctx = leAt d 4 2 ∧ c.op = leAt d 0 1 then .ok c else .error 0x07
    | none => .error 0x07

/-- The end of a stream job: the live context, its save, and the completion. -/
def State.cmpEnd (s : State) (t q : Nat) (d : List Byte) (live : Option StreamCtx) (save : Option StreamCtx)
    (status level flags inLen outLen : Nat) : State :=
  let s1 := s.onTileAt t fun x => { x with comp := { x.comp with live := live } }
  let s2 := match save with
    | some c => if bitN (leAt d 3 1) 4 then s1.saveCtx t (leAt d 32 4) c else s1
    | none => s1
  let s3 := (s2.count (.cmp t) 0x080 (inLen / 256)).count (.cmp t) 0x084 (outLen / 256)
  s3.cmpRun t q d status level flags inLen outLen

/-- COMPRESS: a stream job of the encoder (R160, R169 to R171). The level is sampled as min(LEVEL, GOVCAP) (R162). -/
def execCompress (t : TileId) (verify : VerifyEnv) (s : State) : Out :=
  s.ends (match s.cmpPick t with
    | none => s
    | some (q, s1) =>
      let d := s1.queueHead t (.cmp t) q 64
      if leAt d 0 1 ≠ 2 then s
      else if cmpInvalid d then s1.cmpRun t q d 0x0A 0 0 0 0
      else match s1.streamCtx t d with
        | .error st => s1.cmpRun t q d st 0 0 0 0
        | .ok c =>
          let fl := leAt d 3 1
          let level := min (if bitN fl 0 then leAt d 2 1 else c.level) s1.power.govcap
          let src := s1.readMem t (leAt d 16 4) (leAt d 20 4)
          let bufs := s1.cmpBufs t d
          let space := sumOf (bufs.map fun b => b.2)
          let hist := newest 32768 c.input
          let whole := c.input ++ src
          let out := (if bitN fl 0 then wrapOpen (leAt d 1 1) level else []) ++
            Config.deflate level hist src (bitN fl 1) ++ (if bitN fl 1 then wrapClose (leAt d 1 1) whole else [])
          s1.verified t level verify
            (fun s =>
              if out.length ≤ space then
                let c' : StreamCtx := { c with level := level, input := whole, output := c.output ++ out }
                (s.scatter t bufs out).cmpEnd t q d (if bitN fl 1 then none else some c') (some c') 0 level
                  (vretry level verify) src.length out.length
              else if !bitN fl 2 then
                s.cmpEnd t q d (s.tileAt t).comp.live (s.tileAt t).comp.live 0x03 level (vretry level verify) 0 0
              else
                let dr := s.draw
                let used := dr.1 % (src.length + 1)
                let c' : StreamCtx := { c with level := level, input := c.input ++ src.take used,
                                               output := c.output ++ out.take space }
                (dr.2.scatter t bufs (out.take space)).cmpEnd t q d (some c') (some c') 0x02 level (vretry level verify)
                  used space)
            (fun s => ((s.cmpEnd t q d none (some c) 0x09 level 1 0 0)).retireComp t))

/-- DECOMPRESS: a stream job of the decoder (R160, R169 to R172). The live context holds the stream's input, and each job gives the
output that follows what earlier jobs gave. -/
def execDecompress (t : TileId) (s : State) : Out :=
  s.ends (match s.cmpPick t with
    | none => s
    | some (q, s1) =>
      let d := s1.queueHead t (.cmp t) q 64
      if leAt d 0 1 ≠ 3 then s
      else if cmpInvalid d then s1.cmpRun t q d 0x0A 0 0 0 0
      else match s1.streamCtx t d with
        | .error st => s1.cmpRun t q d st 0 0 0 0
        | .ok c =>
          let fl := leAt d 3 1
          let xlen := leAt d 36 4
          let src := s1.readMem t (leAt d 16 4) (leAt d 20 4)
          let bufs := s1.cmpBufs t d
          let space := sumOf (bufs.map fun b => b.2)
          let given := c.output.length
          let lim := if xlen ≠ 0 ∧ xlen ≤ space then xlen else space
          let whole := c.input ++ src
          let r := inflateStream c.fmt (some (given + lim)) whole
          let out := r.out.drop given
          let used := ceilDiv r.used 8 - c.input.length
          let c' : StreamCtx := { c with input := whole.take (c.input.length + used), output := r.out }
          let fin (st : Nat) : State := (s1.scatter t bufs out).cmpEnd t q d (if bitN fl 1 then none else some c') (some c') st 0
            0 used out.length
          match r.stop with
          | .done => fin (if xlen ≠ 0 ∧ out.length ≠ xlen then 0x06 else 0)
          | .more => fin (if bitN fl 1 then (if xlen ≠ 0 ∧ out.length ≠ xlen then 0x06 else 0x04) else 0)
          | .format => fin 0x04
          | .check => fin 0x05
          | .full =>
            if xlen ≠ 0 ∧ xlen ≤ space then fin 0x06
            else if bitN fl 2 then (s1.scatter t bufs out).cmpEnd t q d (some c') (some c') 0x02 0 0 used out.length
            else s1.cmpEnd t q d (s1.tileAt t).comp.live (s1.tileAt t).comp.live 0x03 0 0 0 0)

/-- The grain that an ended inline job compressed is placed at the frontier of its stream (R113): the oldest staged grain of the
job's namespace whose bytes are the job's input. -/
def State.packJob (s : State) (t : Nat) (j : CmpJob) : State :=
  let nsx := leAt j.desc 6 2
  let src := s.readMem t (leAt j.desc 16 4) (leAt j.desc 20 4)
  let f := (s.tileAt t).ftl
  match s.nsOf (nsx + 1) with
  | none => s
  | some ns =>
    let fits (g : Staged) : Bool := match g.kind with
      | .data b => b.take ns.grain == src
      | .zero _ => false
    match f.staged.find? fun g => g.key.nsx == nsx && g.commit && fits g &&
        !(f.stored.any fun y => y.key == g.key && !y.done) with
    | none => s
    | some g =>
      match g.kind with
      | .zero _ => s
      | .data bytes => match s.pack t (streamFor ns.alt false) (j.outLen / 256) with
        | none => s
        | some (l, sbn, s1) => s1.onTileAt t fun x => { x with ftl := { x.ftl with stored := x.ftl.stored ++
            [⟨g.key, l, j.outLen / 256, j.status == 0, x.ftl.nextGen g.key, bytes, ns.keyTag, false, sbn, g.group, none⟩] } }

/-- CMP_JOB_COMPLETE: the running job ends and its completion entry is posted (R168, Table 7.5); an inline grain goes on to
packing (R113). -/
def execCmpJobComplete (t : TileId) (s : State) : Out :=
  s.ends (match (s.tileAt t).comp.running with
    | none => s
    | some j =>
      let s1 := s.onTile t fun x => { x with comp := { x.comp with running := none } }
      let entry := slice 12 4 j.desc ++ leBytes 1 j.status ++ leBytes 1 j.level ++ leBytes 1 j.flags ++ leBytes 1 0 ++
        leBytes 4 j.inLen ++ leBytes 4 j.outLen
      let s2 := s1.postComp t (.cmp t) 0x018 0x020 0x024 entry
      let s3 := if bitN (leAt j.desc 3 1) 5 then s2.flag (.cmp t) 0x028 0 else s2
      let s4 := if leAt j.desc 0 1 = 1 ∧ j.status ≤ 1 ∧ j.queue ≠ 1 then s3.packJob t j else s3
      s4.cmpStat t)

/-- CMP_QCTRL_EN_CLEAR: a queue is disabled; its untaken jobs end with FLUSHED in ring order (Table 7.7). -/
def execCmpQctrlEnClear (t : TileId) (qn : Fin 4) (s : State) : Out :=
  s.ends (if !s.hasTile t || !s.blockOn (.cmp t) then s.decErr (regAddr (.cmp t) (0x044 + 16 * qn)) 0
    else (s.flushQueue t (.cmp t) qn 0x018 0x020 0x024 64 fun d => slice 12 4 d ++ leBytes 1 0x0B ++ zeros 11).unflag
      (.cmp t) (0x044 + 16 * qn) 0)

end Sys2Proof.Machine
end

