-- ==== Sys2Proof/Machine/ScanOps.lean ====
section
/-! DEFINITION. Machine/ScanOps.lean: what SCAN, MATERIALIZE, LOOKUP and RANGE share: the check of a vendor command (R70), the
output stream (R187, R188), the target of a MATERIALIZE (R192), escalation and the end of a command (chapters 3 and 8). -/

namespace Sys2Proof

open Machine (bitN leAt zeroAt)

/-- Sift image slot: CDW13 [7:0] (Table 3.5). -/
def Sqe.slot (e : Sqe) : Nat := e.cdw13.toNat % 256

/-- RES (Table 3.5). -/
def Sqe.res (e : Sqe) : Bool := bitN e.cdw13.toNat 8

/-- The output bytes of a vendor command: CDW14, or the SGL's length when that is shorter (Table 3.10). -/
def Sqe.outBytes (e : Sqe) : Nat := if e.dptr.sgl then min e.cdw14.toNat e.dptr.len else e.cdw14.toNat

/-- TNSID (Table 3.6). -/
def Sqe.tnsid (e : Sqe) : Nat := leAt e.cpb 20 4

/-- Blocks of a SCAN or MATERIALIZE: CDW12, 0's based (Table 3.5). -/
def Sqe.nblocks (e : Sqe) : Nat := e.cdw12.toNat + 1

/-- The reserved fields of a vendor command's SQE and CPB, its lengths and its alignment (R67 to R69, Tables 3.5 and 3.6). -/
def Sqe.vendorForm (e : Sqe) : Bool :=
  let c13 := e.cdw13.toNat
  let z (o n : Nat) : Bool := zeroAt e.cpb o n
  let out : Bool := decide (131072 ≤ e.outBytes ∧ e.outBytes ≤ 268435456)
  let common : Bool := e.fuse == 0 && e.cdw3 == 0 && e.mptr.toNat % 128 == 0 && e.cdw15 == 0
  let noRange : Bool := e.cdw10 == 0 && e.cdw11 == 0 && e.cdw12 == 0
  common && (
    if e.opc = 0x82 then decide (c13 < 512) && out && z 16 112
    else if e.opc = 0x86 then noRange && decide (c13 < 256) && out && z 0 16 && z 17 15 && z 64 64
    else if e.opc = 0x8A then noRange && c13 / 2048 == 0 && out && z 18 14 && z 96 32
    else if e.opc = 0x8C then c13 / 8192 == 0 && !bitN c13 9 && !bitN c13 10 && e.cdw14 == 0 && z 16 4 && z 32 64 && z 100 28
    else decide (e.cdw10.toNat < 256) && e.cdw13 == 0 && decide (e.cdw12.toNat ≤ e.cdw14.toNat) && z 0 32 && z 96 32)

end Sys2Proof

namespace Sys2Proof.Machine

open Sys2Proof

/-! ### Slots and runs -/

/-- What a session has installed. -/
def State.slotsOf (s : State) (snum : Nat) : SlotSet := (s.sift.slots.find? fun x => x.snum == snum).getD { snum := snum }

/-- The state with what a session has installed changed. -/
def State.onSlots (s : State) (snum : Nat) (f : SlotSet → SlotSet) : State :=
  let x := f (s.slotsOf snum)
  { s with sift := { s.sift with slots := s.sift.slots.filter (fun y => y.snum != snum) ++ [x] } }

/-- The run of a command. -/
def State.runOf (s : State) (k : CmdKey) : Option ScanRun := s.sift.runs.find? fun r => r.key == k

/-- The state with a run replaced. -/
def State.setRun (s : State) (r : ScanRun) : State :=
  { s with sift := { s.sift with runs := s.sift.runs.map fun x => if x.key == r.key then r else x } }

/-! ### The check of a vendor command (R67 to R70) -/

/-- Step 2 of R70: the session that CDW2 names for the function that fetched the command, ACTIVE, with the rights asked for
(R67, R219, R223). -/
def State.vendorSession (s : State) (t : Track) (need : List (Nat × Nat)) : Option SesSnap :=
  match s.sessionOf t.sqe.cdw2.toNat t.key.fn with
  | none => none
  | some x =>
    let p := s.snapOf x
    if x.state = 1 ∧ need.all (fun n => (p.bits n.1 &&& n.2) == n.2) then some p else none

/-- Steps 2 to 5 of R70 that need no image: session and rights, range, readiness and key. Oversteps are counted in the function's
log (R235). -/
def State.vendorNs (s : State) (nsid : Nat) : NvmeStatus :=
  if !(s.nsRun nsid).ready then .notReady
  else if (s.nsRun nsid).keyLost then .keyLost
  else .success

/-- The image that a slot of a session holds, for a namespace's layout: none for C2h (R70 step 3). An image that escalates is used only
while the session has a sachet slot (R181). -/
def State.imageFor (s : State) (x : SesSnap) (slot nsid : Nat) : Option (List Byte × List Byte) :=
  match (s.slotsOf x.snum).images.find? (fun i => i.1 == slot), s.nsLayout nsid with
  | some i, some lay =>
    if leAt i.2 8 8 = layoutId lay ∧ (x.sslot.isSome ∨ imgEscalates i.2 = false) then some (i.2, lay) else none
  | _, _ => none

/-- Whether every field that an image names lies within the first grain of a large record (R176). -/
def largeOk (lay img : List Byte) (g : Nat) : Bool :=
  !isLarge lay g || (imgFields img).all fun i => fldPos lay i + fldWidth lay i ≤ g

/-- The modes that a command carries (R192, R208). -/
def modeFits (opc : Byte) (mode : Nat) : Bool :=
  if opc = 0x8C then mode == 1 || mode == 2 || mode == 6
  else if opc = 0x82 then true
  else mode != 3

/-- Step 6 of R70: OUSE, then the scan bytes asked for (R231). A quota ending is counted in the function's log (R423). -/
def State.quotaStep (s : State) (x : SesSnap) (scan : Nat) : Bool := s.outFits x.qbi && s.scanFits x.qbi scan

/-- C7h carries DNR 0 where OLIM ends the command (R231). -/
def State.failQuota (s : State) (k : CmdKey) (x : SesSnap) : State :=
  let c := Cqe.of k .quotaExceeded
  (s.logSession k.fn 1 0 x.handle).finish { c with dnr := s.outFits x.qbi }

/-! ### Output blocks (R187, R188) -/

/-- A length padded to a multiple of 8. -/
def pad8 (n : Nat) : Nat := ceilDiv n 8 * 8

/-- A block: header and padded payload (Table 8.7). -/
def outBlock (type src nrec lba : Nat) (payload : List Byte) : List Byte :=
  leBytes 1 type ++ leBytes 1 src ++ leBytes 2 nrec ++ leBytes 4 payload.length ++ leBytes 8 lba ++
    fit (pad8 payload.length) payload

/-- The bytes that a block with a payload takes, none for an empty payload. -/
def blockLen (n : Nat) : Nat := if n = 0 then 0 else 16 + pad8 n

/-- The END block's size: 224 bytes with AGG, otherwise 64 (R188). -/
def endLen (img : List Byte) : Nat := if imgMode img = 5 then 224 else 64

/-- The END block (Table 8.8). -/
def ScanRun.endBlock (r : ScanRun) (lba : Nat) : List Byte :=
  let agg := if imgMode r.ctx.image = 5 then
      fit 160 ((List.range r.aggs.length).flatMap fun i =>
        (r.aggs.getD i {}).bytes (isFloatType (fldType r.ctx.layout ((imgOut r.ctx.image).getD i 0))))
    else []
  outBlock 0x0F 0xFF 0 lba (leBytes 8 r.scanned ++ leBytes 8 r.passed ++ leBytes 8 r.emitted ++ leBytes 4 r.malf ++
    leBytes 4 r.escal ++ leBytes 4 r.empty ++ leBytes 4 r.lost ++ zeros 8 ++ agg)

/-- The first LBA of a grain. -/
def grainLba (ns : Namespace) (g : Nat) : Nat := g * ns.perGrain

/-- SRC of a grain's blocks: tile × 2 + cluster, the cluster by the channel that holds it (Table 8.7). -/
def State.srcOf (s : State) (ns : Namespace) (g : Nat) : Nat :=
  let p := grainPlace s.n ns.nsid g
  p.1 * 2 + ((s.tileAt p.1).ftl.entry ⟨ns.nsx, p.2⟩).loc.chan / 8

/-! ### The target of a MATERIALIZE (R192) -/

/-- Whole blocks of a namespace written at logical byte `start`, all within one grain, staged at once (R62, R65): the state, or the
status that refuses it. Blocks of a format with protection information take it as PRACT makes it, with application tag 0. -/
def State.stageBytes (s : State) (ns : Namespace) (start : Nat) (b : List Byte) (epoch : Nat) (who : MirrWho) (fua : Bool) :
    Except NvmeStatus State :=
  let g := start / ns.grain
  let p := grainPlace s.n ns.nsid g
  let key : GKey := ⟨ns.nsx, p.2⟩
  let f := (s.tileAt p.1).ftl
  let old := match f.read ns.keyTag key false with
    | .data x => fit ns.grainFull x
    | _ => zeros ns.grainFull
  let o := start % ns.grain
  let pi := if ns.mdSize = 0 then [] else (List.range (b.length / ns.blockSize)).flatMap fun i =>
    piOf (slice (i * ns.blockSize) ns.blockSize b) 0 (start / ns.blockSize + i)
  let new := patch (patch old o b) (ns.grain + o / ns.blockSize * ns.mdSize) pi
  let mirrored := (s.mirrorDef ns.nsid).isSome
  let grp := if mirrored then s.freeGroup.getD 0 else 0
  let st : Staged := ⟨key, .data new, none, grp, epoch, !mirrored, none⟩
  if s.writeGate ns.nsid ≠ .success then .error (s.writeGate ns.nsid)
  else if !s.judge p.1 ns.nsid st.units [key] || ((s.tileAt p.1).idx.full && (s.indexDecl ns.nsid).isSome) then
    .error .capacityExceeded
  else
    let s1 := s.onTileAt p.1 fun x => { x with ftl := { x.ftl with staged := x.ftl.staged ++ [st] } }
    if mirrored then
      .ok (s1.mirrChange ns.nsid grp who fua [⟨1, start / ns.blockSize, b.length / ns.blockSize, b ++ pi⟩]).2
    else .ok (s1.indexGrain p.1 ns.nsx p.2 new)

/-- Whether a grain would be stored compressed by its tile, or by the partner when the tile's compressor is retired (R166, R167). -/
def State.shrinks (s : State) (ns : Namespace) (g : Nat) (b : List Byte) : Bool :=
  let t := (grainPlace s.n ns.nsid g).1
  (s.cmpUp t || s.partnerAccept t) && (storeGrain (s.grainLevel t ns.nsx s.cinch.cur) b).1

/-- Target bytes staged: those of `m.buf` up to `upto` bytes of output, one target grain at most at a time. -/
def State.stageTarget (s : State) (qbi epoch : Nat) (m : MatRun) : Except NvmeStatus (MatRun × State) :=
  match s.nsOf m.tnsid with
  | none => .error .invalidNamespace
  | some ns =>
    let start := m.tslba * ns.blockSize + (m.pos - m.buf.length)
    let b := fit (ceilDiv m.buf.length ns.blockSize * ns.blockSize) m.buf
    if b = [] then .ok (m, s)
    else if !s.writeFits qbi ns.grain then .error .quotaExceeded
    else if m.reqz && !s.shrinks ns (start / ns.grain) (patch (zeros ns.grain) (start % ns.grain) b) then
      .error .compressVerifyFailed
    else match s.stageBytes ns start b epoch (.run m.key) m.fua with
      | .error e => .error e
      | .ok s1 =>
        .ok ({ m with buf := [], pos := m.pos - m.buf.length + b.length, blocks := m.blocks + b.length / ns.blockSize },
             s1.chargeWrite qbi ns.grain)

/-- Zero bytes up to a place `to`, and target grains that become full on the way staged. -/
def State.fillTarget (s : State) (qbi epoch : Nat) (m : MatRun) : Nat → List Byte → Except NvmeStatus (MatRun × State)
  | 0, _ => .ok (m, s)
  | fuel + 1, b =>
    match s.nsOf m.tnsid with
    | none => .error .invalidNamespace
    | some ns =>
      if b = [] then .ok (m, s)
      else
        let here := m.tslba * ns.blockSize + m.pos
        let left := ns.grain - here % ns.grain
        let m1 := { m with buf := m.buf ++ b.take left, pos := m.pos + min left b.length }
        if left ≤ b.length then
          match s.stageTarget qbi epoch m1 with
          | .error e => .error e
          | .ok (m2, s1) => s1.fillTarget qbi epoch m2 fuel (b.drop left)
        else .ok (m1, s)

/-- Where a record of `len` bytes begins in the output: at the frontier, or at the next target grain it may start in (R192, R176). -/
def placeAt (ns : Namespace) (m : MatRun) (len : Nat) : Nat :=
  let base := m.tslba * ns.blockSize
  let here := base + m.pos
  if len ≤ ns.grain then
    (if ns.grain < here % ns.grain + len then ceilDiv here ns.grain * ns.grain else here) - base
  else
    let unit := ns.grain * 2 ^ (((List.range 20).find? fun k => len ≤ ns.grain * 2 ^ k).getD 20)
    ceilDiv here unit * unit - base

/-- How a record goes to the target. -/
inductive Placed where
  | ok (m : MatRun) (s : State)
  | tooLong
  | full
  | fail (st : NvmeStatus)

/-- A record written to the target (R192). `framed` says that the output layout is LP or DELIM. -/
def State.placeRecord (s : State) (qbi epoch : Nat) (m : MatRun) (framed : Bool) (b : List Byte) : Placed :=
  match s.nsOf m.tnsid with
  | none => .fail .invalidNamespace
  | some ns =>
    if framed && ns.grain < b.length then .tooLong
    else
      let p := placeAt ns m b.length
      if m.room * ns.blockSize < p + b.length then .full
      else match s.fillTarget qbi epoch m (b.length + p) (zeros (p - m.pos) ++ b) with
        | .ok (m1, s1) => .ok m1 s1
        | .error e => .fail e

/-! ### The end of a command (R71, R72, R188, R190, R191) -/

/-- The token that names a record (Table 8.9, R191). What CHECK covers is joined in the order that R191 lists it. -/
def State.scanToken (s : State) (r : ScanRun) (e : Sqe) (next rec_ : Nat) : List Byte :=
  let cover := leBytes 4 e.nsid.toNat ++ leBytes 4 e.cdw2.toNat ++ leBytes 1 e.slot ++ shake256 r.ctx.image 32 ++
    leBytes 8 e.slba ++ leBytes 4 e.cdw12.toNat ++ leBytes 8 next ++ leBytes 2 rec_
  leBytes 8 next ++ leBytes 2 rec_ ++ leBytes 1 1 ++ zeros 1 ++ kmac256 (s.slotKey 8) (ascii "LTRTOK") cover 4

/-- The token of a query: the position goes to a cursor of the session (Table 9.8, R210). The fifth cursor replaces the one
written longest ago. -/
def State.queryToken (s : State) (t : Track) (x : SesSnap) (pos : IdxPos) : List Byte × State :=
  let sl := s.slotsOf x.snum
  let num := if sl.cursors.length < 4 then leastUnused (sl.cursors.map fun c => c.num)
    else ((sl.cursors.head?).map fun c => c.num).getD 0
  let seq := sl.cseq + 1
  let s1 := s.onSlots x.snum fun y => { y with
    cursors := y.cursors.filter (fun c => c.num != num) ++ [⟨num, seq, pos⟩], cseq := seq }
  let e := t.sqe
  let look := e.opc == 0x86
  let klo := slice 32 32 e.cpb
  let khi := if look then klo else slice 64 32 e.cpb
  let cover := leBytes 4 e.nsid.toNat ++ leBytes 4 e.cdw2.toNat ++ leBytes 1 e.slot ++ slice 16 1 e.cpb ++
    (if look then slice 16 1 e.cpb else slice 17 1 e.cpb) ++ klo ++ khi ++ leBytes 1 (b2n (!look && bitN e.cdw13.toNat 9)) ++
    leBytes 1 (b2n (!look && bitN e.cdw13.toNat 10)) ++ leBytes 1 num ++ leBytes 4 seq
  (leBytes 1 num ++ leBytes 1 2 ++ zeros 2 ++ leBytes 4 seq ++ zeros 4 ++
    kmac256 (s.slotKey 8) (ascii "LTRTOK") cover 4, s1)

/-- The matches of a query in their order: the first that the run has not served. -/
def ScanRun.pos (r : ScanRun) (ridx : Nat) : Option IdxPos :=
  match r.items with
  | some (i :: _) => some ⟨i.key.take i.klen, i.gidx, ridx⟩
  | _ => r.more

/-- DW0 and DW1 (Table 3.7). -/
def ScanRun.words (r : ScanRun) (out : Nat) : Nat × Nat :=
  let m := imgMode r.ctx.image
  (match r.mat with
   | some t => t.blocks
   | none => out,
   if r.items.isSome then r.scanned else if m = 4 ∨ m = 5 then r.passed else r.emitted)

/-- Whether everything that a MATERIALIZE staged is in flash (R62). -/
def State.targetDurable (s : State) (m : MatRun) : Bool :=
  s.tiles.toList.all fun x => !(x.ftl.staged.any fun g => g.key.nsx + 1 == m.tnsid && g.commit)

/-- The completion of a run: its data, END block, token and counts. `lba` and `rec_` name the next record. -/
def State.scanFinish (s : State) (r : ScanRun) (st : NvmeStatus) (g rec_ : Nat) (lba : Nat) : State :=
  match s.track r.key with
  | none => s
  | some t =>
    let closes := st == .success || st == .outputExhausted || st == .abortRequested
    let data := if r.mat.isSome then [] else r.out ++ (if closes then r.endBlock lba else [])
    let w := r.words data.length
    let c := Cqe.of r.key st w.1 w.2 data
    if st ≠ .outputExhausted then s.finish c
    else match r.items, t.ses with
      | some _, some x => match r.pos rec_ with
        | some p =>
          let tk := s.queryToken t x p
          tk.2.finish { c with token := tk.1 }
        | none => s.finish c
      | _, _ => s.finish { c with token := s.scanToken r t.sqe g rec_ }

/-- A run ends (R188): scan bytes of grains not read are refunded (R190), the rest of the target is staged with its last block
zero-filled, and a command whose target writes must be durable waits for that (R62, FUA). -/
def State.scanEnd (s : State) (r : ScanRun) (st : NvmeStatus) (g rec_ : Nat) (lba : Nat) : State :=
  match s.track r.key with
  | none => s
  | some t =>
    let qbi := (t.ses.map fun x => x.qbi).getD 0
    let s1 := if r.items.isNone then s.refundScan qbi (r.charged - r.readB) else s
    match r.mat with
    | none => s1.scanFinish r st g rec_ lba
    | some m =>
      match s1.stageTarget qbi t.epoch.toNat m with
      | .error e => s1.scanFinish r (if st = .success then e else st) g rec_ lba
      | .ok (m1, s2) =>
        let r1 := { r with mat := some m1 }
        if st = .success && (s2.mirrWaits (.run r.key) ||
            ((m.fua || s2.writeThrough t) && m1.blocks != 0 && !s2.targetDurable m1)) then
          s2.setRun { r1 with ending := some st }
        else s2.scanFinish r1 st g rec_ lba

/-! ### One grain (R176 to R188) -/

/-- Blocks out of range or already answered are left out: the records of a grain that belong to the command (R190). -/
def ScanRun.frameIt (r : ScanRun) (gidx : Nat) (b : List Byte) (only : Option (List Nat)) : CurGrain :=
  let c := r.ctx
  let rs := frame c.layout c.grain gidx b
  let mine (i : Nat) (x : Rec) : Bool := match only with
    | some l => l.contains i
    | none =>
      let a := gidx * c.grain + x.off
      r.lo ≤ a && a < r.hi && (gidx != r.next || r.rec0 ≤ i)
  let recs := (List.range rs.length).filterMap fun i =>
    match rs[i]? with
    | none => none
    | some x =>
      if !mine i x then none
      else
        let bytes := slice x.off x.len b
        let esc (reason v : Nat) : Option RecState := some ⟨i, x.off, x.len, v, some { reason := reason, bytes := bytes }⟩
        match judgeRecord c.layout c.image c.sets x b with
        | .malf => if imgMalform c.image then esc 2 2 else some ⟨i, x.off, x.len, 2, none⟩
        | .undecided => esc 1 0
        | .pass => if imgMode c.image = 7 then esc 3 1 else some ⟨i, x.off, x.len, 1, none⟩
        | .drop => some ⟨i, x.off, x.len, 0, none⟩
  ⟨gidx, b, recs, rs.length, none⟩

/-- The blocks of one grain while its records are emitted. -/
structure Emit where
  r     : ScanRun
  recs  : List Byte := []
  nrec  : Nat := 0
  sach  : List Byte := []
  bits  : List Nat := []
  /-- Continuation grains that withheld a record. -/
  gaps  : List Nat := []
  /-- The record at which the command stops, with its status. -/
  stop  : Option (Nat × NvmeStatus) := none

/-- The bytes that the blocks of a grain take. -/
def Emit.size (e : Emit) (total : Nat) : Nat :=
  blockLen e.recs.length + blockLen e.sach.length + 16 * e.gaps.length +
    (if imgMode e.r.ctx.image = 3 then 16 + pad8 (ceilDiv total 8) else 0)

/-- The continuation grains of a large record read: their bytes, or the grain that cannot be had (R176, R180, R186). -/
def State.contGrains (s : State) (ns : Namespace) (env : MediaEnv) : Nat → Nat → (Except Nat (List Byte × Nat) × State)
  | _, 0 => (.ok ([], 0), s)
  | g, k + 1 =>
    let x := s.readGrain ns g env
    let rest := x.2.contGrains ns env (g + 1) k
    match x.1, rest.1 with
    | .lost, _ => (.error g, x.2)
    | _, .error e => (.error e, rest.2)
    | .zeros, .ok (b, n) => (.ok (zeros ns.grain ++ b, n), rest.2)
    | .data d, .ok (b, n) => (.ok (d.take ns.grain ++ b, n + 1), rest.2)

/-- Aggregates of a passing record. -/
def ScanRun.aggregate (r : ScanRun) (x : List Byte) : ScanRun :=
  if imgMode r.ctx.image = 5 then
    { r with aggs := (List.range (imgOut r.ctx.image).length).map fun i =>
        (r.aggs.getD i {}).add (fldValue r.ctx.layout x ((imgOut r.ctx.image).getD i 0)) }
  else r

/-- One record emitted, in record order. -/
def State.emitRecord (s : State) (ns : Namespace) (qbi epoch : Nat) (c : CurGrain) (e : Emit) (x : RecState) : Emit × State :=
  if e.stop.isSome then (e, s)
  else if c.stopAt == some x.ridx then ({ e with stop := some (x.ridx, .outputExhausted) }, s)
  else
    let r := e.r
    let ctx := r.ctx
    let mode := imgMode ctx.image
    let bytes := slice x.off x.len c.bytes
    let passed := match x.esc with
      | some q => if q.reason = 1 then q.keep else x.verdict == 1
      | none => x.verdict == 1
    let r1 := { r with
      malf := r.malf + b2n (x.verdict == 2)
      scanned := r.scanned + b2n (x.verdict != 2)
      escal := r.escal + b2n x.esc.isSome, passed := r.passed + b2n passed }
    let r2 := if passed then r1.aggregate bytes else r1
    let wants := passed && (mode == 1 || mode == 2 || (mode == 6 && sampleHit ctx.image ctx.nsid c.gidx x.ridx))
    let sach := e.sach ++ ((x.esc.map fun q => q.out).getD [])
    let e1 := { e with r := r2, sach := sach, bits := if passed then e.bits ++ [x.ridx] else e.bits }
    -- the record's output, with the continuation grains of a large record
    let large := isLarge ctx.layout ctx.grain && mode != 2 && wants
    let got : Except Nat (List Byte × Nat) × State :=
      if large then s.contGrains ns r.env (c.gidx + 1) (ceilDiv (layRec ctx.layout) ctx.grain - 1) else (.ok ([], 0), s)
    let s1 := got.2
    match got.1 with
    | .error gap =>
      let e2 := { e1 with gaps := e.gaps ++ [gap], r := { r2 with lost := r2.lost + 1 } }
      if r.mat.isNone && r.space < r.out.length + e2.size c.total then ({ e with stop := some (x.ridx, .outputExhausted) }, s1)
      else (e2, s1)
    | .ok (more, reads) =>
      let out := if !wants then []
        else if mode = 2 then (if r.mat.isSome then derivedRecord ctx.layout ctx.image bytes else projOut ctx.layout ctx.image bytes)
        else (bytes ++ more).take (if large then layRec ctx.layout else x.len)
      let r3 := { r2 with readB := r2.readB + reads * ctx.grain }
      match r.mat with
      | some m =>
        if !wants then ({ e1 with r := r3 }, s1)
        else
          let framed := if mode = 2 then derivedVar ctx.layout ctx.image else layKind ctx.layout != 0
          match s1.placeRecord qbi epoch m framed out with
          | .ok m1 s2 => ({ e1 with r := { r3 with mat := some m1, emitted := r3.emitted + 1 } }, s2)
          | .tooLong => ({ e1 with r := { r3 with malf := r3.malf + 1 } }, s1)
          | .full => ({ e with stop := some (x.ridx, .outputExhausted) }, s1)
          | .fail st => ({ e with stop := some (x.ridx, st) }, s1)
      | none =>
        let e2 := if wants then { e1 with recs := e.recs ++ out, nrec := e.nrec + 1,
                                          r := { r3 with emitted := r3.emitted + 1 } } else { e1 with r := r3 }
        if r.space < r.out.length + e2.size c.total then ({ e with stop := some (x.ridx, .outputExhausted) }, s1) else (e2, s1)

/-- The blocks of a grain in its place in the stream: RECS, BITS, SACHET, GAP. -/
def State.closeBlocks (s : State) (ns : Namespace) (c : CurGrain) (e : Emit) : ScanRun :=
  let lba := grainLba ns c.gidx
  let src := s.srcOf ns c.gidx
  let recs := if e.nrec = 0 then [] else outBlock 0x01 src e.nrec lba e.recs
  let bits := if imgMode e.r.ctx.image = 3 ∧ c.recs ≠ [] then
      outBlock 0x02 src c.total lba (leBytes (ceilDiv c.total 8) (sumOf (e.bits.map fun i => 2 ^ i))) else []
  let sach := if e.sach = [] then [] else outBlock 0x03 src 0 lba e.sach
  let gaps := e.gaps.flatMap fun g => outBlock 0x04 (s.srcOf ns g) 0 (grainLba ns g) []
  { e.r with out := if e.r.mat.isSome then e.r.out else e.r.out ++ recs ++ bits ++ sach ++ gaps }

/-- The LBA of the first byte of a record. -/
def recLba (ns : Namespace) (c : CurGrain) (ridx : Nat) : Nat :=
  grainLba ns c.gidx + ((c.recs.find? fun x => x.ridx == ridx).map fun x => x.off / ns.blockSize).getD 0

/-- A grain whose records are all decided is emitted. `forced` stops the command at a record with a status. The Bool says that the
command goes on. -/
def State.emitGrain (s : State) (r : ScanRun) (c : CurGrain) (forced : Option (Nat × NvmeStatus)) : Bool × State :=
  match s.nsOf r.ctx.nsid, s.track r.key with
  | some ns, some t =>
    let qbi := (t.ses.map fun x => x.qbi).getD 0
    let todo : List RecState := match forced with
      | some f => c.recs.filter fun (x : RecState) => x.ridx < f.1
      | none => c.recs
    let p := todo.foldl (fun (p : Emit × State) (x : RecState) => p.2.emitRecord ns qbi t.epoch.toNat c p.1 x) ({ r := r }, s)
    let r1 := p.2.closeBlocks ns c p.1
    let r2 := { r1 with cur := none }
    match (p.1.stop.orElse fun _ => forced) with
    | some (ridx, st) => (false, p.2.scanEnd { r2 with items := r.items } st c.gidx ridx (recLba ns c ridx))
    | none =>
      let items := r.items.map fun (l : List QItem) => l.drop 1
      (true, p.2.setRun { r2 with next := c.gidx + 1, rec0 := 0, items := items })
  | _, _ => (false, s)

/-- The rest of an output stream after an item that yields no block. -/
def ScanRun.skip (r : ScanRun) : ScanRun :=
  { r with next := r.next + 1, rec0 := 0, items := r.items.map fun l => l.drop 1 }

/-- Whether an item's key still matches a query record: it is taken from the record again (R207). -/
def State.keyHolds (s : State) (r : ScanRun) (b : List Byte) (gidx : Nat) (q : QItem) (ridx : Nat) : Bool :=
  match s.indexDecl r.ctx.nsid, (frame r.ctx.layout r.ctx.grain gidx b)[ridx]? with
  | some decl, some x => !x.malf && (match recordKey decl r.ctx.layout (slice x.off x.len b) with
      | some k => k.1 == q.key.take q.klen
      | none => false)
  | _, _ => false

/-- The work of a run until it ends or waits: for the answer to an escalated record, or for room in an overlay (R102). -/
def State.scanGo (s : State) (k : CmdKey) : Nat → State
  | 0 => s
  | fuel + 1 =>
    match s.runOf k with
    | none => s
    | some r =>
      if r.ending.isSome then s
      else match r.cur with
      | some c =>
        if c.recs.any fun x => (x.esc.map fun q => q.phase != 2).getD false then s
        else
          let p := s.emitGrain r c none
          if p.1 then p.2.scanGo k fuel else p.2
      | none =>
        match s.nsOf r.ctx.nsid with
        | none => s
        | some ns =>
          let item : Option (Nat × Option QItem) := match r.items with
            | some (q :: _) => some (q.gidx, some q)
            | some [] => none
            | none => if r.next < r.endG then some (r.next, none) else none
          match item with
          | none => s.scanEnd r (if r.more.isSome then .outputExhausted else .success) 0 0
              (if r.items.isSome then 0 else r.hi / ns.blockSize)
          | some (g, q) =>
            if r.mat.isSome && s.tiles.toList.any (fun x => x.ftl.full) then s
            else
              let x := s.readGrain ns g r.env
              match x.1 with
              | .zeros => (x.2.setRun { r.skip with empty := r.empty + 1 }).scanGo k fuel
              | .lost =>
                -- a grain that the map already calls LOST has no place to read (R86, R190)
                let p := grainPlace s.n ns.nsid g
                let issued := if ((s.tileAt p.1).ftl.entry ⟨ns.nsx, p.2⟩).state = .stored then ns.grain else 0
                if r.mat.isNone && r.space < r.out.length + 16 then
                  x.2.scanEnd { r with readB := r.readB + issued } .outputExhausted g r.rec0 (grainLba ns g)
                else
                  let gap := if r.mat.isSome then [] else outBlock 0x04 (x.2.srcOf ns g) 0 (grainLba ns g) []
                  (x.2.setRun { r.skip with lost := r.lost + 1, readB := r.readB + issued, out := r.out ++ gap }).scanGo k fuel
              | .data d =>
                let b := d.take ns.grain
                let only := q.map fun q => (q.recs.filter fun y => x.2.keyHolds r b g q y.1).map fun y => y.1
                let c := r.frameIt g b only
                if imgMode r.ctx.image = 3 ∧ c.recs ≠ [] ∧ r.space < r.out.length + 16 + pad8 (ceilDiv c.total 8) then
                  x.2.scanEnd r .outputExhausted g r.rec0 (grainLba ns g)
                else
                  -- a query is charged for the grains that it reads (R211)
                  let qbi := ((s.track k).bind fun t => t.ses.map fun y => y.qbi).getD 0
                  if r.items.isSome && x.2.scanSpent qbi then
                    x.2.scanEnd r .outputExhausted g (((q.bind fun q => q.recs.head?).map fun y => y.1).getD 0) (grainLba ns g)
                  else
                    let s1 := if r.items.isSome then x.2.chargeScan qbi ns.grain else x.2
                    (s1.setRun { r with cur := some c, readB := r.readB + ns.grain }).scanGo k fuel

/-- Fuel that covers a run. -/
def ScanRun.fuel (r : ScanRun) : Nat := 4 * (r.endG - r.next) + 4 * ((r.items.map fun l => l.length).getD 0) + 8

/-- A run driven on, until it ends or waits. `State.drive` also gives its escalated records to the runtime. -/
def State.driveRaw (s : State) (k : CmdKey) : State :=
  match s.runOf k with
  | some r => s.scanGo k r.fuel
  | none => s

/-- A run stopped at its first undecided record with a status (R185, R225, R231). -/
def State.stopRun (s : State) (k : CmdKey) (st : NvmeStatus) (dw1 : Option Nat) : State :=
  match s.runOf k with
  | none => s
  | some r =>
    let r1 := match dw1 with
      | some v => { r with emitted := v, scanned := v, passed := v }
      | none => r
    match r.cur with
    | some c =>
      match c.recs.find? fun x => (x.esc.map fun q => q.phase != 2).getD false with
      | some x =>
        -- the cause code of C8h replaces the count of DW1 (R71)
        match dw1, s.nsOf r.ctx.nsid, s.track k with
        | some v, some ns, some t =>
          let todo := c.recs.filter fun y => y.ridx < x.ridx
          let qbi := (t.ses.map fun y => y.qbi).getD 0
          let p := todo.foldl (fun (p : Emit × State) (y : RecState) => p.2.emitRecord ns qbi t.epoch.toNat c p.1 y) ({ r := r }, s)
          let r2 := { (p.2.closeBlocks ns c p.1) with cur := none, emitted := v, scanned := v, passed := v }
          p.2.scanEnd r2 st c.gidx x.ridx (recLba ns c x.ridx)
        | _, _, _ => (s.emitGrain r c (some (x.ridx, st))).2
      | none => (s.emitGrain r c (some (r.rec0, st))).2
    | none => s.scanEnd r1 st r.next r.rec0 (match s.nsOf r.ctx.nsid with
        | some ns => grainLba ns r.next
        | none => 0)

end Sys2Proof.Machine
end

