-- ==== Sys2Proof/Machine/RunOps.lean ====
section
/-! DEFINITION. Machine/RunOps.lean: sachets and the runtime that schedules them: images, areas, seal tags, the scheduler, and how an
invocation begins and ends (chapters 10 and 13). -/

namespace Sys2Proof.Machine

open Sys2Proof

/-! ### The image header (Table 13.1) -/

/-- FLAGS.SERIAL. -/
def imgSerial (m : List Byte) : Bool := bitN (at1 m 5) 0
/-- NENTRY. -/
def sachetEntries (m : List Byte) : Nat := at1 m 6
/-- ESCENTRY. -/
def sachetEscEntry (m : List Byte) : Nat := at1 m 7
/-- CODELEN. -/
def sachetCode (m : List Byte) : Nat := leAt m 8 4
/-- DATALEN. -/
def sachetData (m : List Byte) : Nat := leAt m 12 4
/-- BSSLEN. -/
def sachetBss (m : List Byte) : Nat := leAt m 16 4
/-- SPILLLEN. -/
def sachetSpill (m : List Byte) : Nat := leAt m 20 4
/-- SHAREDLEN. -/
def sachetShared (m : List Byte) : Nat := leAt m 24 4
/-- RUNMAX, µs. -/
def sachetRunMax (m : List Byte) : Nat := leAt m 28 4
/-- ENTRY[e]. -/
def sachetEntry (m : List Byte) (e : Nat) : Nat := leAt m (64 + 4 * e) 4

/-- SHAKE256 over bytes 0–31, bytes 64–127, the code and the data. -/
def sachetDigest (m : List Byte) : List Byte := shake256 (m.take 32 ++ m.drop 64) 32

/-- The seal tag of an image for a session (R278). -/
def State.sealTag (s : State) (m : List Byte) (handle : Nat) : List Byte :=
  kmac256 (s.slotKey 9) (ascii "LTRSCH") (slice 32 32 m ++ leBytes 4 handle) 32

/-- The sachet of a session. -/
def State.sachetOf (s : State) (snum : Nat) : Option Sachet := s.cores.sachets.find? fun x => x.snum == snum

/-- The state with the sachet of a session changed. -/
def State.onSachet (s : State) (snum : Nat) (f : Sachet → Sachet) : State :=
  { s with cores := { s.cores with sachets := s.cores.sachets.map fun x => if x.snum == snum then f x else x } }

/-! ### Threads and contexts -/

/-- A thread that the tile steward has started, or that an invocation runs on. -/
def State.thr (s : State) (h : ThrId) : Option Thread := s.cores.threads.find? fun x => x.id == h

/-- The state with a thread written. -/
def State.setThr (s : State) (x : Thread) : State :=
  { s with cores := { s.cores with threads := s.cores.threads.filter (fun y => y.id != x.id) ++ [x] } }

/-- The state with a thread back in the runtime's hands. -/
def State.dropThr (s : State) (h : ThrId) : State :=
  { s with cores := { s.cores with threads := s.cores.threads.filter fun y => y.id != h } }

/-- The invocations of a tile, running and parked. -/
def State.jobsOn (s : State) (t : Nat) : List Job :=
  ((s.cores.threads.filter fun x => x.id.tile.val == t).filterMap fun x => x.job) ++
    (s.cores.parked.filter fun p => p.1 == t).filterMap fun p => p.2.job

/-- Threads that a session holds on a tile. -/
def State.threadsHeld (s : State) (t snum : Nat) : Nat :=
  (s.cores.threads.filter fun x => x.id.tile.val == t && (x.job.map fun j => j.snum == snum).getD false).length

/-- Whether a hardware thread can take a session's work: its core is on, it is not stopped, and no sachet runs on it; one that the
steward has started is in steward mode (R253, R254). -/
def State.thrFree (s : State) (h : ThrId) : Bool :=
  s.hasTile h.tile && h.core.val < 8 && s.blockOn (.core h.tile) &&
  match s.thr h with
  | none => true
  | some x => x.running && x.steward && x.stop.isNone && x.job.isNone

/-- The hardware threads of a tile. -/
def threadIds (t : Nat) : List ThrId :=
  (List.range 16).map fun i => ⟨Fin.ofNat 8 t, Fin.ofNat 9 (i / 2), Fin.ofNat 2 (i % 2)⟩

/-! ### The program pool (R281, R299) -/

/-- The ranges of a tile's program pool: banks 0 and 1, and the scratch that is not a replacement for a bank (R299, R314). -/
def State.poolParts (s : State) (t : Nat) : List (Nat × Nat) :=
  let scr := s.scr t
  [(0, 0x100000), (0x01800000, (if scr ≤ 8 then scr else 16 - scr) * 0x40000)]

/-- The first place in the pool that holds `n` bytes clear of the ranges in use and of retired banks; where an area lies within the
pool is the model's choice. -/
def State.poolFind (s : State) (t n : Nat) : Option Nat :=
  let used := (s.cores.pool.filter fun p => p.tile == t).map fun p => (p.base, p.size)
  let bad := ((List.range 2).filter fun b => s.bankRetired (memKey t (b * 0x80000))).map fun b => (b * 0x80000, 0x80000)
  let busy := used ++ bad
  let free (a : Nat) : Bool := busy.all fun u => a + n ≤ u.1 || u.1 + u.2 ≤ a
  (s.poolParts t).findSome? fun part =>
    ((part.1 :: (busy.map fun u => u.1 + u.2)).filter fun a => part.1 ≤ a && a + n ≤ part.1 + part.2 && free a).foldl
      (fun (m : Option Nat) a => match m with
        | some b => some (min a b)
        | none => some a) none

/-- A range of the pool taken for a session; an empty range takes nothing. -/
def State.poolTake (s : State) (t n snum : Nat) : Option (Nat × State) :=
  if n = 0 then some (0, s)
  else (s.poolFind t n).map fun a => (a, { s with cores := { s.cores with pool := s.cores.pool ++ [⟨t, a, n, snum⟩] } })

/-- Bytes of a tile's own memory zeroed. -/
def State.zeroRange (s : State) (t a n : Nat) : State :=
  let k := memKey t a
  let keep (x : Nat) : Bool := !(k ≤ x && x < k + n) || s.bankRetired x
  { s with mem := { s.mem with cells := s.mem.cells.filter (fun c => keep c.1), poison := s.mem.poison.filter keep } }

/-- The area of a thread of a session on a tile: one that no invocation uses, or a new one when the pool can hold it (R281). -/
def State.areaFor (s : State) (t : Nat) (c : Sachet) : Option (ThrArea × State) :=
  let busy := ((s.jobsOn t).filter fun j => j.snum == c.snum).map fun j => j.area
  match s.cores.areas.find? fun a => a.tile == t && a.snum == c.snum && !busy.contains a.idx with
  | some a => some (a, s)
  | none =>
    let m := c.image
    let idx := leastUnused ((s.cores.areas.filter fun a => a.tile == t && a.snum == c.snum).map fun a => a.idx)
    match s.poolTake t (sachetData m + sachetBss m) c.snum with
    | none => none
    | some (p, s1) => match s1.poolTake t (sachetSpill m) c.snum with
      | none => none
      | some (sp, s2) => match s2.poolTake t 65536 c.snum with
        | none => none
        | some (i, s3) => match s3.poolTake t 65536 c.snum with
          | none => none
          | some (o, s4) => match s4.poolTake t 16384 c.snum with
            | none => none
            | some (h, s5) =>
              let a : ThrArea := { tile := t, snum := c.snum, idx := idx, priv := p, spill := sp, inW := i, outW := o, hold := h }
              let s6 := ((s5.zeroRange t i 65536).zeroRange t o 65536).zeroRange t h 16384
              some (a, { s6 with cores := { s6.cores with areas := s6.cores.areas ++ [a] } })

/-- The area of a job. -/
def State.areaOf (s : State) (t : Nat) (j : Job) : Option ThrArea :=
  s.cores.areas.find? fun a => a.tile == t && a.snum == j.snum && a.idx == j.area

/-- Private data and spill stack initialised (R282). -/
def State.initArea (s : State) (c : Sachet) (a : ThrArea) : State :=
  let m := c.image
  let s1 := (s.zeroRange a.tile a.priv (sachetData m + sachetBss m)).zeroRange a.tile a.spill (sachetSpill m)
  let s2 := s1.writeMem a.tile a.priv (slice (128 + sachetCode m) (sachetData m) m)
  { s2 with cores := { s2.cores with areas := s2.cores.areas.map fun x => if x == a then { a with ready := true } else x } }

/-- A region descriptor: base, length and the permission bits R 1, W 2, X 3 with V 0. -/
def rgnOf (base len perm : Nat) : Rgn :=
  if len = 0 then {} else ⟨BitVec.ofNat 32 base, BitVec.ofNat 32 (base + len - 64 + perm)⟩

/-- The eight descriptors of a sachet thread (Table 13.4). -/
def State.regionsOf (_s : State) (c : Sachet) (a : ThrArea) (holdOk : Bool) : List Rgn :=
  let m := c.image
  [rgnOf ((kvGet a.tile c.code).getD 0) (sachetCode m) 11, rgnOf a.priv (sachetData m + sachetBss m) 7,
   rgnOf a.spill (sachetSpill m) 7, rgnOf a.inW 65536 3, rgnOf a.outW 65536 7,
   rgnOf ((kvGet a.tile c.shared).getD 0) (sachetShared m) 7, if holdOk then rgnOf a.hold 16384 3 else {}, {}]

/-! ### Classes and virtual time (R233) -/

/-- The product of the weights 1 to 255: a time q of weight W adds q × weightUnit ÷ W, which is whole. -/
def weightUnit : Nat := (List.range 255).foldl (fun a i => a * (i + 1)) 1

/-- W_c of a tile: a weight of 0 acts as 1 (Table 10.9). -/
def State.weight (s : State) (t c : Nat) : Nat := max 1 (field (s.eff (.core t) 0x104) (8 * c + 7) (8 * c))

/-- V_c. -/
def State.vtimeOf (s : State) (t c : Nat) : Nat := (kvGet (t * 4 + c) s.ses.vtime).getD 0

/-- V_c set. -/
def State.setVtime (s : State) (t c v : Nat) : State := { s with ses := { s.ses with vtime := kvSet (t * 4 + c) v s.ses.vtime } }

/-- Whether a class has runnable work on a tile. -/
def State.classRuns (s : State) (t c : Nat) : Bool :=
  (s.cores.queue.any fun w => w.tile == t && w.cls == c) ||
    s.cores.threads.any fun x => x.id.tile.val == t && (x.job.map fun j =>
      ((s.track j.key).bind fun k => k.ses.map fun y => y.cls == c).getD false).getD false

/-- Work put into a tile's queue. A class that was idle takes the smallest V of the classes that run (R233). -/
def State.enqueue (s : State) (w : Waiting) : State :=
  let others := (List.range 4).filter fun c => c != w.cls && s.classRuns w.tile c
  let s1 := if s.classRuns w.tile w.cls then s
    else match firstBy (fun a b => decide (a < b)) (others.map fun c => s.vtimeOf w.tile c) with
      | some v => s.setVtime w.tile w.cls v
      | none => s
  { s1 with cores := { s1.cores with queue := s1.cores.queue ++ [w] } }

/-- The escalated records of a run that wait and are not queued yet, put into the queue of their tile in record order; those that no
longer wait are taken out (R185, R287). -/
def State.queueEsc (s : State) (k : CmdKey) : State :=
  match s.runOf k, s.track k with
  | some r, some t =>
    let c := r.cur
    let waits (g i : Nat) : Bool := (c.map fun c => c.gidx == g && c.recs.any fun x =>
      x.ridx == i && (x.esc.map fun e => e.phase == 0).getD false).getD false
    let s1 : State := { s with cores := { s.cores with queue := s.cores.queue.filter fun w => match w.what with
      | .esc k' g i => k' != k || waits g i
      | _ => true } }
    match c, t.ses with
    | some c, some x =>
      let tile := (grainPlace s.n r.ctx.nsid c.gidx).1
      (c.recs.filter fun y => waits c.gidx y.ridx).foldl (fun (s : State) y =>
        if s.cores.queue.any fun w => w.what == .esc k c.gidx y.ridx then s
        else s.enqueue ⟨tile, x.snum, x.cls, .esc k c.gidx y.ridx⟩) s1
    | _, _ => s1
  | _, _ => s

/-- A thread that gives up its core after `held` µs: V_c and CUSE advance (R231, R233). -/
def State.giveUp (s : State) (t : Nat) (j : Job) (held : Nat) : State :=
  match (s.track j.key).bind fun k => k.ses with
  | some x => (s.setVtime t x.cls (s.vtimeOf t x.cls + held * weightUnit / s.weight t x.cls)).chargeCore x.qbi held
      |>.quotaGrant (2 + t)
  | none => s

/-! ### How an invocation ends (R291, R292, R185) -/

/-- A RUN completed: its output, DW0 the bytes of it and DW1 (R291). -/
def State.runEnd (s : State) (j : Job) (st : NvmeStatus) (dw1 : Nat) : State :=
  s.finish (Cqe.of j.key st j.out.length dw1 j.out)

/-- The command of an invocation ended with C8h and a cause code. -/
def State.endC8 (s : State) (j : Job) (code : Nat) : State :=
  match j.esc with
  | none => s.runEnd j .sachetFault code
  | some _ => s.stopRun j.key .sachetFault (some code)

/-- The command of an invocation ended with C7h: CUSE is spent (R231). -/
def State.endC7 (s : State) (j : Job) : State :=
  match j.esc with
  | none => s.runEnd j .quotaExceeded 0
  | some _ => s.stopRun j.key .quotaExceeded none

/-- A sachet fault: the log entry in the function's log with cause, EPC, BADADDR, LABEL and entry, the areas to be initialised again,
and C8h (R292). -/
def State.jobFault (s : State) (t : Nat) (j : Job) (code epc badaddr : Nat) : State :=
  let x := (s.track j.key).bind fun k => k.ses
  let entry := match j.esc, s.track j.key, s.sachetOf j.snum with
    | none, some k, _ => k.sqe.cdw10.toNat % 256
    | some _, _, some c => sachetEscEntry c.image
    | _, _, _ => 0
  let extra := leBytes 4 epc ++ leBytes 4 badaddr ++ fit 8 ((x.map fun y => y.label).getD []) ++ leBytes 4 entry
  let s1 := s.logFunc j.key.fn 2 code ((x.map fun y => y.handle).getD 0) extra
  let s2 := s1.onSachet j.snum fun c => { c with faults := c.faults + 1 }
  let s3 : State := { s2 with cores := { s2.cores with areas := s2.cores.areas.map fun a =>
    if a.tile == t && a.snum == j.snum && a.idx == j.area then { a with ready := false } else a } }
  s3.endC8 j code

/-! ### Starting and resuming (R280 to R283) -/

/-- The number under which a command's key is drawn. -/
def cmdNumber (k : CmdKey) : Nat := ((k.fn.port.val * 128 + k.fn.num.val) * 65536 + k.sq) * 65536 + k.cid.toNat

/-- Registers w0 to w23 at entry: those of Table 13.5, the others zero (R282). -/
def entryWin (ws : List Nat) : List Word := (List.range 24).map fun i => BitVec.ofNat 32 (ws.getD i 0)

/-- What a record's registers w1 to w5 hold (Table 13.5). -/
def escRegs (k : CmdKey) (g ridx reason len : Nat) : List Nat :=
  [ridx % 65536 + reason * 65536, len, g % 2 ^ 32, g / 2 ^ 32, (Config.commandKey (cmdNumber k)).toNat]

/-- The record of an escalation that waits. -/
def State.escRec (s : State) (k : CmdKey) (g i : Nat) : Option (RecState × Esc) :=
  match (s.runOf k).bind fun r => r.cur with
  | some c => if c.gidx = g then (c.recs.find? fun x => x.ridx == i).bind fun x => x.esc.map fun e => (x, e) else none
  | none => none

/-- The state with an escalated record changed. -/
def State.onEsc (s : State) (k : CmdKey) (g i : Nat) (f : Esc → Esc) : State :=
  let upd (c : CurGrain) : CurGrain :=
    if c.gidx = g then { c with recs := c.recs.map fun x => if x.ridx == i then { x with esc := x.esc.map f } else x } else c
  { s with sift := { s.sift with runs := s.sift.runs.map fun r => if r.key == k then { r with cur := r.cur.map upd } else r } }

/-- A queue entry taken out. -/
def State.dequeue (s : State) (w : Waiting) : State := { s with cores := { s.cores with queue := s.cores.queue.erase w } }

/-- A new invocation entered on a thread: areas, IN, registers, descriptors and entry point (R281 to R283, Table 13.5). -/
def State.enterSachet (s : State) (h : ThrId) (w : Waiting) (c : Sachet) (a : ThrArea) : State :=
  let t := h.tile.val
  let s1 := if a.ready then s else s.initArea c a
  let old := (s.thr h).getD { id := h }
  let code := (kvGet t c.code).getD 0
  let s2 := s1.onSachet c.snum fun y => { y with invocations := y.invocations + 1 }
  let s3 : State := { s2 with cores := { s2.cores with nextInv := s2.cores.nextInv + 1 } }
  let start (k : CmdKey) (esc : Option (Nat × Nat)) (entry : Nat) (ws : List Nat) (input : List Byte) (s : State) : State :=
    let j : Job := { inv := s2.cores.nextInv, key := k, esc := esc, snum := c.snum, area := a.idx, since := s.now }
    let x : Thread := { old with
      running := true, stop := none, waiting := false, steward := false, sat := false, aov := false
      pc := BitVec.ofNat 32 (code + sachetEntry c.image entry)
      wdepth := 0, ewdepth := 0, acc := 0, gens := List.replicate 4 {}, rgns := s.regionsOf c a false
      spillBase := BitVec.ofNat 32 a.spill, spillPtr := BitVec.ofNat 32 a.spill
      spillLim := BitVec.ofNat 32 (a.spill + sachetSpill c.image)
      ku := [a.inW, a.outW, a.hold, a.priv, (kvGet t c.shared).getD 0, 0, 0].map fun v => BitVec.ofNat 32 v
      win := entryWin (0 :: ws), incs := [], irqQuantum := false, irqSignal := false, job := some j }
    (s.writeMem t a.inW input).setThr x
  match w.what with
  | .run k => match s3.track k with
    | some tr =>
      let e := tr.sqe
      (start k none (e.cdw10.toNat % 256) [e.cdw11.toNat, e.cdw12.toNat, e.cdw14.toNat - e.cdw12.toNat, e.nsid.toNat, 0]
        (slice 32 64 e.cpb) s3).onTrack k fun y => { y with committed := true }
    | none => s3
  | .esc k g i => match s3.escRec k g i with
    | some (r, q) =>
      (start k (some (g, i)) (sachetEscEntry c.image) (escRegs k g i q.reason r.len) q.bytes s3).onEsc k g i
        fun z => { z with phase := 1 }
    | none => s3
  | .ctx _ => s3

/-- A preempted or waiting invocation given a thread again: its descriptors are loaded afresh (R248). -/
def State.resumeSachet (s : State) (h : ThrId) (x : Thread) (j : Job) (c : Sachet) : State :=
  match s.areaOf h.tile j with
  | some a =>
    let y : Thread := { x with id := h, rgns := s.regionsOf c a j.holdOk, job := some { j with since := s.now } }
    let s1 : State := { s with cores := { s.cores with
      parked := s.cores.parked.filter fun p => (p.2.job.map fun z => z.inv != j.inv).getD true } }
    s1.setThr y
  | none => s

/-! ### The scheduler (R233) -/

/-- The parked context of an invocation. -/
def State.parkedJob (s : State) (inv : Nat) : Option (Nat × Thread × Job) :=
  s.cores.parked.findSome? fun p => match p.2.job with
    | some j => if j.inv = inv then some (p.1, p.2, j) else none
    | none => none

/-- Whether a queue entry may run now: its session is ACTIVE, and a SERIAL image's records go one at a time (R229, R287). -/
def State.mayRun (s : State) (w : Waiting) : Bool :=
  (s.sessionAt w.snum).any (fun x => x.state == 1) &&
  match w.what with
  | .esc k _ _ =>
    !((s.sachetOf w.snum).any fun c => imgSerial c.image) || !((s.jobsOn w.tile).any fun j => j.key == k && j.esc.isSome)
  | _ => true

/-- The command that an entry serves, as an invocation that has not begun. -/
def State.jobOfWork (s : State) (w : Waiting) : Job :=
  match w.what with
  | .run k => { inv := 0, key := k, esc := none, snum := w.snum, area := 0 }
  | .esc k g i => { inv := 0, key := k, esc := some (g, i), snum := w.snum, area := 0 }
  | .ctx i => ((s.parkedJob i).map fun p => p.2.2).getD { inv := i, key := ⟨⟨0, 0⟩, 0, 0⟩, esc := none, snum := w.snum, area := 0 }

/-- What the scheduler finds for a free core. -/
inductive Pick where
  /-- An entry to serve, with the sessions skipped on the way. -/
  | serve (w : Waiting) (skipped : Nat)
  | none (skipped : Nat)

/-- The entries of a tile's queue searched class by class: in each class the session that has waited longest, past those that hold
THREADS threads, which are counted, and those whose areas do not fit (R233 steps 2 and 3, R281). -/
def Pick.search (live : List Waiting) (full fits : Waiting → Bool) : List Nat → Nat → Pick
  | [], n => .none n
  | c :: cs, n =>
    let mine := live.filter fun w => w.cls == c
    let ahead := mine.takeWhile fun w => full w || !fits w
    let k := ((ahead.filter full).map fun w => w.snum).eraseDups.length
    match mine.drop ahead.length with
    | w :: _ => .serve w (n + k)
    | [] => Pick.search live full fits cs (n + k)

/-- The entry that a free thread takes: the classes in rising V, ties by the rotating pointer (R233 step 1), then the search in each. -/
def State.pickWork (s : State) (t : Nat) (fits : Waiting → Bool) : Pick :=
  let live := s.cores.queue.filter fun w => w.tile == t && s.mayRun w
  let full (w : Waiting) : Bool := (s.sessionAt w.snum).any fun x => x.threads ≤ s.threadsHeld t x.snum
  let ptr := (kvGet t s.cores.schedPtr).getD 0
  let classes := ((List.range 4).map fun i => (ptr + i) % 4).filter fun c => live.any fun w => w.cls == c
  Pick.search live full fits (sortBy (fun a b => decide (s.vtimeOf t a < s.vtimeOf t b)) classes) 0

/-- One grant: the seal check, the areas, the quantum counted, and the thread. The work of a session whose CUSE is spent, or whose
sachet fails its check, ends instead (R231, R280). -/
def State.serve (s : State) (h : ThrId) (w : Waiting) : State :=
  let t := h.tile.val
  let j := s.jobOfWork w
  let s0 := s.dequeue w
  let qbi := ((s.track j.key).bind fun k => k.ses.map fun x => x.qbi).getD 0
  match s0.sachetOf w.snum with
  | none => s0.endC8 j 0x81
  | some c =>
    let good := !c.unbound && kvGet t c.tags == some (s.sealTag c.image c.handle)
    if s.coreSpent qbi then s0.endC7 j
    else if !good then (s0.onSachet w.snum fun y => { y with unbound := true }).endC8 j 0x81
    else
      let s1 := (s0.count (.core t) 0x110 1)
      let s2 : State := { s1 with cores := { s1.cores with schedPtr := kvSet t ((w.cls + 1) % 4) s1.cores.schedPtr } }
      match w.what with
      | .ctx i => match s2.parkedJob i with
        | some p => s2.resumeSachet h p.2.1 p.2.2 c
        | none => s2
      | _ => match s2.areaFor t c with
        | some (a, s3) => s3.enterSachet h w c a
        | none => s2.enqueue w

/-- Whether an entry's areas can be had now (R281). -/
def State.areaFits (s : State) (w : Waiting) : Bool :=
  match w.what, s.sachetOf w.snum with
  | .ctx _, _ => true
  | _, some c => (s.areaFor w.tile c).isSome
  | _, none => true

/-- The scheduler of a tile gives its free threads work until none fits; `first` is the thread tried before the others. It grants
only while SCHED_CTRL.EN is 1. -/
def State.scheduleGo (s : State) (t : Nat) (first : List ThrId) : Nat → State
  | 0 => s
  | fuel + 1 =>
    if s.rdField (.core t) 0x100 0 0 = 0 then s
    else match (first ++ threadIds t).find? fun h => h.tile.val == t && s.thrFree h with
      | none => s
      | some h => match s.pickWork t s.areaFits with
        | .none k => s.count (.core t) 0x114 k
        | .serve w k => ((s.count (.core t) 0x114 k).serve h w).scheduleGo t first fuel

/-- The cause code with which the running sachets of a DRAINING session end. -/
def State.drainCode (s : State) (snum : Nat) : Nat := ((s.sessionAt snum).map fun x => x.cause).getD 0x80

/-- The invocations of DRAINING sessions that stand at a quantum boundary end: C8h for a destroyed session (R225),
or for one whose descriptor is lost (R315). -/
def State.endDrained (s : State) (t : Nat) : State :=
  (s.cores.queue.filter fun w => w.tile == t).foldl (fun (s : State) w => match w.what with
    | .ctx i => match s.parkedJob i with
      | some p => if (s.sessionAt w.snum).any (fun x => x.state == 3) && s.cores.queue.contains w then
          (s.dequeue w).endC8 p.2.2 (s.drainCode w.snum) else s
      | none => s
    | _ => s) s

/-- The scheduler of a tile run, with a thread to try first. -/
def State.scheduleAt (s : State) (t : Nat) (first : List ThrId) : State :=
  let s1 := s.endDrained t
  s1.scheduleGo t first (s1.cores.queue.length + 1)

/-- The schedulers of every tile run. -/
def State.schedule (s : State) : State := s.tileIds.foldl (fun (s : State) t => s.scheduleAt t []) s

/-- Whether an invocation of a command has finished its last record and not returned yet: the command goes on when it returns. -/
def State.lingers (s : State) (k : CmdKey) : Bool :=
  let l (j : Option Job) : Bool := (j.map fun j => j.key == k && j.escDone).getD false
  s.cores.threads.any (fun x => l x.job) || s.cores.parked.any fun p => l p.2.job

/-- A run driven on, its escalated records given to the runtime. -/
def State.drive (s : State) (k : CmdKey) : State :=
  if s.lingers k then s else ((s.driveRaw k).queueEsc k).schedule

/-- An invocation returned: RUN ends with Success; an escalated record has its verdict, and its command goes on (R287, R291). -/
def State.jobReturn (s : State) (h : ThrId) (j : Job) (w1 : Nat) : State :=
  match j.esc with
  | none => (s.runEnd j .success w1).scheduleAt h.tile []
  | some (g, i) =>
    let s1 := s.dropThr h
    let s2 := if j.escDone then s1 else s1.onEsc j.key g i fun e => { e with phase := 2, keep := w1 == 1, out := j.out }
    (s2.drive j.key).scheduleAt h.tile []

/-- A thread's context kept, and its invocation put back into the queue (R233). -/
def State.park (s : State) (x : Thread) (j : Job) (queued : Bool) : State :=
  let t := x.id.tile.val
  let y : Thread := { x with job := some j }
  let s1 := s.dropThr x.id
  let s2 : State := { s1 with cores := { s1.cores with parked := s1.cores.parked ++ [(t, y)] } }
  let cls := (((s.track j.key).bind fun k => k.ses).map fun z => z.cls).getD 0
  if queued then s2.enqueue ⟨t, j.snum, cls, .ctx j.inv⟩ else s2

/-- The end of a quantum after `held` µs: the charges, the endings that wait for it (R225, R231, R291), and the next grant. -/
def State.quantumEnd (s : State) (x : Thread) (j : Job) (held : Nat) : State :=
  let t := x.id.tile.val
  let s1 := s.giveUp t j held
  let j1 : Job := { j with cpu := j.cpu + held }
  let qbi := ((s1.track j.key).bind fun k => k.ses.map fun z => z.qbi).getD 0
  let lim := ((s1.sachetOf j.snum).map fun c => sachetRunMax c.image).getD 0
  let s2 := if (s1.sessionAt j.snum).any fun z => z.state == 3 then s1.endC8 j1 (s1.drainCode j.snum)
    else if lim < j1.cpu then s1.endC8 j1 0x82
    else if s1.coreSpent qbi then s1.endC7 j1
    else s1.park x j1 true
  s2.scheduleAt t []

/-- The invocation of a number, running or parked: its thread and whether it is parked. -/
def State.findInv (s : State) (inv : Nat) : Option (Thread × Job × Bool) :=
  match s.parkedJob inv with
  | some p => some (p.2.1, p.2.2, true)
  | none => s.cores.threads.findSome? fun x => match x.job with
    | some j => if j.inv = inv then some (x, j, false) else none
    | none => none

/-- A mirrored write of an invocation that the peer did not acknowledge: its service answers PEER (Table 13.7). -/
def State.invPeerFail (s : State) (inv : Nat) : State :=
  let upd (x : Thread) : Thread :=
    { x with job := x.job.map fun j => if j.inv = inv then { j with wait := j.wait.map fun _ => ⟨[(1, 13)]⟩ } else j }
  { s with cores := { s.cores with parked := s.cores.parked.map fun p => (p.1, upd p.2) } }

end Sys2Proof.Machine
end

