-- ==== Sys2Proof/Machine/SiftRows.lean ====
section
/-! DEFINITION. Machine/SiftRows.lean: SCAN and MATERIALIZE, the sift pipelines, and the messages for layouts, images and sets
(chapter 8). -/

namespace Sys2Proof.Machine

open Sys2Proof

/-! ### Starting a scan (R70, R190 to R192) -/

/-- Whether a resume token belongs to a scan (R69, R191): its form, its CHECK, NEXT within the range, and REC within the grain. -/
def State.scanTokenOk (s : State) (r : ScanRun) (e : Sqe) (ns : Namespace) : Bool :=
  let tok := slice 0 16 e.cpb
  let next := leAt tok 0 8
  let rec_ := leAt tok 8 2
  let n := match ((s.readGrain ns next ⟨[], [], [], []⟩).1) with
    | .data b => (frame r.ctx.layout r.ctx.grain next (b.take ns.grain)).length
    | _ => rec_ + 1
  tok == s.scanToken r e next rec_ && r.lo / ns.grain ≤ next && next < r.endG && (rec_ == 0 || rec_ < n)

/-- Step 3 of R70 for MATERIALIZE: the layout of the output against the target's (R192, R466). -/
def State.targetLayoutOk (s : State) (lay img : List Byte) (tns : Namespace) : Bool :=
  let out := if imgMode img = 2 then derivedLayout lay img tns.grain else lay
  (imgMode img != 2 || derivedVar lay img || derivedFixed lay img ≤ 65536) &&
  (match s.nsLayout tns.nsid with
   | some l => layoutId l == layoutId out
   | none => true)

/-- The context areas that the stewards load for a command, at an address that they choose (R193). -/
def State.loadAreas (s : State) (k : CmdKey) (c : SiftCtx) : State :=
  let d := s.draw
  let addr := d.1 % 0x60000 * 64
  { d.2 with sift := { d.2.sift with areas := d.2.sift.areas ++ s.tileIds.map fun t => ⟨k, t, addr, c⟩ } }

/-- A run begins: the check of R70 has passed. -/
def State.beginRun (s : State) (x : SesSnap) (r : ScanRun) : State :=
  let s1 := (s.vendorStart r.key x).loadAreas r.key r.ctx
  ({ s1 with sift := { s1.sift with runs := s1.sift.runs ++ [r] } } : State).drive r.key

/-- The checks of SCAN and MATERIALIZE in the order of R70, then the charge of R190 and the work. -/
def State.startScan (s : State) (t : Track) (env : MediaEnv) : State :=
  let e := t.sqe
  let k := t.key
  let mat := e.opc == 0x8C
  let nsid := e.nsid.toNat
  if !e.vendorForm then s.fail k .invalidField
  else if e.dptr.prpOffsetBad && !e.dptr.sgl && !mat then s.fail k .invalidPrpOffset
  else match s.vendorSession t ([(nsid, 4)] ++ if mat then [(e.tnsid, 2)] else []), s.nsOf nsid with
    | some x, some ns =>
      let lo := e.slba * ns.blockSize
      let hi := (e.slba + e.nblocks) * ns.blockSize
      let tns := s.nsOf e.tnsid
      let tslba := leAt e.cpb 24 8
      let room := leAt e.cpb 96 4 + 1
      if ns.blocks < e.slba + e.nblocks then s.fail k .lbaOutOfRange
      else if mat && (match tns with | some n => n.blocks < tslba + room | none => true) then s.fail k .lbaOutOfRange
      else if mat && e.tnsid == nsid && tslba < e.slba + e.nblocks && e.slba < tslba + room then s.fail k .invalidField
      else match s.imageFor x e.slot nsid with
        | none => s.fail k .imageInvalid
        | some (img, lay) =>
          if !modeFits e.opc (imgMode img) || !largeOk lay img ns.grain ||
              (mat && !(match tns with | some n => s.targetLayoutOk lay img n | none => false)) then s.fail k .imageInvalid
          else
            let ready := match s.vendorNs nsid with
              | .success => if mat then s.vendorNs e.tnsid else .success
              | st => st
            match ready with
            | .success =>
              let c : SiftCtx := ⟨img, lay, (s.slotsOf x.snum).sets.filter fun y => (imgSets img).contains y.1, nsid, ns.grain, x.cls⟩
              let first := if e.res then leAt e.cpb 0 8 else lo / ns.grain
              let endG := (hi - 1) / ns.grain + 1
              let charge := (endG - first) * ns.grain
              let m : Option MatRun := if mat then
                some { key := k, tnsid := e.tnsid, tslba := tslba, room := room, reqz := bitN e.cdw13.toNat 11, fua := bitN e.cdw13.toNat 12 }
                else none
              let r : ScanRun := { key := k, ctx := c, lo := lo, hi := hi, next := first,
                                   rec0 := if e.res then leAt e.cpb 8 2 else 0, endG := endG, items := none,
                                   space := e.outBytes - endLen img, charged := charge, env := env, mat := m }
              if e.res && !s.scanTokenOk r e ns then s.fail k .invalidField
              else if !s.quotaStep x charge then s.failQuota k x
              else if e.dptr.transferError && !mat then s.fail k .dataTransferError
              else match (if mat then s.writeGate e.tnsid else .success) with
                | .success => (s.chargeScan x.qbi charge).beginRun x r
                | st => s.fail k st
            | st => s.fail k st
    | _, _ => (s.logSession k.fn 1 0 e.cdw2.toNat).fail k .sessionInvalid

/-- A MATERIALIZE that waits for its target to be durable: filler, and the end when it is (R62, R115). -/
def State.finishTarget (s : State) (r : ScanRun) (m : MatRun) (st : NvmeStatus) : State :=
  let through := m.fua || ((s.track r.key).map s.writeThrough).getD false
  if s.mirrWaits (.run r.key) then s
  else if !through || s.targetDurable m then s.scanFinish r st 0 0 0
  else s.tileIds.foldl (fun (s : State) t => s.pushOut t fun f => f.staged.any fun g => g.key.nsx + 1 == m.tnsid && g.commit) s

/-- The work of a scan command: started when it is new, driven on when it waits. -/
def State.scanRow (s : State) (t : Track) (env : MediaEnv) : State :=
  match s.runOf t.key with
  | none => s.startScan t env
  | some r => match r.mat, r.ending with
    | some m, some st => s.finishTarget r m st
    | _, _ => (s.setRun { r with env := env }).drive t.key

/-- SCAN (R19, R67 to R72, R176 to R191). -/
def execScan (k : CmdKey) (env : MediaEnv) (s : State) : Out := s.ends (s.withTrack k 0x82 fun t => s.scanRow t env)

/-- MATERIALIZE (R192, R466, R167). -/
def execMaterialize (k : CmdKey) (env : MediaEnv) (s : State) : Out := s.ends (s.withTrack k 0x8C fun t => s.scanRow t env)

/-- ESCALATION_TIMEOUT: the record at a command's output head has waited 100 ms and the run-ahead area is full; the command ends
with C3h at that record (R185). -/
def execEscalationTimeout (k : CmdKey) (s : State) : Out :=
  s.ends (match s.runOf k with
    | some r => match r.cur with
      | some c => if c.recs.any fun x => (x.esc.map fun q => q.phase != 2).getD false then s.stopRun k .outputExhausted none else s
      | none => s
    | none => s)

/-! ### The pipelines (R193, R194) -/

/-- The pipeline of a cluster. -/
def Tile.sift (x : Tile) (c : Nat) : SiftEng := if c = 0 then x.siftA else x.siftB

/-- The state with a pipeline changed. -/
def State.onSift (s : State) (t c : Nat) (f : SiftEng → SiftEng) : State :=
  s.onTileAt t fun x => if c = 0 then { x with siftA := f x.siftA } else { x with siftB := f x.siftB }

/-- Escalated records of a cluster that await an answer (STAT.ESCQ): those of ring jobs and those of commands. -/
def State.escq (s : State) (t c : Nat) : Nat :=
  ((s.tileAt t).sift c).esc.length + sumOf (s.sift.runs.map fun r =>
    match r.cur, s.nsOf r.ctx.nsid with
    | some g, some ns => if s.srcOf ns g.gidx = t * 2 + c then
        (g.recs.filter fun x => (x.esc.map fun q => q.phase != 2).getD false).length else 0
    | _, _ => 0)

/-- STAT brought up to date (Table 8.12). -/
def State.siftStat (s : State) (t c : Nat) : State :=
  let b : Block := .sft t c
  let x := (s.tileAt t).sift c
  let st := if x.retired.isSome then 2 else b2n (bitN (s.rd b 0) 0)
  s.wr b 0x004 (st + (if x.running.isSome then 4 else 0) + min 511 (s.escq t c) * 65536)

/-- The job ring of a pipeline. -/
def State.siftRing (s : State) (t c : Nat) : Ring :=
  let b : Block := .sft t c
  let base := s.rd b 0x00C
  ⟨base / 64 * 64, 2 ^ (base % 16), s.rd b 0x014, s.rd b 0x018⟩

/-- SFT_QTAIL: the steward advances QTAIL (R147, R193). -/
def execSftQtail (t : TileId) (c : Fin 2) (v : Word) (s : State) : Out :=
  s.ends (if s.hasTile t && s.blockOn (.sft t c) then s.wr (.sft t c) 0x018 (v.toNat % 2048)
    else s.decErr (regAddr (.sft t c) 0x018) 0)

/-- The descriptor that a pipeline takes next; none unless it is in service, enabled and idle with a completion slot free. -/
def State.siftHead (s : State) (t c : Nat) : Option (List Byte) :=
  let b : Block := .sft t c
  let x := (s.tileAt t).sift c
  let r := s.siftRing t c
  if s.hasTile t && s.blockOn b && bitN (s.rd b 0) 0 && bitN (s.rd b 0x010) 0 && x.retired.isNone && x.running.isNone &&
      r.count != 0 && s.compFree b 0x01C 0x020 0x024 then some (s.readMem t (r.at r.head 32) 32) else none

/-- Whether any word of a range is poisoned (R308). -/
def State.anyPoison (s : State) (t a n : Nat) : Bool :=
  match s.place t a with
  | .sram k _ => (List.range ((n + 7) / 8 + 1)).any fun i => k / 8 * 8 + 8 * i < k + n && s.poisoned (k + 8 * i)
  | _ => false

/-- A job taken, with its result. -/
def State.siftRun (s : State) (t c : Nat) (j : SiftJob) (cls : Nat) : State :=
  let r := s.siftRing t c
  let s0 := s.holdRef t (leAt j.desc 12 4) 64
  let s1 := (s0.wr (.sft t c) 0x014 (r.next r.head)).onSift t c fun x => { x with running := some j, ptr := (cls + 1) % 4 }
  s1.siftStat t c

/-- The reserved bits and alignment of a sift descriptor (Table 8.10). -/
def siftInvalid (d : List Byte) : Bool :=
  !(at1 d 0 == 1 || at1 d 0 == 2) || 4 ≤ at1 d 1 || leAt d 6 2 != 0 || leAt d 28 4 != 0 || leAt d 12 4 % 64 != 0 ||
  leAt d 16 4 % 64 != 0

/-- The context that a descriptor names. -/
def State.siftArea (s : State) (t : Nat) (d : List Byte) : Option SiftCtx :=
  (s.sift.areas.find? fun a => a.tile == t && a.addr == leAt d 16 4).map fun a => a.ctx

/-- The logical bytes of the stored grain that a descriptor names: none when decompression fails (R164). -/
def State.siftSource (s : State) (t : Nat) (d : List Byte) (g : Nat) : Option (List Byte) :=
  let a := leAt d 12 4
  let clen := leAt (s.readMem t a 16) 8 4
  let b := s.readMem t a (min (grainUnits clen * 256) (g + 256))
  if grainChecks b (at1 b 0 == 1) (grainUnits clen) g then loadGrain b else none

/-- What a GRAIN job finds, record by record, until the run-ahead area or the escalation limit stops it (R185, R189). -/
structure SiftOut where
  out   : List Byte := []
  pass  : Nat := 0
  malf  : Nat := 0
  esc   : List (Nat × Nat × Nat) := []
  bits  : Nat := 0
  seen  : Nat := 0
  stop  : Option Nat := none

/-- One record of a GRAIN job. `room` is the output space, none for a head span. -/
def siftRecord (c : SiftCtx) (tag gidx : Nat) (b : List Byte) (room : Option Nat) (escRoom : Nat) (o : SiftOut) (i : Nat) (r : Rec) :
    SiftOut :=
  if o.stop.isSome then o
  else
    let v := judgeRecord c.layout c.image c.sets r b
    let x := slice r.off r.len b
    let mode := imgMode c.image
    let reason := match v with
      | .malf => if imgMalform c.image then 2 else 0
      | .undecided => 1
      | .pass => if mode = 7 then 3 else 0
      | .drop => 0
    let pass := v == .pass
    let out := if !pass then []
      else if mode = 1 ∨ (mode = 6 ∧ sampleHit c.image c.nsid gidx i) then x
      else if mode = 2 then projOut c.layout c.image x else []
    if reason ≠ 0 && escRoom ≤ o.esc.length then { o with stop := some i }
    else if (match room with | some n => decide (n < o.out.length + out.length) | none => false) then { o with stop := some i }
    else { o with
      out := o.out ++ out, pass := o.pass + b2n pass, malf := o.malf + b2n (v == .malf), seen := o.seen + b2n (v != .malf)
      esc := if reason = 0 then o.esc else o.esc ++ [(tag, i, reason)]
      bits := if pass then o.bits + 2 ^ i else o.bits }

/-- SIFT_GRAIN: a GRAIN job frames a grain, evaluates its records and places their output (R176 to R189). A poisoned source or a
datapath parity error ends the job with PARITY (R193, R309). -/
def execSiftGrain (t : TileId) (c : Fin 2) (parity : Bool) (s : State) : Out :=
  s.ends (match s.siftHead t c with
    | none => s
    | some d =>
      let b : Block := .sft t c
      if at1 d 0 = 2 then s
      else match s.siftArea t d with
        | none => s.siftRun t c { desc := d, status := 4 } 0
        | some x =>
          if siftInvalid d then s.siftRun t c { desc := d, status := 4 } x.cls
          else if parity || s.anyPoison t (leAt d 12 4) (x.grain + 256) then
            let s1 := (s.flag b 0x028 2).onSift t c fun y => { y with held := some d }
            s1.siftRun t c { desc := d, status := 3 } x.cls
          else match s.siftSource t d x.grain with
            | none => s.siftRun t c { desc := d, status := 1 } x.cls
            | some bytes =>
              let gidx := leAt d 20 8
              let tag := leAt d 8 4
              let head := bitN (at1 d 1) 1
              let rs := frame x.layout x.grain gidx bytes
              let used := sumOf (((s.tileAt t).sift c).ahead.map fun y => y.2.length)
              let room := if head then none else some (458752 - used)
              let idx := (List.range rs.length).filter fun i =>
                leAt d 2 2 ≤ i && (leAt d 4 2 == 0xFFFF || i ≤ leAt d 4 2)
              let o := idx.foldl (fun (o : SiftOut) i => match rs[i]? with
                | some r => siftRecord x tag gidx bytes room (256 - s.escq t c) o i r
                | none => o) {}
              let out := if imgMode x.image = 3 then leBytes (ceilDiv rs.length 8) o.bits else o.out
              let s1 := s.onSift t c fun y => { y with
                esc := y.esc ++ o.esc
                head := if head then y.head ++ [(tag, out)] else y.head
                ahead := if head then y.ahead else y.ahead ++ [(tag, out)] }
              let s2 := ((((s1.count b 0x030 1).count b 0x034 o.seen).count b 0x038 o.pass).count b 0x03C o.malf).count b 0x040
                o.esc.length
              let s3 := s2.count b 0x044 (out.length / 256)
              let s4 := if o.malf = 0 then s3 else s3.flag b 0x028 1
              s4.siftRun t c { desc := d, status := if o.stop.isSome then 2 else 0, rstop := o.stop.getD 0, npass := o.pass,
                               nmalf := o.malf, outb := out.length } x.cls)

/-- CONT: a CONT job emits a continuation grain of a large record (R176, R193). -/
def execCont (t : TileId) (c : Fin 2) (parity : Bool) (s : State) : Out :=
  s.ends (match s.siftHead t c with
    | none => s
    | some d =>
      let b : Block := .sft t c
      if at1 d 0 ≠ 2 then s
      else match s.siftArea t d with
        | none => s.siftRun t c { desc := d, status := 4 } 0
        | some x =>
          if siftInvalid d || !isLarge x.layout x.grain then s.siftRun t c { desc := d, status := 4 } x.cls
          else if parity || s.anyPoison t (leAt d 12 4) (x.grain + 256) then
            let s1 := (s.flag b 0x028 2).onSift t c fun y => { y with held := some d }
            s1.siftRun t c { desc := d, status := 3 } x.cls
          else match s.siftSource t d x.grain with
            | none => s.siftRun t c { desc := d, status := 1 } x.cls
            | some bytes =>
              let k := leAt d 20 8 % 2 ^ largeShift x.layout x.grain
              let out := bytes.take (layRec x.layout - k * x.grain)
              let tag := leAt d 8 4
              let head := bitN (at1 d 1) 1
              let used := sumOf (((s.tileAt t).sift c).ahead.map fun y => y.2.length)
              if !head && 458752 < used + out.length then s.siftRun t c { desc := d, status := 2 } x.cls
              else
                let s1 := s.onSift t c fun y => { y with
                  head := if head then y.head ++ [(tag, out)] else y.head
                  ahead := if head then y.ahead else y.ahead ++ [(tag, out)] }
                (s1.count b 0x044 (out.length / 256)).siftRun t c { desc := d, status := 0, outb := out.length } x.cls)

/-- A completion entry (Table 8.11). -/
def SiftJob.entry (j : SiftJob) : List Byte :=
  slice 8 4 j.desc ++ leBytes 1 j.status ++ zeros 1 ++ leBytes 2 j.rstop ++ leBytes 2 j.npass ++ leBytes 2 j.nmalf ++
    leBytes 4 j.outb

/-- SFT_JOB_COMPLETE: the running job ends and its completion entry is posted (R193). -/
def execSftJobComplete (t : TileId) (c : Fin 2) (s : State) : Out :=
  s.ends (match ((s.tileAt t).sift c).running with
    | none => s
    | some j =>
      let s1 := (s.onSift t c fun x => { x with running := none }).postComp t (.sft t c) 0x01C 0x020 0x024 j.entry
      let s2 := if bitN (at1 j.desc 1) 0 then s1.flag (.sft t c) 0x028 0 else s1
      s2.siftStat t c)

/-- Every untaken job of a pipeline ended with FLUSHED, in ring order (R150). -/
def State.siftFlush (s : State) (t c : Nat) : State :=
  (List.range (s.siftRing t c).count).foldl (fun (s : State) _ =>
    let r := s.siftRing t c
    let d := s.readMem t (r.at r.head 32) 32
    (s.wr (.sft t c) 0x014 (r.next r.head)).postComp t (.sft t c) 0x01C 0x020 0x024 (SiftJob.entry { desc := d, status := 5 })) s

/-- SFT_QCTRL_EN_CLEAR: the queue is disabled and its untaken jobs end with FLUSHED (Table 8.12). -/
def execSftQctrlEnClear (t : TileId) (c : Fin 2) (s : State) : Out :=
  s.ends (if s.hasTile t && s.blockOn (.sft t c) then (s.siftFlush t c).unflag (.sft t c) 0x010 0
    else s.decErr (regAddr (.sft t c) 0x010) 0)

/-! ### Layouts, images and sets (R174, R175, R181, R195) -/

/-- The slots of one kind that the sessions of a function hold. -/
def State.fnSlots (s : State) (f : FnId) (count : SlotSet → Nat) : Nat :=
  sumOf ((s.ses.sessions.filter fun x => x.fn == f).map fun x => count (s.slotsOf x.snum))

/-- Whether one more slot may be taken: the session's, the function's and the package's limit (R195, Table 10.3). -/
def State.poolOk (s : State) (x : Session) (count : SlotSet → Nat) (perSes off dflt package : Nat) : Bool :=
  count (s.slotsOf x.snum) < perSes && s.fnSlots x.fn count < s.funcLimit x.fn off 2 dflt &&
  sumOf (s.sift.slots.map count) < package

/-- LAYOUT_INSTALL: the lowest free layout slot takes an accepted descriptor (R174, R195). -/
def execLayoutInstall (q : Req) (s : State) : Out :=
  s.ends (s.sessRun q 0x0301 fun x s =>
    let d := q.body
    match layoutFault d with
    | some o => refuse s 0x8001 (leBytes 4 o)
    | none =>
      if !s.poolOk x (fun y => y.layouts.length) 16 12 64 2048 then refuse s 0x8008
      else
        let slot := leastUnused ((s.slotsOf x.snum).layouts.map fun y => y.1)
        done (s.onSlots x.snum fun y => { y with layouts := kvSet slot d y.layouts })
          (leBytes 1 slot ++ zeros 7 ++ leBytes 8 (layoutId d)))

/-- The right bits that a live session holds on a namespace, 0 for a namespace it may not reach. -/
def State.liveRights (s : State) (x : Session) (nsid : Nat) : Nat := if nsid = 0 then 0 else s.rightsOn x (nsid - 1)

/-- NUSE of a namespace is 0 (R175, Table 4.2). -/
def State.nsEmpty (s : State) (nsid : Nat) : Bool := (s.usedGrains nsid).isEmpty

/-- The configuration store written with a new body (R380): on success both copies take it; when both attempts fail nothing
changes and the failure is logged (R53). -/
def State.storeWrite (s : State) (ok : Bool) (body : StoreBody) : Option State :=
  if !ok then none
  else
    let inForce := if s.cfg.inForce1 then s.cfg.copy1 else s.cfg.copy0
    let seq := max inForce.seq (max s.cfg.copy0.seq s.cfg.copy1.seq) + 1
    let pm := (((body.later ++ body.params).find? fun p => p.1 == 1).map fun p => p.2.2).getD 0
    let c : StoreCopy := ⟨true, seq, pm, body⟩
    some { s with cfg := { s.cfg with copy0 := c, copy1 := c, inForce1 := false, body := body } }

/-- LAYOUT_ATTACH (R175): its checks in their order, then the store's header page. -/
def execLayoutAttach (q : Req) (storeOk : Bool) (s : State) : Out :=
  s.ends (s.sessRun q 0x0302 fun x s =>
    let p := q.body
    let nsid := leAt p 0 4
    if !zeroAt p 5 3 then refuse s 2
    else if !bitN (s.liveRights x nsid) 1 then refuse s 4
    else match kvGet (at1 p 4) (s.slotsOf x.snum).layouts, s.nsOf nsid with
      | none, _ => refuse s 0x8004
      | _, none => refuse s 4
      | some d, some ns =>
        if (s.nsLayout nsid).isSome then refuse s 0x8006
        else if !s.nsEmpty nsid then refuse s 0x8005
        else if layKind d ≠ 0 ∧ ns.grain < layRec d then refuse s 0x8001 (leBytes 4 4)
        else match s.storeWrite storeOk { s.cfg.body with layouts := kvSet nsid d s.cfg.body.layouts } with
          | some s1 => done s1
          | none => refuse (s.log 2 0 2 8 0 0) 0x800C)

/-- LAYOUT_DETACH (R175). -/
def execLayoutDetach (q : Req) (storeOk : Bool) (s : State) : Out :=
  s.ends (s.sessRun q 0x0303 fun x s =>
    let p := q.body
    let nsid := leAt p 0 4
    if !zeroAt p 4 4 then refuse s 2
    else if !bitN (s.liveRights x nsid) 1 then refuse s 4
    else if (s.nsLayout nsid).isNone then refuse s 0x800D
    else if (s.indexDecl nsid).isSome then refuse s 0x8007
    else if !s.nsEmpty nsid then refuse s 0x8005
    else match s.storeWrite storeOk { s.cfg.body with layouts := kvDel nsid s.cfg.body.layouts } with
      | some s1 => done s1
      | none => refuse (s.log 2 0 2 8 0 0) 0x800C)

/-- The layout that an image was written for: installed in the session, or attached to a namespace on which the session holds a
right in force (R181). -/
def State.layoutFor (s : State) (x : Session) (id : Nat) : Option (List Byte) :=
  match (s.slotsOf x.snum).layouts.find? fun y => layoutId y.2 == id with
  | some y => some y.2
  | none => (s.cfg.body.layouts.find? fun y => layoutId y.2 == id && s.liveRights x y.1 != 0).map fun y => y.2

/-- IMAGE_INSTALL (R181, R195). -/
def execImageInstall (q : Req) (s : State) : Out :=
  s.ends (s.sessRun q 0x0304 fun x s =>
    let p := q.body
    let m := p.drop 8
    let sl := s.slotsOf x.snum
    if 64 ≤ at1 p 0 ∨ !zeroAt p 1 7 then refuse s 2
    else match imageFault m (s.layoutFor x (leAt m 8 8)) (sl.sets.map fun y => y.1) x.sslot.isSome with
      | some o => refuse s 0x8002 (leBytes 4 o)
      | none =>
        if (kvGet (at1 p 0) sl.images).isSome then refuse s 0x8003
        else if !s.poolOk x (fun y => y.images.length) 64 14 256 4096 then refuse s 0x8008
        else done (s.onSlots x.snum fun y => { y with images := kvSet (at1 p 0) m y.images }) (shake256 m 16))

/-- IMAGE_REMOVE. -/
def execImageRemove (q : Req) (s : State) : Out :=
  s.ends (s.sessRun q 0x0305 fun x s =>
    let p := q.body
    if 64 ≤ at1 p 0 ∨ !zeroAt p 1 7 then refuse s 2
    else if (kvGet (at1 p 0) (s.slotsOf x.snum).images).isNone then refuse s 0x8004
    else done (s.onSlots x.snum fun y => { y with images := kvDel (at1 p 0) y.images }))

/-- SET_INSTALL. -/
def execSetInstall (q : Req) (s : State) : Out :=
  s.ends (s.sessRun q 0x0306 fun x s =>
    let p := q.body
    if 16 ≤ at1 p 0 ∨ at1 p 1 = 0 ∨ 4 < at1 p 1 ∨ !zeroAt p 2 6 then refuse s 2
    else if (kvGet (at1 p 0) (s.slotsOf x.snum).sets).isSome then refuse s 0x8003
    else if !s.poolOk x (fun y => y.sets.length) 16 16 64 1024 then refuse s 0x8008
    else done (s.onSlots x.snum fun y => { y with sets := kvSet (at1 p 0) (at1 p 1, slice 8 512 p) y.sets }))

/-- SET_REMOVE: refused while an installed image names the set (Table 8.14 IN_USE). -/
def execSetRemove (q : Req) (s : State) : Out :=
  s.ends (s.sessRun q 0x0307 fun x s =>
    let p := q.body
    let sl := s.slotsOf x.snum
    if 16 ≤ at1 p 0 ∨ !zeroAt p 1 7 then refuse s 2
    else if (kvGet (at1 p 0) sl.sets).isNone then refuse s 0x8004
    else if sl.images.any fun i => (imgSets i.2).contains (at1 p 0) then refuse s 0x8007
    else done (s.onSlots x.snum fun y => { y with sets := kvDel (at1 p 0) y.sets }))

/-- LAYOUT_REMOVE: refused while an installed image names the layout (Table 8.14 IN_USE). -/
def execLayoutRemove (q : Req) (s : State) : Out :=
  s.ends (s.sessRun q 0x0308 fun x s =>
    let p := q.body
    let sl := s.slotsOf x.snum
    if 16 ≤ at1 p 0 ∨ !zeroAt p 1 7 then refuse s 2
    else match kvGet (at1 p 0) sl.layouts with
      | none => refuse s 0x8004
      | some d =>
        if sl.images.any fun i => leAt i.2 8 8 == layoutId d then refuse s 0x8007
        else done (s.onSlots x.snum fun y => { y with layouts := kvDel (at1 p 0) y.layouts }))

/-- SIFT_QUERY: the occupancy bitmaps (Table 8.13). -/
def execSiftQuery (q : Req) (s : State) : Out :=
  s.ends (s.sessRun q 0x0309 fun x s =>
    let sl := s.slotsOf x.snum
    let mask (l : List Nat) : Nat := sumOf (l.map fun i => 2 ^ i)
    done s (leBytes 2 (mask (sl.layouts.map fun y => y.1)) ++ leBytes 2 (mask (sl.sets.map fun y => y.1)) ++ zeros 4 ++
      leBytes 8 (mask (sl.images.map fun y => y.1))))

end Sys2Proof.Machine
end

