-- ==== Sys2Proof/Machine/IndexRows.lean ====
section
/-! DEFINITION. Machine/IndexRows.lean: the index builder's jobs, LOOKUP and RANGE, and the index messages (chapter 9). -/

namespace Sys2Proof.Machine

open Sys2Proof

/-! ### Run images (R203) -/

/-- The filter hash of a stored key (R203). -/
def filterHash (hash : Bool) (k : List Byte) : Nat := if hash then beNat k else leNat (shake128 k 8)

/-- The bits that a key sets in its filter block of 512 bits, and the block's number (R203). -/
def filterBits (h nblk : Nat) : Nat × List Nat :=
  (h % 2 ^ 32 % max 1 nblk, (List.range 7).map fun i => (h / 2 ^ 32 + i * ((h / 2 ^ 41) ||| 1)) % 512)

/-- One filter block as a number. -/
def filterBlock (hash : Bool) (ts : List Tuple) (nblk b : Nat) : Nat :=
  ts.foldl (fun (a : Nat) x =>
    let p := filterBits (filterHash hash x.real) nblk
    if p.1 = b then p.2.foldl (fun (a : Nat) i => a ||| 2 ^ i) a else a) 0

/-- Whether a run's filter holds a key: all seven bits of its block set (R203). -/
def filterHolds (hash : Bool) (ts : List Tuple) (k : List Byte) : Bool :=
  let nblk := filterBlocks ts.length
  let p := filterBits (filterHash hash k) nblk
  let w := filterBlock hash ts nblk p.1
  p.2.all (bitN w)

/-- The bytes of a run image: header, tuple blocks, fence pages, filter (R203). The places of the header's fields are the
model's. -/
def runImage (level nsx num : Nat) (hash : Bool) (ts : List Tuple) : List Byte :=
  let nb := ceilDiv ts.length 1024
  let nf := filterBlocks ts.length
  let first := (ts.head?.map fun x => x.key).getD (zeros 32)
  let last := (ts.getLast?.map fun x => x.key).getD (zeros 32)
  let h := fit 4092 (leBytes 1 level ++ zeros 1 ++ leBytes 2 nsx ++ leBytes 4 num ++ leBytes 4 ts.length ++ leBytes 4 (nf * 64) ++
    first ++ last)
  let fences := (List.range nb).flatMap fun i =>
    ((ts[i * 1024]?.map fun x => x.key.take 8).getD (zeros 8)) ++ leBytes 8 (4096 + i * 65536)
  h ++ leBytes 4 (crc32c h).toNat ++ fit (nb * 65536) (ts.flatMap Tuple.bytes) ++ fit (ceilDiv fences.length 4096 * 4096) fences ++
    (List.range nf).flatMap fun b => leBytes 64 (filterBlock hash ts nf b)

/-- The tuples of the run image at an address; those whose CRC fails are left out. -/
def State.readRun (s : State) (t addr : Nat) : List Tuple :=
  let n := min 65536 (s.readLe t (addr + 8) 4)
  (List.range n).filterMap fun i => Tuple.ofBytes (s.readMem t (addr + 4096 + 64 * i) 64)

/-! ### The engine (R215, R216) -/

/-- IDX_QTAIL: a steward advances QTAIL of a queue. -/
def execIdxQtail (t : TileId) (qn : Fin 4) (v : Word) (s : State) : Out :=
  s.ends (if s.hasTile t then s.setTail (.idx t) qn v else s.decErr (regAddr (.idx t) (0x04C + 16 * qn)) 0)

/-- The job that starts next: queue, descriptor and the state with the arbiter's pointer moved (R215). -/
def State.idxPick (s : State) (t : Nat) : Option (Nat × List Byte × State) :=
  let b : Block := .idx t
  if !s.idxUp t || !s.blockOn b || !bitN (s.rd b 0) 0 || (s.tileAt t).idx.running.isSome || !s.compFree b 0x01C 0x020 0x024 then none
  else (rotate 4 (s.tileAt t).idx.ptr (s.queueReq b)).map fun q =>
    (q, s.queueHead t b q 32, s.onTileAt t fun x => { x with idx := { x.idx with ptr := (q + 1) % 4 } })

/-- A job taken, with its result. -/
def State.idxRun (s : State) (t q : Nat) (d : List Byte) (status nout ndrop : Nat) : State :=
  (((s.holdRef t (leAt d 8 4) 64).queueTake (.idx t) q).onTileAt t fun x => { x with idx := { x.idx with running := some ⟨q, d, status, nout, ndrop⟩ } }).idxStat t

/-- The reserved fields, alignment and range of an index descriptor (Table 9.9). -/
def idxInvalid (d : List Byte) : Bool :=
  let op := at1 d 0
  op == 0 || 4 < op || 4 ≤ at1 d 1 || (bitN (at1 d 1) 1 && op != 4) || 4096 ≤ leAt d 2 2 || leAt d 8 4 % 64 != 0 ||
  leAt d 12 4 % 64 != 0 || leAt d 25 3 != 0 || (op != 1 && (leAt d 16 8 != 0 || at1 d 24 != 0)) ||
  ((op == 1 || op == 2) && leAt d 28 4 != 0)

/-- The shape of every index job: the head of the granted queue is of one OP; INVALID and PARITY end it without effect. -/
def State.idxJob (s : State) (t op : Nat) (parity : Bool) (len : List Byte → Nat) (work : Nat → List Byte → State → State) : State :=
  match s.idxPick t with
  | none => s
  | some (q, d, s1) =>
    if at1 d 0 ≠ op ∧ !(op = 1 ∧ (at1 d 0 = 0 ∨ 4 < at1 d 0)) then s
    else if idxInvalid d then s1.idxRun t q d 3 0 0
    else if parity || s1.anyPoison t (leAt d 8 4) (len d) then
      let s2 := (s1.flag (.idx t) 0x028 3).onTileAt t fun x => { x with idx := { x.idx with held := some (q, d) } }
      s2.idxRun t q d 2 0 0
    else work q d s1

/-- The grain size of a namespace, 4,096 where it is not defined. -/
def State.grainOfNsx (s : State) (nsx : Nat) : Nat := ((s.nsOf (nsx + 1)).map fun n => n.grain).getD 4096

/-- The work of an EXTRACT job (R199 to R201): tuples of the grain go to the filling half, or to the other when it has room; with
both full the job ends with NOSPACE and the grain waits. -/
def State.extract (s : State) (t q : Nat) (d : List Byte) : State :=
  let nsx := leAt d 2 2
  match s.indexDecl (nsx + 1), s.nsLayout (nsx + 1) with
  | some decl, some lay =>
    let g := s.grainOfNsx nsx
    let gidx := leAt d 16 8
    let gen := at1 d 24
    let r := tuplesOf decl lay g gidx gen (s.readMem t (leAt d 8 4) g)
    let x := (s.tileAt t).idx
    let room (second : Bool) : Bool := (if second then x.half1 else x.half0).length + r.1.length ≤ 8192
    let pick : Option Bool := if room x.second then some x.second else if room (!x.second) then some (!x.second) else none
    match pick with
    | none => s.idxRun t q d 1 0 0
    | some h =>
      let have_ := (if h then x.half1 else x.half0).length
      let mine (p : Nat × Tuple) : Bool := p.1 == nsx && p.2.gidx == gidx && p.2.gen == gen
      let known := x.fresh.any mine
      let new := r.1.map fun y => (nsx, y)
      let base := s.rd (.idx t) 0x008 / 2 ^ 19 * 2 ^ 19 + (if h then 0x80000 else 0) + 64 * have_
      let s1 := (if known then s else s.countTuples t r).writeMem t base (r.1.flatMap Tuple.bytes)
      let s2 := s1.onTileAt t fun y => { y with idx := { y.idx with
        second := h
        half0 := if h then y.idx.half0 else y.idx.half0 ++ new
        half1 := if h then y.idx.half1 ++ new else y.idx.half1
        fresh := y.idx.fresh.filter fun p => !mine p } }
      let s3 := if q = 2 then s2.count (.idx t) 0x098 1 else s2
      s3.idxRun t q d 0 r.1.length (r.2.1 + r.2.2)
  | _, _ => s.idxRun t q d 3 0 0

/-- EXTRACT. -/
def execExtract (t : TileId) (parity : Bool) (s : State) : Out :=
  s.ends (s.idxJob t 1 parity (fun d => s.grainOfNsx (leAt d 2 2)) fun q d s => s.extract t q d)

/-- IDX_SEAL: the half that is not filling, or the filling one when the other is empty, is sorted and its tuples of the namespace
become a batch: image at DST, IRUN ADD (R201, R203, R205). -/
def execIdxSeal (t : TileId) (parity : Bool) (s : State) : Out :=
  s.ends (s.idxJob t 2 parity (fun _ => 0) fun q d s =>
    let nsx := leAt d 2 2
    let x := (s.tileAt t).idx
    let other := if x.second then x.half0 else x.half1
    let h := if other = [] then x.second else !x.second
    let src := if h then x.half1 else x.half0
    let ts := sortBy Tuple.lt ((src.filter fun p => p.1 == nsx).map fun p => p.2)
    let hash := ((s.indexDecl (nsx + 1)).map declHash).getD false
    let keep := src.filter fun p => p.1 != nsx
    let s1 := s.writeMem t (leAt d 12 4) (runImage 15 nsx x.nextRun hash ts)
    let s2 := (s1.addRun t nsx 15 ts).onTileAt t fun y => { y with idx := { y.idx with
      half0 := if h then y.idx.half0 else keep
      half1 := if h then keep else y.idx.half1
      second := if h = x.second then !x.second else x.second } }
    s2.idxRun t q d 0 ts.length 0)

/-- MERGE: the runs of a source list (ARG addresses of 4 bytes at SRC) merged into one run at DST, stale tuples and duplicates
dropped (R202, R204); then the merge that is due in the run directory, when its output fits in the free fence entries. -/
def execMerge (t : TileId) (parity : Bool) (s : State) : Out :=
  s.ends (s.idxJob t 3 parity (fun d => 4 * leAt d 28 4) fun q d s =>
    let nsx := leAt d 2 2
    let srcs := (List.range (min 1024 (leAt d 28 4))).map fun i => s.readLe t (leAt d 8 4 + 4 * i) 4
    let all := srcs.flatMap (s.readRun t)
    let live := sortBy Tuple.lt ((all.filter (s.tupleLive t nsx)).eraseDups)
    let hash := ((s.indexDecl (nsx + 1)).map declHash).getD false
    let s1 := s.writeMem t (leAt d 12 4) (runImage 0 nsx (s.tileAt t).idx.nextRun hash live)
    let s2 := match s1.mergeDue t nsx with
      | some (level, src) =>
        let need := sumOf (src.map fun (r : Run) => ceilDiv r.tuples.length 1024)
        if (s1.tileAt t).idx.fences + need ≤ 65536 then
          let nums := src.map fun (r : Run) => r.num
          s1.mergeRuns t nsx level fun (r : Run) => nums.contains r.num
        else s1
      | none => (s1.count (.idx t) 0x090 (all.length - live.length)).count (.idx t) 0x094 1
    s2.idxRun t q d 0 live.length (all.length - live.length))

/-- Whether a stored key lies within bounds. -/
def inBounds (lo hi : List Byte) (loex hiex : Bool) (k : List Byte) : Bool :=
  !(bytesLt k lo) && !(bytesLt hi k) && !(loex && k == lo) && !(hiex && k == hi)

/-- PROBE: the live tuples of a tuple block whose keys lie within the bounds are written at DST (R204, R207). The bounds at ARG are
two 32-byte stored keys, their lengths and a byte of exclusions; with FILTER, the key's filter block follows the tuple block. -/
def execProbe (t : TileId) (parity : Bool) (s : State) : Out :=
  s.ends (s.idxJob t 4 parity (fun _ => 65536) fun q d s =>
    let nsx := leAt d 2 2
    let src := leAt d 8 4
    let b := s.readMem t (leAt d 28 4) 67
    let lo := slice 0 (min 32 (at1 b 64)) b
    let hi := slice 32 (min 32 (at1 b 65)) b
    let hash := ((s.indexDecl (nsx + 1)).map declHash).getD false
    let w := s.readLe t (src + 65536) 64
    let passes := !bitN (at1 d 1) 1 || (filterBits (filterHash hash lo) 1).2.all (bitN w)
    if !passes then s.idxRun t q d 0 0 0
    else
      let ts := (List.range 1024).filterMap fun i => Tuple.ofBytes (s.readMem t (src + 64 * i) 64)
      let hits := ts.filter fun x => x.klen != 0 && inBounds lo hi (bitN (at1 b 66) 0) (bitN (at1 b 66) 1) x.real
      let live := hits.filter (s.tupleLive t nsx)
      let s1 := s.writeMem t (leAt d 12 4) (live.flatMap Tuple.bytes)
      let s2 := if bitN (at1 d 1) 1 && hits == [] then s1.count (.idx t) 0x09C 1 else s1
      s2.idxRun t q d 0 live.length (hits.length - live.length))

/-- A completion entry of the index builder. -/
def IdxJob.entry (j : IdxJob) : List Byte :=
  slice 4 4 j.desc ++ leBytes 1 j.status ++ zeros 3 ++ leBytes 4 j.nout ++ leBytes 4 j.ndrop

/-- IDX_JOB_COMPLETE (R215). -/
def execIdxJobComplete (t : TileId) (s : State) : Out :=
  s.ends (match (s.tileAt t).idx.running with
    | none => s
    | some j =>
      let s1 := (s.onTile t fun x => { x with idx := { x.idx with running := none } }).postComp t (.idx t) 0x01C 0x020 0x024 j.entry
      let s2 := if bitN (at1 j.desc 1) 0 then s1.flag (.idx t) 0x028 0 else s1
      s2.idxStat t)

/-- IDX_QCTRL_EN_CLEAR: a queue is disabled and its untaken jobs end with FLUSHED (Table 9.10). -/
def execIdxQctrlEnClear (t : TileId) (qn : Fin 4) (s : State) : Out :=
  s.ends (if s.hasTile t && s.blockOn (.idx t) then
      (s.flushQueue t (.idx t) qn 0x01C 0x020 0x024 32 fun d => IdxJob.entry { queue := qn, desc := d, status := 4 }).unflag
        (.idx t) (0x044 + 16 * qn) 0
    else s.decErr (regAddr (.idx t) (0x044 + 16 * qn)) 0)

/-- INDEX_REGENERATION: a tile extracts again the grains of an indexed namespace whose MAP record lies in the replayed journal and
whose entry is STORED (R212), or every STORED grain where a page of a run was lost (R204); when every tile has finished every namespace, vendor event 02h (R213). -/
def execIndexRegeneration (t : TileId) (nsx : Nat) (s : State) : Out :=
  s.ends (if !(s.tileAt t).idx.regen.contains nsx then s
    else
      let f := (s.tileAt t).ftl
      let known := f.overlay.map (fun o => o.key) ++
        if (s.tileAt t).idx.regenAll.contains nsx then f.leaves.map fun p => p.1 else []
      let keys := (known.filter fun k => k.nsx == nsx && (f.entry k).state == .stored).eraseDups
      let one (s : State) (k : GKey) : State := match f.storedAt k (f.entry k).loc with
        | some g => (s.indexGrain t nsx k.lg g.data).count (.idx t) 0x098 1
        | none => s
      let s1 := (keys.foldl one s).onTile t fun x => { x with idx := { x.idx with regen := x.idx.regen.filter (fun n => n != nsx), regenAll := x.idx.regenAll.filter fun n => n != nsx } }
      let s2 := if (s1.tileAt t).idx.regen = [] then s1.flag (.idx t) 0x028 2 else s1
      let s3 := s2.idxStat t
      if s3.tiles.toList.all fun x => x.idx.regen == [] then s3.raise 7 2 0 else s3)

/-! ### LOOKUP and RANGE (R206 to R211) -/

/-- A match: its tuple, its tile, and the run and tuple block that it was read from. -/
structure Hit where
  tup  : Tuple
  tile : Nat
  src  : Option (Nat × Nat)
  deriving DecidableEq, Repr

/-- The live matches of a tile, those of a run with the block that holds them (R207). LOOKUP reads a run only when its filter
passes. -/
def State.tileHits (s : State) (t nsx : Nat) (look hash : Bool) (lo hi : List Byte) (loex hiex : Bool) : List Hit :=
  let x := (s.tileAt t).idx
  let ok (y : Tuple) : Bool := inBounds lo hi loex hiex y.real && s.tupleLive t nsx y
  let fromRun (r : Run) : List Hit :=
    if r.nsx != nsx || (look && !filterHolds hash r.tuples lo) then []
    else (List.range r.tuples.length).filterMap fun i => (r.tuples[i]?).bind fun y =>
      if ok y then some ⟨y, t, some (r.num, i / 1024)⟩ else none
  (x.loose nsx).filterMap (fun y => if ok y then some ⟨y, t, none⟩ else none) ++ x.runs.flatMap fromRun

/-- The matches of the package in ascending key, then LBA, then record order, each once (R207). -/
def State.allHits (s : State) (nsx : Nat) (look hash : Bool) (lo hi : List Byte) (loex hiex : Bool) : List Hit :=
  let hs := s.tileIds.flatMap fun t => s.tileHits t nsx look hash lo hi loex hiex
  let firsts := hs.foldl (fun (acc : List Hit) h => if acc.any fun a => a.tup == h.tup then acc else acc ++ [h]) []
  sortBy (fun a b => Tuple.lt a.tup b.tup) firsts

/-- Run bytes charged as the search reads its blocks of 64 KiB, until the quota runs out (R211): the matches that were read, the first
that was not, and the state. -/
def State.chargeHits (s : State) (qbi : Nat) : List Hit → List (Nat × Nat × Nat) → List Hit × Option Hit × State
  | [], _ => ([], none, s)
  | h :: hs, seen =>
    match h.src with
    | some (r, b) =>
      if seen.contains (h.tile, r, b) then
        let p := s.chargeHits qbi hs seen
        (h :: p.1, p.2)
      else if s.scanSpent qbi then ([], some h, s)
      else
        let p := (s.chargeScan qbi 65536).chargeHits qbi hs ((h.tile, r, b) :: seen)
        (h :: p.1, p.2)
    | none =>
      let p := s.chargeHits qbi hs seen
      (h :: p.1, p.2)

/-- The position of a match. -/
def Hit.pos (h : Hit) : IdxPos := ⟨h.tup.real, h.tup.gidx, h.tup.ridx⟩

/-- Whether a match lies at or after a position. -/
def Hit.atOrAfter (h : Hit) (p : IdxPos) : Bool :=
  bytesLt p.key h.tup.real || (p.key == h.tup.real && (p.gidx < h.tup.gidx || (p.gidx == h.tup.gidx && p.ridx ≤ h.tup.ridx)))

/-- Consecutive matches of one key and one grain together (R207). -/
def groupHits : List Hit → List QItem
  | [] => []
  | h :: hs =>
    let x := h.tup
    let one : Nat × Nat × Nat × Bool := (x.ridx, x.roff, x.gen, x.trunc)
    match groupHits hs with
    | q :: qs => if q.gidx = x.gidx ∧ q.key.take q.klen = x.real then { q with recs := one :: q.recs } :: qs
      else ⟨x.key, x.klen, x.gidx, [one]⟩ :: q :: qs
    | [] => [⟨x.key, x.klen, x.gidx, [one]⟩]

/-- An ADDR entry (Table 9.7). -/
def addrEntry (ns : Namespace) (type : Nat) (x : Tuple) : List Byte :=
  leBytes 8 (x.gidx * ns.perGrain + x.roff / ns.blockSize) ++ leBytes 2 x.ridx ++ leBytes 2 x.roff ++ leBytes 1 x.gen ++
    leBytes 1 (b2n x.trunc) ++ leBytes 1 x.klen ++ zeros 1 ++ fit 32 (queryOf type x.real)

/-- ADDR blocks of up to 1,024 entries (R208). -/
def addrBlocks (ns : Namespace) (type : Nat) : Nat → List Hit → List Byte
  | 0, _ => []
  | fuel + 1, hs =>
    match hs with
    | [] => []
    | h :: _ =>
      let now := hs.take 1024
      outBlock 0x05 (h.tile * 2) now.length (h.tup.gidx * ns.perGrain + h.tup.roff / ns.blockSize)
        (now.flatMap fun x => addrEntry ns type x.tup) ++ addrBlocks ns type fuel (hs.drop 1024)

/-- The most entries whose ADDR blocks fit in a space. -/
def addrFit (space : Nat) : Nat :=
  let full := space / (16 + 48 * 1024)
  full * 1024 + (space - full * (16 + 48 * 1024) - 16) / 48

/-- The key of a query in stored form. -/
def queryKey (type o k : Nat) (cpb : List Byte) : List Byte := storedOf type (slice o k cpb)

/-- KLEN of a bound against the key type, and the zero bytes beyond it (R206). -/
def boundOk (type o k : Nat) (cpb : List Byte) : Bool :=
  (if isStringType type then decide (1 ≤ k ∧ k ≤ 32) else k == 8) && zeroAt cpb (o + k) (32 - k)

/-- The cursor that a RANGE token names: it is there, SEQ agrees and CHECK holds (R210). -/
def State.queryResume (s : State) (t : Track) (x : SesSnap) : Option Cursor :=
  let tok := slice 0 16 t.sqe.cpb
  match (s.slotsOf x.snum).cursors.find? fun c => c.num == at1 tok 0 && c.seq == leAt tok 4 4 with
  | none => none
  | some c =>
    let e := t.sqe
    let cover := leBytes 4 e.nsid.toNat ++ leBytes 4 e.cdw2.toNat ++ leBytes 1 e.slot ++ slice 16 1 e.cpb ++ slice 17 1 e.cpb ++
      slice 32 32 e.cpb ++ slice 64 32 e.cpb ++ leBytes 1 (b2n (bitN e.cdw13.toNat 9)) ++ leBytes 1 (b2n (bitN e.cdw13.toNat 10)) ++
      leBytes 1 c.num ++ leBytes 4 c.seq
    if tok == leBytes 1 c.num ++ leBytes 1 2 ++ zeros 2 ++ leBytes 4 c.seq ++ zeros 4 ++
        kmac256 (s.slotKey 8) (ascii "LTRTOK") cover 4 then some c else none

/-- The tiles on which a search would read a run with a page that neither the ladder nor RAIN recovers (R204). -/
def State.lostRunTiles (s : State) (nsx : Nat) (look hash : Bool) (lo : List Byte) (maps : List (Nat × Nat × Nat × Nat)) : List Nat :=
  s.tileIds.filter fun t => (s.tileAt t).idx.runs.any fun r => r.nsx == nsx && (!look || filterHolds hash r.tuples lo) &&
    maps.any fun p => p.1 == t && p.2.1 == 3 && p.2.2.1 == r.num

/-- A tile regenerates the whole namespace: its runs there are dropped and every STORED grain is due (R204, R213). -/
def State.regenerate (s : State) (nsx t : Nat) : State :=
  ((s.dropRuns t fun r => r.nsx == nsx).onTileAt t fun x => { x with idx := { x.idx with
    half0 := x.idx.half0.filter (fun p => p.1 != nsx), half1 := x.idx.half1.filter (fun p => p.1 != nsx)
    fresh := x.idx.fresh.filter (fun p => p.1 != nsx)
    regen := x.idx.regen.filter (fun n => n != nsx) ++ [nsx]
    regenAll := x.idx.regenAll.filter (fun n => n != nsx) ++ [nsx] } }).idxStat t

/-- The filter passes of a LOOKUP in runs that do not hold its key, counted on each tile (R203). -/
def State.countFpos (s : State) (nsx : Nat) (hash : Bool) (lo : List Byte) : State :=
  s.tileIds.foldl (fun (s : State) t =>
    let n := ((s.tileAt t).idx.runs.filter fun r =>
      r.nsx == nsx && filterHolds hash r.tuples lo && !(r.tuples.any fun y => y.real == lo)).length
    if n = 0 then s else s.count (.idx t) 0x09C n) s

/-- A query whose checks have passed: the search, then ADDR blocks or the image's output. -/
def State.runQuery (s : State) (t : Track) (x : SesSnap) (ns : Namespace) (decl lay : List Byte) (img : Option (List Byte))
    (start : Option IdxPos) (env : MediaEnv) : State :=
  let e := t.sqe
  let look := e.opc == 0x86
  let type := declType decl lay
  let lo := queryKey type 32 (at1 e.cpb 16) e.cpb
  let hi := if look then lo else queryKey type 64 (at1 e.cpb 17) e.cpb
  let c13 := e.cdw13.toNat
  let hits := (s.allHits ns.nsx look (declHash decl) lo hi (!look && bitN c13 9) (!look && bitN c13 10)).filter fun h =>
    match start with
    | some p => h.atOrAfter p
    | none => true
  let s0 := if look then s.countFpos ns.nsx (declHash decl) lo else s
  let ch := (s0.vendorStart t.key x).chargeHits x.qbi hits []
  let more := ch.2.1.map Hit.pos
  let base : ScanRun := { key := t.key, ctx := ⟨img.getD [], lay, (s.slotsOf x.snum).sets, ns.nsid, ns.grain, x.cls⟩, lo := 0, hi := 0,
                          next := 0, rec0 := 0, endG := 0, items := some [], more := more, space := 0, charged := 0, env := env,
                          mat := none }
  match img with
  | some m =>
    let r := { base with items := some (groupHits ch.1), space := e.outBytes - endLen m }
    let s1 := ch.2.2.loadAreas t.key r.ctx
    ({ s1 with sift := { s1.sift with runs := s1.sift.runs ++ [r] } } : State).drive t.key
  | none =>
    let n := addrFit (e.outBytes - 64)
    let out := ch.1.take n
    let cut := ((ch.1.drop n).head?).map Hit.pos
    let r := { base with out := addrBlocks ns type (out.length / 1024 + 1) out, more := cut.orElse fun _ => more,
                         scanned := out.length, passed := out.length, emitted := out.length }
    ch.2.2.scanFinish { r with items := some [] } (if r.more.isSome then .outputExhausted else .success) 0 0 0

/-- The checks of LOOKUP and RANGE in the order of R70 (R206, R208, R210, R211, R213). -/
def State.startQuery (s : State) (t : Track) (env : MediaEnv) : State :=
  let e := t.sqe
  let k := t.key
  let nsid := e.nsid.toNat
  let look := e.opc == 0x86
  if !e.vendorForm then s.fail k .invalidField
  else if e.dptr.prpOffsetBad && !e.dptr.sgl then s.fail k .invalidPrpOffset
  else match s.vendorSession t [(nsid, 4)], s.nsOf nsid with
    | some x, some ns =>
      match s.indexDecl nsid, s.nsLayout nsid with
      | some decl, some lay =>
        let type := declType decl lay
        let klo := at1 e.cpb 16
        let khi := at1 e.cpb 17
        let img : Option (Option (List Byte)) := if e.slot = 0xFF then some none
          else match s.imageFor x e.slot nsid with
            | some (m, _) => if modeFits e.opc (imgMode m) && largeOk lay m ns.grain then some (some m) else none
            | none => none
        if !boundOk type 32 klo e.cpb || (!look && (declHash decl || !boundOk type 64 khi e.cpb)) then s.fail k .invalidField
        else match img with
          | none => s.fail k .imageInvalid
          | some m =>
            let cur := if e.res then s.queryResume t x else none
            if e.res && cur.isNone then s.fail k .invalidField
            else match s.vendorNs nsid with
              | .success =>
                if s.tiles.toList.any fun y => y.idx.regen.contains ns.nsx then s.fail k .indexNotReady
                else if !s.quotaStep x e.cdw14.toNat then s.failQuota k x
                else if e.dptr.transferError then s.fail k .dataTransferError
                else
                  let s1 := match cur with
                    | some c => s.onSlots x.snum fun y => { y with cursors := y.cursors.filter fun z => z.num != c.num }
                    | none => s
                  let lost := s1.lostRunTiles ns.nsx look (declHash decl) (queryKey type 32 klo e.cpb) env.maps
                  if lost != [] then (lost.foldl (fun (s : State) t => s.regenerate ns.nsx t) s).fail k .indexNotReady
                  else s1.runQuery t x ns decl lay m (cur.map fun c => c.pos) env
              | st => s.fail k st
      | _, _ => s.fail k .imageInvalid
    | _, _ => (s.logSession k.fn 1 0 e.cdw2.toNat).fail k .sessionInvalid

/-- A query started when it is new, driven on when it waits. -/
def State.queryRow (s : State) (t : Track) (env : MediaEnv) : State :=
  match s.runOf t.key with
  | none => s.startQuery t env
  | some r => (s.setRun { r with env := env }).drive t.key

/-- LOOKUP: the records whose key equals KEY_LO (R206). -/
def execLookup (k : CmdKey) (env : MediaEnv) (s : State) : Out := s.ends (s.withTrack k 0x86 fun t => s.queryRow t env)

/-- RANGE: the records whose keys lie between the bounds (R206). -/
def execRange (k : CmdKey) (env : MediaEnv) (s : State) : Out := s.ends (s.withTrack k 0x8A fun t => s.queryRow t env)

/-! ### Index messages (R196) -/

/-- The offset of the first faulty byte of an index declaration (Table 9.1); 0, NSID, for a namespace that holds no records. -/
def declFault (lay : Option (List Byte)) (p : List Byte) : Option Nat :=
  let nkf := at1 p 5
  let nf := (lay.map layFields).getD 0
  let f (i : Nat) : Nat := at1 p (8 + i)
  firstFault <| show List (Nat × Bool) from
    [(0, lay.isSome), (4, decide (at1 p 4 ≤ 1)), (5, if at1 p 4 = 0 then nkf == 1 else decide (1 ≤ nkf ∧ nkf ≤ 4))] ++
    zeroChecks p 6 2 ++ zeroChecks p 12 4 ++
    (List.range 4).map fun i => (8 + i, if i < nkf then decide (f i < nf) && (List.range i).all fun j => f j != f i else f i == 0xFF)

/-- INDEX_DECLARE (R196): the payload's fields, then NUSE and an index already declared. -/
def execIndexDeclare (q : Req) (storeOk : Bool) (s : State) : Out :=
  s.ends (s.sessRun q 0x030A fun x s =>
    let p := q.body
    let nsid := leAt p 0 4
    if !bitN (s.liveRights x nsid) 1 then refuse s 4
    else match declFault (s.nsLayout nsid) p with
      | some o => refuse s 0x8009 (leBytes 4 o)
      | none =>
        if !s.nsEmpty nsid then refuse s 0x8005
        else if (s.indexDecl nsid).isSome then refuse s 0x800A
        else match s.storeWrite storeOk { s.cfg.body with indexes := s.cfg.body.indexes ++ [⟨nsid, 0, p⟩] } with
          | some s1 => done s1
          | none => refuse (s.log 2 0 2 8 0 0) 0x800C)

/-- Every run and loose tuple of a namespace dropped on every tile, with IRUN REMOVE records (R196). -/
def State.dropIndex (s : State) (nsx : Nat) : State :=
  s.tileIds.foldl (fun (s : State) t =>
    ((s.dropRuns t fun r => r.nsx == nsx).onTileAt t fun x => { x with idx := { x.idx with
      half0 := x.idx.half0.filter (fun p => p.1 != nsx), half1 := x.idx.half1.filter (fun p => p.1 != nsx)
      fresh := x.idx.fresh.filter (fun p => p.1 != nsx), regen := x.idx.regen.filter (fun n => n != nsx)
      regenAll := x.idx.regenAll.filter fun n => n != nsx } }).idxStat t) s

/-- INDEX_DROP (R196). -/
def execIndexDrop (q : Req) (storeOk : Bool) (s : State) : Out :=
  s.ends (s.sessRun q 0x030B fun x s =>
    let p := q.body
    let nsid := leAt p 0 4
    if !zeroAt p 4 4 then refuse s 2
    else if !bitN (s.liveRights x nsid) 1 then refuse s 4
    else if (s.indexDecl nsid).isNone then refuse s 0x800B
    else match s.storeWrite storeOk { s.cfg.body with indexes := s.cfg.body.indexes.filter fun i => i.nsid != nsid } with
      | some s1 => done (s1.dropIndex (nsid - 1))
      | none => refuse (s.log 2 0 2 8 0 0) 0x800C)

/-- The state of the index of a namespace (Table 9.2). -/
def State.indexState (s : State) (nsx : Nat) : List Byte :=
  let xs := s.tileIds.map s.tileAt
  let runs := xs.flatMap fun y => y.idx.runs.filter fun r => r.nsx == nsx
  let st := if xs.any fun y => y.idx.regen.contains nsx then 1 else if xs.any fun y => y.idx.full then 2 else 0
  let live := sumOf (s.tileIds.map fun t => (s.liveTuples t nsx).length)
  let n (l : Nat) : List Byte := leBytes 2 (runs.filter fun r => r.level == l).length
  leBytes 1 st ++ zeros 3 ++ leBytes 8 live ++ leBytes 8 (sumOf (runs.map fun r => runBytes r.tuples.length)) ++ n 15 ++
    (List.range 8).flatMap n ++ zeros 2

/-- INDEX_STATUS (Table 9.2). -/
def execIndexStatus (q : Req) (s : State) : Out :=
  s.ends (s.sessRun q 0x030C fun x s =>
    let p := q.body
    let nsid := leAt p 0 4
    if !zeroAt p 4 4 then refuse s 2
    else if !bitN (s.liveRights x nsid) 2 then refuse s 4
    else if (s.indexDecl nsid).isNone then refuse s 0x800B
    else done s (s.indexState (nsid - 1)))

end Sys2Proof.Machine
end

