-- ==== Sys2Proof/Machine/Aes.lean ====
section
/-! DEFINITION. Machine/Aes.lean: AES-256 (FIPS 197) on 16-byte blocks, and AES key wrap (NIST SP 800-38F, KW), as the cipher
queue and the wrap unit compute them (R326, R328). -/

namespace Sys2Proof.Machine

open Sys2Proof

/-- The S-box of FIPS 197 as one number: byte i is the image of i. -/
def aesSbox : Nat := 0x16bb54b00f2d99416842e6bf0d89a18cdf2855cee9871e9b948ed9691198f8e19e1dc186b95735610ef6034866b53e708a8bbd4b1f74dde8c6b4a61c2e2578ba08ae7a65eaf4566ca94ed58d6d37c8e779e4959162acd3c25c2406490a3a32e0db0b5ede14b8ee4688902a22dc4f816073195d643d7ea7c41744975fec130ccdd2f3ff1021dab6bcf5389d928f40a351a89f3c507f02f94585334d43fbaaefd0cf584c4a39becb6a5bb1fc20ed00d153842fe329b3d63b52a05a6e1b1a2c830975b227ebe28012079a059618c323c7041531d871f1e5a534ccf73f362693fdb7c072a49cafa2d4adf04759fa7dc982ca76abd7fe2b670130c56f6bf27b777c63

/-- The inverse S-box. -/
def aesInvSbox : Nat := 0x7d0c2155631469e126d677ba7e042b17619953833cbbebc8b0f52aae4d3be0a0ef9cc9939f7ae52d0d4ab519a97f51605fec8027591012b131c7078833a8dd1ff45acd78fec0db9a2079d2c64b3e56fc1bbe18aa0e62b76f89c5291d711af1476edf751ce837f9e28535ade72274ac9673e6b4f0cecff297eadc674f4111913a6b8a130103bdafc1020f3fca8f1e2cd00645b3b80558e4f70ad3bc8c00abd890849d8da75746155edab9edfd5048706c92b6655dcc5ca4d41698688664f6f87225d18b6d49a25b76b224d92866a12e084ec3fa420b954cee3d23c2a632947b54cbe9dec444438e3487ff2f9b8239e37cfbd7f3819ea340bf38a53630d56a0952

/-- A byte through a table held as a number. -/
def subByte (table : Nat) (b : Byte) : Byte := BitVec.ofNat 8 (table >>> (8 * b.toNat))

/-- Multiplication by x in GF(2^8). -/
def xtime (b : Byte) : Byte := (b <<< 1) ^^^ (if b.getLsbD 7 then 0x1B else 0)

/-- Multiplication in GF(2^8), for a factor below 16. -/
def gmul (a : Byte) (k : Nat) : Byte :=
  let a2 := xtime a
  let a4 := xtime a2
  let a8 := xtime a4
  (if bitN k 0 then a else 0) ^^^ (if bitN k 1 then a2 else 0) ^^^ (if bitN k 2 then a4 else 0) ^^^ (if bitN k 3 then a8 else 0)

/-- One column times a circulant matrix whose first row is `m`. -/
def mixColumn (m : List Nat) : List Byte → List Byte
  | [a, b, c, d] =>
    let k (i : Nat) : Nat := m.getD (i % 4) 0
    (List.range 4).map fun r =>
      gmul a (k (4 - r)) ^^^ gmul b (k (5 - r)) ^^^ gmul c (k (6 - r)) ^^^ gmul d (k (7 - r))
  | x => x

/-- The four columns of a state. -/
def columns (s : List Byte) : List (List Byte) := (List.range 4).map fun c => slice (4 * c) 4 s

/-- ShiftRows by `k` columns per row: 1 forward, 3 inverse. -/
def shiftRows (k : Nat) (s : List Byte) : List Byte :=
  (List.range 16).map fun i => s.getD ((i + 4 * k * (i % 4)) % 16) 0

/-- The words of an expanded AES-256 key, latest first. -/
def expandGo : Nat → Byte → List (List Byte) → List (List Byte)
  | 0, _, ws => ws
  | n + 1, rcon, ws =>
    let i := ws.length
    let prev := ws.headD []
    let t := if i % 8 = 0 then
        match prev.map (subByte aesSbox) with
        | [a, b, c, d] => [b ^^^ rcon, c, d, a]
        | x => x
      else if i % 8 = 4 then prev.map (subByte aesSbox) else prev
    expandGo n (if i % 8 = 0 then xtime rcon else rcon) (xorBytes (ws.getD 7 []) t :: ws)

/-- The fifteen round keys of AES-256. -/
def roundKeys (key : List Byte) : List (List Byte) :=
  let w0 := (List.range 8).map fun i => slice (4 * i) 4 key
  let ws := (expandGo 52 1 w0.reverse).reverse
  (List.range 15).map fun r => ((ws.drop (4 * r)).take 4).flatten

/-- The middle rounds and the last round of the cipher. -/
def cipherRounds : List (List Byte) → List Byte → List Byte
  | [], s => s
  | [k], s => xorBytes (shiftRows 1 (s.map (subByte aesSbox))) k
  | k :: ks, s =>
    cipherRounds ks (xorBytes ((columns (shiftRows 1 (s.map (subByte aesSbox)))).flatMap (mixColumn [2, 3, 1, 1])) k)

/-- E(K, block). -/
def aesEncrypt (ks : List (List Byte)) (b : List Byte) : List Byte :=
  cipherRounds (ks.drop 1) (xorBytes b (ks.headD []))

/-- The rounds of the inverse cipher, over the round keys in reverse order without the first that applies. -/
def decipherRounds : List (List Byte) → List Byte → List Byte
  | [], s => s
  | [k], s => xorBytes ((shiftRows 3 s).map (subByte aesInvSbox)) k
  | k :: ks, s =>
    decipherRounds ks ((columns (xorBytes ((shiftRows 3 s).map (subByte aesInvSbox)) k)).flatMap (mixColumn [14, 11, 13, 9]))

/-- D(K, block). -/
def aesDecrypt (ks : List (List Byte)) (b : List Byte) : List Byte :=
  let r := ks.reverse
  decipherRounds (r.drop 1) (xorBytes b (r.headD []))

/-- A string cut into blocks of `n` bytes. -/
def blocksOf (n : Nat) : Nat → List Byte → List (List Byte)
  | 0, _ => []
  | k + 1, b => b.take n :: blocksOf n k (b.drop n)

/-- Eight big-endian bytes of a step counter, as key wrap XORs them. -/
def wrapT (t : Nat) : List Byte := (leBytes 8 t).reverse

/-- The initial value of key wrap. -/
def wrapIv : List Byte := List.replicate 8 0xA6

/-- One pass of key wrap over the semiblocks. -/
def wrapPass (ks : List (List Byte)) : Nat → List Byte → List (List Byte) → List Byte × List (List Byte)
  | _, a, [] => (a, [])
  | t, a, r :: rs =>
    let b := aesEncrypt ks (a ++ r)
    let p := wrapPass ks (t + 1) (xorBytes (b.take 8) (wrapT t)) rs
    (p.1, b.drop 8 :: p.2)

/-- AES key wrap of a string of whole semiblocks (R326). -/
def keyWrap (kek data : List Byte) : List Byte :=
  let ks := roundKeys kek
  let n := data.length / 8
  let r := (List.range 6).foldl (fun (p : List Byte × List (List Byte)) j => wrapPass ks (n * j + 1) p.1 p.2)
    (wrapIv, blocksOf 8 n data)
  r.1 ++ r.2.flatten

/-- One pass of key unwrap, over the semiblocks in reverse order. -/
def unwrapPass (ks : List (List Byte)) : Nat → List Byte → List (List Byte) → List Byte × List (List Byte)
  | _, a, [] => (a, [])
  | t, a, r :: rs =>
    let b := aesDecrypt ks (xorBytes a (wrapT t) ++ r)
    let p := unwrapPass ks (t - 1) (b.take 8) rs
    (p.1, b.drop 8 :: p.2)

/-- AES key unwrap: none when the integrity check fails (R326). -/
def keyUnwrap (kek blob : List Byte) : Option (List Byte) :=
  let ks := roundKeys kek
  let n := blob.length / 8 - 1
  let r := (List.range 6).foldl (fun (p : List Byte × List (List Byte)) j => unwrapPass ks (n * (6 - j)) p.1 p.2)
    (blob.take 8, (blocksOf 8 n (blob.drop 8)).reverse)
  if r.1 = wrapIv then some r.2.reverse.flatten else none

end Sys2Proof.Machine
end

