-- ==== Sys2Proof/Machine/KeyRows.lean ====
section
/-! DEFINITION. Machine/KeyRows.lean: the key path of the security complex and the 05xxh messages (R320 to R326). -/

namespace Sys2Proof.Machine

open Sys2Proof

/-! ### The key path (Table 15.8) -/

/-- KEYW_WRITE: the word enters the key path and WMASK records it (R323). -/
def execKeywWrite (i : Fin 8) (v : Word) (s : State) : Out :=
  s.ends ((({ s with keys := { s.keys with kw := setAt s.keys.kw i.val v } } : State)).wr .sec 0x024
    (withField (s.rd .sec 0x024) (8 + i.val) (8 + i.val) 1))

/-- The end of every KEYCMD: ERR is set, KEYW0 to KEYW7 and WMASK are zeroed, and requester 8 has had its grant (R323, R325). -/
def State.keyCmdEnd (s : State) (err : Nat) : State :=
  (({ s with keys := { s.keys with kw := List.replicate 8 0 } } : State).wr .sec 0x024 (err * 16)).keyGrant 8

/-- WMASK is complete. -/
def State.wmaskFull (s : State) : Bool := s.rdField .sec 0x024 15 8 == 0xFF

/-- The 32 bytes in the key path. -/
def State.kwBytes (s : State) : List Byte := s.keys.kw.flatMap fun w => leBytes 4 w.toNat

/-- Whether Table 15.2 allows attributes in a slot: WRAP in slot 10 only, no XTS or WRAP on a session key, KIND not 3. -/
def attrOk (slot attr : Nat) : Bool :=
  (!bitN attr 6 || slot == 10) && !(bitN attr 4 && field attr 9 8 == 2) && field attr 9 8 != 3

/-- COMMIT_LO (R323). -/
def execCommitLo (slot : Fin 8192) (s : State) : Out :=
  s.ends (
    let attr := s.rd .sec 0x028
    if s.keysLocked then s.keyCmdEnd 5
    else if !s.wmaskFull then s.keyCmdEnd 1
    else if (s.keySlot slot.val).state ≠ 0 then s.keyCmdEnd 2
    else if !attrOk slot.val attr then s.keyCmdEnd 6
    else (s.putSlot ⟨slot.val, withField attr 1 0 (if bitN attr 7 then 1 else 2), s.kwBytes, 0⟩).keyCmdEnd 0)

/-- COMMIT_HI (R323). -/
def execCommitHi (slot : Fin 8192) (s : State) : Out :=
  s.ends (
    let k := s.keySlot slot.val
    if s.keysLocked then s.keyCmdEnd 5
    else if !s.wmaskFull then s.keyCmdEnd 1
    else if k.state ≠ 1 then s.keyCmdEnd 3
    else (s.putSlot { k with attr := withField k.attr 1 0 2, key := k.key ++ s.kwBytes }).keyCmdEnd 0)

/-- KEY_STORE_ERASE: KEYCMD ERASE (R325). -/
def execKeyStoreErase (slot : Fin 8192) (s : State) : Out :=
  s.ends (if s.keysLocked then s.keyCmdEnd 5 else (s.eraseSlot slot.val).keyCmdEnd 0)

/-- The blob address of UNWRAP and WRAP, in T0's steward SRAM. -/
def State.wrapAddr (s : State) : Nat := s.rd .sec 0x040 / 16 * 16

/-- UNWRAP: the blob at KWRAP_ADDR goes straight into the slot under the KEK in slot 10; the attributes come from the blob (R326). -/
def execUnwrap (slot : Fin 8192) (s : State) : Out :=
  s.ends (
    let kek := s.keySlot 10
    if s.keysLocked then s.keyCmdEnd 5
    else if kek.state ≠ 2 ∨ !kek.use 6 then s.keyCmdEnd 6
    else if (s.keySlot slot.val).state ≠ 0 then s.keyCmdEnd 2
    else match keyUnwrap kek.key (s.readMem 0 s.wrapAddr 80) with
      | none => s.keyCmdEnd 4
      | some b => (s.putSlot ⟨slot.val, leAt b 64 4, if bitN (leAt b 64 4) 7 then b.take 64 else b.take 32, 0⟩).keyCmdEnd 0)

/-- The 72 bytes that the wrap unit wraps: the key, and KATTR as 8 bytes (R326). -/
def KeySlot.wrapped (k : KeySlot) (kek : List Byte) : List Byte := keyWrap kek (fit 64 k.key ++ leBytes 8 k.attr)

/-- WRAP: the slot's key and attributes go, wrapped, to KWRAP_ADDR (R326). -/
def execWrap (slot : Fin 8192) (s : State) : Out :=
  s.ends (
    let kek := s.keySlot 10
    let k := s.keySlot slot.val
    if s.keysLocked then s.keyCmdEnd 5
    else if kek.state ≠ 2 ∨ !kek.use 6 ∨ k.state ≠ 2 then s.keyCmdEnd 6
    else (s.writeMem 0 s.wrapAddr (k.wrapped kek.key)).keyCmdEnd 0)

/-! ### The 05xxh messages (R324, R325, Tables 15.3 and 15.4) -/

/-- The attributes of a session key: LOADED, the use bits, LEN64, KIND 2 and the session as OWNER (Table 15.2). -/
def sessionAttr (use len snum : Nat) : Nat := 2 + field use 5 2 * 4 + (if len = 64 then 128 else 0) + 2 * 256 + snum * 1024

/-- The fields USE and LEN are in range: USE holds no bit but those of KATTR [5:2] and not XTS, LEN is 32 or 64. -/
def useLenOk (use len : Nat) : Bool := use % 4 == 0 && use < 64 && !bitN use 4 && (len == 32 || len == 64)

/-- KEY_LOAD (R324). -/
def execKeyLoad (q : Req) (s : State) : Out :=
  s.ends (s.sessRun q 0x0501 fun x s =>
    let b := q.body
    let h := leAt b 0 1
    let use := leAt b 1 1
    let len := leAt b 2 1
    if !useLenOk use len || !zeroAt b 3 5 then refuse s 2
    else if b.length ≠ 8 + len then refuse s 3
    else if x.kcnt ≤ h then refuse s 0x8001
    else if s.keysLocked then refuse s 0x8005
    else if (s.keySlot (x.kbase + h)).state ≠ 0 then refuse s 0x8002
    else done ((s.putSlot ⟨x.kbase + h, sessionAttr use len x.snum, slice 8 len b, 0⟩).keyGrant 8))

/-- KEY_DERIVE: KMAC256 under the source key over the context, customisation "LTRKDF" (R324). -/
def execKeyDerive (q : Req) (s : State) : Out :=
  s.ends (s.sessRun q 0x0502 fun x s =>
    let b := q.body
    let h := leAt b 0 1
    let h2 := leAt b 1 1
    let use := leAt b 2 1
    let len := leAt b 3 1
    if !useLenOk use len || !zeroAt b 4 4 then refuse s 2
    else if x.kcnt ≤ h ∨ x.kcnt ≤ h2 then refuse s 0x8001
    else if s.keysLocked then refuse s 0x8005
    else if (s.keySlot (x.kbase + h)).state ≠ 0 then refuse s 0x8002
    else
      let src := s.keySlot (x.kbase + h2)
      if src.state ≠ 2 then refuse s 0x8003
      else if !src.use 5 then refuse s 0x8004
      else
        let key := kmac256 src.key (ascii "LTRKDF") (b.drop 8) len
        done ((s.putSlot ⟨x.kbase + h, sessionAttr use len x.snum, key, 0⟩).keyGrant 0))

/-- The slot that a request with one handle names, after its checks. -/
def State.handleSlot (s : State) (q : Req) (x : Session) : Except Nat KeySlot :=
  let b := q.body
  let h := leAt b 0 1
  if !zeroAt b 1 7 then .error 2
  else if x.kcnt ≤ h then .error 0x8001
  else
    let k := s.keySlot (x.kbase + h)
    if k.state ≠ 2 then .error 0x8003 else .ok k

/-- KEY_ERASE: the slot is zeroed and every cached copy invalidated before the response (R325). -/
def execKeyErase (q : Req) (s : State) : Out :=
  s.ends (s.sessRun q 0x0503 fun x s =>
    match s.handleSlot q x with
    | .error e => refuse s e
    | .ok k => done ((s.eraseSlot k.slot).keyGrant 8))

/-- KEY_QUERY: KATTR and the nonce counter (R324). -/
def execKeyQuery (q : Req) (s : State) : Out :=
  s.ends (s.sessRun q 0x0504 fun x s =>
    match s.handleSlot q x with
    | .error e => refuse s e
    | .ok k => done s (leBytes 4 k.attr ++ leBytes 12 k.nonce))

/-- NSKEY_QUERY: KATTR and slot of a namespace's media key (R324). -/
def execNskeyQuery (q : Req) (s : State) : Out :=
  s.ends (s.lmcsRun q 0x0510 fun _ s =>
    let b := q.body
    if !zeroAt b 4 4 || (s.cfg.body.namespaces.all fun n => n.nsid != leAt b 0 4) then refuse s 2
    else match s.nsKeySlot (leAt b 0 4) with
      | none => refuse s 0x8003
      | some k => done s (leBytes 4 k.attr ++ leBytes 2 k.slot ++ zeros 2))

/-- ALARM_QUERY: ALARM_STAT and ALARM_CNT (R324, R341). -/
def execAlarmQuery (q : Req) (s : State) : Out :=
  s.ends (s.lmcsRun q 0x0511 fun _ s => done s (leBytes 4 (s.rd .sec 0x044) ++ leBytes 4 s.fuses.alarms))

end Sys2Proof.Machine
end

