-- ==== Sys2Proof/Machine/Cipher.lean ====
section
/-! DEFINITION. Machine/Cipher.lean: the cipher queue engines and their holds (R328 to R333, R344). -/

namespace Sys2Proof.Machine

open Sys2Proof

/-! ### Status, keys and holds -/

/-- STAT of a cipher queue engine: STATE, BUSY and HOLDS (Table 15.9). -/
def State.cqeStat (s : State) (t : Nat) : State :=
  let x := (s.tileAt t).cqe
  let st := if x.retired.isSome then 2 else b2n (bitN (s.rd (.cqe t) 0) 0)
  let holds := sumOf ((List.range 16).map fun i => if x.holds.any fun h => h.hid == i then 2 ^ i else 0)
  s.wr (.cqe t) 0x004 (st + (if x.running.isSome then 4 else 0) + holds * 65536)

/-- The state with the engine of a tile changed. -/
def State.onCqe (s : State) (t : Nat) (f : CipherEng → CipherEng) : State :=
  s.onTileAt t fun x => { x with cqe := f x.cqe }

/-- A key taken through the tile's key cache of 32 entries: a miss is counted and filled from the key store (R325). -/
def State.takeKey (s : State) (t slot : Nat) : State :=
  if (s.tileAt t).cqe.cache.contains slot then s
  else ((s.onCqe t fun x => { x with cache := newest 32 (x.cache ++ [slot]) }).count (.cqe t) 0x08C 1).keyGrant t

/-- A hold zeroed, with valid check bits, and closed (R330, R331). -/
def State.dropHold (s : State) (t hid : Nat) : State :=
  match (s.tileAt t).cqe.holds.find? fun h => h.hid == hid with
  | none => s
  | some h =>
    ((s.rawWrite t h.base (zeros 16384)).onCqe t fun x => { x with holds := x.holds.filter fun y => y.hid != hid }).cqeStat t

/-- The open holds of a session zeroed and closed on every tile (R331). -/
def State.dropHoldsOf (s : State) (snum : Nat) : State :=
  s.tileIds.foldl (fun (s : State) t =>
    ((s.tileAt t).cqe.holds.filter fun h => h.owner == 2 + snum * 4).foldl (fun (s : State) h => s.dropHold t h.hid) s) s

/-! ### Requests (Tables 15.5 and 15.6) -/

/-- CQE_QTAIL: a steward advances QTAIL of a queue (R329). -/
def execCqeQtail (t : TileId) (qn : Fin 4) (v : Word) (s : State) : Out :=
  s.ends (if s.hasTile t then s.setTail (.cqe t) qn v else s.decErr (regAddr (.cqe t) (0x04C + 16 * qn)) 0)

/-- The request that starts next: queue, descriptor and the state with the arbiter's pointer moved (R329). -/
def State.cqePick (s : State) (t : Nat) : Option (Nat × List Byte × State) :=
  let b : Block := .cqe t
  let x := (s.tileAt t).cqe
  if !s.hasTile t || x.retired.isSome || !s.blockOn b || !bitN (s.rd b 0) 0 || x.running.isSome || !s.compFree b 0x018 0x020 0x024
  then none
  else (rotate 4 x.ptr (s.queueReq b)).map fun q =>
    (q, s.queueHead t b q 32, s.onCqe t fun x => { x with ptr := (q + 1) % 4 })

/-- A request taken, with its result. -/
def State.cqeRun (s : State) (t q : Nat) (d : List Byte) (status out : Nat) : State :=
  ((s.queueTake (.cqe t) q).onCqe t fun x => { x with running := some ⟨q, d, status, out⟩ }).cqeStat t

/-- Two ranges of one length that overlap without coinciding (R328). -/
def partOverlap (a b n : Nat) : Bool := a != b && a < b + n && b < a + n

/-- The field rules of a cipher request (Table 15.5, R328, R330): reserved fields zero, flags and HID only where they apply,
alignment, length and overlap. -/
def cqeInvalid (d : List Byte) : Bool :=
  let op := at1 d 0
  let fl := at1 d 1
  let src := leAt d 16 4
  let dst := leAt d 20 4
  let aux := leAt d 24 4
  let len := leAt d 28 4
  let block := op == 1 || op == 2 || op == 3
  op == 0 || 5 < op || 32 ≤ fl || at1 d 3 != 0 || 8192 ≤ leAt d 4 2 || leAt d 6 2 != 0 || 2 ^ 20 ≤ leAt d 8 4 ||
  (bitN fl 1 && op != 3) || (bitN fl 2 && !block) || (bitN fl 3 && op != 3) || (bitN fl 4 && op != 4) ||
  (at1 d 2 != 0 && op != 3 && op != 4) || 16 ≤ at1 d 2 || src % 16 != 0 || aux % 16 != 0 ||
  (block && (len % 16 != 0 || len == 0 || 65536 < len || (!bitN fl 2 && aux != 0) || partOverlap src dst len ||
    (bitN fl 2 && (partOverlap src aux len || partOverlap dst aux len)))) ||
  (op == 4 && len != 16) || (op == 5 && len != 0)

/-- The output blocks of ENC_BLOCKS, DEC_BLOCKS and DEC_HOLD: each through the cipher, XORed with AUX when XOR is set (R328). -/
def cipherBlocks (enc : Bool) (key src : List Byte) (aux : Option (List Byte)) : List Byte :=
  let ks := roundKeys key
  let out := (blocksOf 16 (src.length / 16) src).flatMap fun b => if enc then aesEncrypt ks b else aesDecrypt ks b
  match aux with
  | some a => xorBytes out a
  | none => out

/-- The AUX operand of a request. -/
def State.cqeAux (s : State) (t : Nat) (d : List Byte) : Option (List Byte) :=
  if bitN (at1 d 1) 2 then some (s.rawRead t (leAt d 24 4) (leAt d 28 4)) else none

/-- Whether a request reads a poisoned word: of SRC, of AUX under XOR, or of the two tags of a TAGCHECK. It ends as a parity error does (R308). -/
def State.cqePoison (s : State) (t : Nat) (d : List Byte) : Bool :=
  let op := at1 d 0
  (1 ≤ op && op ≤ 3 && (s.anyPoison t (leAt d 16 4) (leAt d 28 4) || (bitN (at1 d 1) 2 && s.anyPoison t (leAt d 24 4) (leAt d 28 4)))) ||
  (op == 4 && ((!bitN (at1 d 1) 4 && s.anyPoison t (leAt d 16 4) 16) || s.anyPoison t (leAt d 24 4) 16))

/-- The shape of every request: the head of the granted queue is of one OP; INVALID and PARITY end it without effect, and a
DEC_HOLD that ends so zeroes and closes its hold (R308, R329, R330). -/
def State.cqeJob (s : State) (t op : Nat) (parity : Bool) (work : Nat → List Byte → State → State) : State :=
  match s.cqePick t with
  | none => s
  | some (q, d, s1) =>
    if at1 d 0 ≠ op ∧ !(op = 1 ∧ (at1 d 0 = 0 ∨ 5 < at1 d 0)) then s
    else
      let bad := parity || s1.cqePoison t d
      let s2 := if op = 3 ∧ (cqeInvalid d ∨ bad) then s1.dropHold t (at1 d 2) else s1
      if cqeInvalid d then s2.cqeRun t q d 9 0
      else if bad then
        ((s2.flag (.cqe t) 0x028 3).onCqe t fun x => { x with held := some (q, d) }).cqeRun t q d 8 0
      else work q d s1

/-- A request of blocks that writes ordinary memory. -/
def State.blockJob (s : State) (t q : Nat) (d : List Byte) (enc : Bool) : State :=
  let slot := leAt d 4 2
  match s.keyCheck slot (leAt d 8 4) [if enc then 2 else 3] with
  | 0 =>
    let s1 := s.takeKey t slot
    let out := cipherBlocks enc (s1.keySlot slot).key (s1.rawRead t (leAt d 16 4) (leAt d 28 4)) (s1.cqeAux t d)
    ((s1.rawWrite t (leAt d 20 4) out).count (.cqe t) 0x080 (out.length / 16)).cqeRun t q d 0 out.length
  | e => s.cqeRun t q d e 0

/-- ENC_BLOCKS (R322, R328). -/
def execEncBlocks (t : TileId) (parity : Bool) (s : State) : Out :=
  s.ends (s.cqeJob t 1 parity fun q d s => s.blockJob t q d true)

/-- DEC_BLOCKS (R322, R328). -/
def execDecBlocks (t : TileId) (parity : Bool) (s : State) : Out :=
  s.ends (s.cqeJob t 2 parity fun q d s => s.blockJob t q d false)

/-- The status of a DEC_HOLD's hold, and the hold that it writes (R330). -/
def State.holdFor (s : State) (t : Nat) (d : List Byte) : Except Nat Hold :=
  let hid := at1 d 2
  let dst := leAt d 20 4
  let len := leAt d 28 4
  let holds := (s.tileAt t).cqe.holds
  let cur := holds.find? fun h => h.hid == hid
  if bitN (at1 d 1) 3 then
    let base := dst / 16384 * 16384
    if cur.isSome || holds.any (fun h => h.base == base) then .error 7
    else if base + 16384 < dst + len then .error 9
    else .ok ⟨hid, base, leAt d 4 2, leAt d 8 4⟩
  else match cur with
    | none => .error 7
    | some h => if dst < h.base ∨ h.base + 16384 < dst + len then .error 9 else .ok h

/-- DEC_HOLD: decrypts, or with FWD encrypts, into a hold that it opens or that is open (R330). -/
def execDecHold (t : TileId) (parity : Bool) (s : State) : Out :=
  s.ends (s.cqeJob t 3 parity fun q d s =>
    let slot := leAt d 4 2
    let fwd := bitN (at1 d 1) 1
    let bad (e : Nat) : State := (s.dropHold t (at1 d 2)).cqeRun t q d e 0
    match s.holdFor t d with
    | .error e => bad e
    | .ok h => match s.keyCheck slot (leAt d 8 4) [if fwd then 2 else 3] with
      | 0 =>
        let s1 := s.takeKey t slot
        let out := cipherBlocks fwd (s1.keySlot slot).key (s1.rawRead t (leAt d 16 4) (leAt d 28 4)) (s1.cqeAux t d)
        let s2 := s1.onCqe t fun x => { x with holds := x.holds.filter (fun y => y.hid != h.hid) ++ [h] }
        ((s2.rawWrite t (leAt d 20 4) out).count (.cqe t) 0x080 (out.length / 16)).cqeRun t q d 0 out.length
      | e => bad e)

/-- Whether a DEC_HOLD on a hold is still queued behind the request taken (R331). -/
def State.holdBusy (s : State) (t q hid : Nat) : Bool :=
  (List.range 4).any fun i =>
    let r := s.queueRing (.cqe t) i
    s.queueOn (.cqe t) i && (List.range r.count).any fun j =>
      let d := s.readMem t (r.at (r.head + j) 32) 32
      (i != q || j != 0) && at1 d 0 == 3 && at1 d 2 == hid

/-- TAGCHECK: constant-time comparison; a match releases the hold, a mismatch zeroes it first (R331). -/
def execTagcheck (t : TileId) (parity : Bool) (s : State) : Out :=
  s.ends (s.cqeJob t 4 parity fun q d s =>
    match (s.tileAt t).cqe.holds.find? fun h => h.hid == at1 d 2 with
    | none => s.cqeRun t q d 2 0
    | some h =>
      if h.kslot ≠ leAt d 4 2 ∨ h.owner ≠ leAt d 8 4 then s.cqeRun t q d 2 0
      else if s.holdBusy t q h.hid then s.cqeRun t q d 6 0
      else
        let tag := if bitN (at1 d 1) 4 then
            fit 16 ((((s.tileAt t).dge.last.find? fun p => p.1 == s.rdField (.dge t) 0x008 12 8).map fun p => p.2).getD [])
          else s.rawRead t (leAt d 16 4) 16
        if tag = s.rawRead t (leAt d 24 4) 16 then
          ((s.onCqe t fun x => { x with holds := x.holds.filter fun y => y.hid != h.hid }).cqeStat t).cqeRun t q d 0 0
        else (((s.dropHold t h.hid).count (.cqe t) 0x084 1).flag (.cqe t) 0x028 1).cqeRun t q d 1 0)

/-- A slot's counter read and advanced at the key store: the counter, or none at 2^96 − 1 (R332). -/
def State.takeNonce (s : State) (t slot : Nat) : Option Nat × State :=
  let k := s.keySlot slot
  if k.nonce < 2 ^ 96 - 1 then (some k.nonce, (s.putSlot { k with nonce := k.nonce + 1 }).keyGrant t)
  else (none, s.keyGrant t)

/-- NONCE (R332). -/
def execNonce (t : TileId) (parity : Bool) (s : State) : Out :=
  s.ends (s.cqeJob t 5 parity fun q d s =>
    match s.keyCheck (leAt d 4 2) (leAt d 8 4) [2, 3] with
    | 0 =>
      match s.takeNonce t (leAt d 4 2) with
      | (some n, s1) => (s1.rawWrite t (leAt d 20 4) (leBytes 12 n ++ zeros 4)).cqeRun t q d 0 16
      | (none, s1) => s1.cqeRun t q d 5 0
    | e => s.cqeRun t q d e 0)

/-- A completion entry (Table 15.6). -/
def CqeJob.entry (j : CqeJob) : List Byte :=
  slice 12 4 j.desc ++ leBytes 1 j.status ++ zeros 1 ++ slice 2 1 j.desc ++ zeros 1 ++ leBytes 4 j.out ++ zeros 4

/-- CQE_REQUEST_COMPLETE: the running request ends and its completion is written (R329). -/
def execCqeRequestComplete (t : TileId) (s : State) : Out :=
  s.ends (match (s.tileAt t).cqe.running with
    | none => s
    | some j =>
      let s1 := (s.onCqe t fun x => { x with running := none }).postComp t (.cqe t) 0x018 0x020 0x024 j.entry
      let s2 := if bitN (at1 j.desc 1) 0 then s1.flag (.cqe t) 0x028 0 else s1
      s2.cqeStat t)

/-- Every untaken request of every enabled queue ended with a status, in ring order (R150, R341). -/
def State.cqeFlush (s : State) (t qn status : Nat) : State :=
  s.flushQueue t (.cqe t) qn 0x018 0x020 0x024 32 fun d => CqeJob.entry { queue := qn, desc := d, status := status }

/-- CQE_QCTRL_EN_CLEAR: a queue is disabled and its untaken requests end with FLUSHED (R344). -/
def execCqeQctrlEnClear (t : TileId) (qn : Fin 4) (s : State) : Out :=
  s.ends (if s.hasTile t && s.blockOn (.cqe t) then (s.cqeFlush t qn 0x0A).unflag (.cqe t) (0x044 + 16 * qn) 0
    else s.decErr (regAddr (.cqe t) (0x044 + 16 * qn)) 0)

end Sys2Proof.Machine
end

