-- ==== Sys2Proof/Machine/Digest.lean ====
section
/-! DEFINITION. Machine/Digest.lean: the digest engines (R334 to R340, R345). -/

namespace Sys2Proof.Machine

open Sys2Proof

/-- cSHAKE128 with a function name and a customisation string (SP 800-185). -/
def cshake128 (name custom m : List Byte) (n : Nat) : List Byte :=
  sponge 168 0x04 (bytepad (encodeString name ++ encodeString custom) 168 ++ m) n

/-- KMAC128 with a key, a customisation string and `n` output bytes. -/
def kmac128 (key custom m : List Byte) (n : Nat) : List Byte :=
  cshake128 (ascii "KMAC") custom (bytepad (encodeString key) 168 ++ m ++ rightEncode (8 * n)) n

/-- The rate of an algorithm in bytes (Table 15.7). -/
def dgRate : Nat → Nat
  | 1 | 4 | 6 => 136
  | 2 => 72
  | _ => 168

/-- The result of a message, with an output length for those that take one (R334, R337, Table 15.7). -/
def DgMsg.result (m : DgMsg) (olen : Nat) : List Byte :=
  match m.alg with
  | 1 => sha3_256 m.data
  | 2 => sha3_512 m.data
  | 3 => (shake128 m.data (m.squeezed + olen)).drop m.squeezed
  | 4 => (shake256 m.data (m.squeezed + olen)).drop m.squeezed
  | 5 => kmac128 m.key m.cust m.data olen
  | _ => kmac256 m.key m.cust m.data olen

/-- The state with the engine of a tile changed. -/
def State.onDge (s : State) (t : Nat) (f : Dge → Dge) : State := s.onTileAt t fun x => { x with dge := f x.dge }

/-- The control arbiter's grant to a requester (R339): 0 the steward, 1 + 2c + h thread h of core c. -/
def State.dgGrant (s : State) (t owner : Nat) : State := s.onDge t fun x => { x with ptr := (owner + 1) % 17 }

/-- DG_STAT.OPEN. -/
def State.dgOpen (s : State) (t : Nat) : Bool := bitN (s.rd (.dge t) 0x008) 0

/-- DG_BUSY.BUSY. -/
def State.dgBusy (s : State) (t : Nat) : Bool := bitN (s.rd (.dge t) 0x00C) 0

/-- A control write of a requester: none when the block is off, the engine disabled or retired; BUSYREJ when another requester
holds the open message (R339). -/
def State.dgWrite (s : State) (t owner off : Nat) (f : State → State) : State :=
  if !s.hasTile t || !s.blockOn (.dge t) then s.decErr (regAddr (.dge t) off) 0
  else if !bitN (s.rd (.dge t) 0) 0 || (s.tileAt t).dge.retired.isSome then s
  else
    let s1 := s.dgGrant t owner
    if s1.dgOpen t && s1.rdField (.dge t) 0x008 12 8 ≠ owner then s1.flag (.dge t) 0x008 6 else f s1

/-- The bytes absorbed, in DG_CNT. -/
def State.dgCount (s : State) (t n : Nat) : State := (s.wr (.dge t) 0x03C (n % 2 ^ 32)).wr (.dge t) 0x040 (n / 2 ^ 32 % 2 ^ 32)

/-- DG_OUT filled with a result, zero beyond it. -/
def State.dgOut (s : State) (t : Nat) (r : List Byte) : State :=
  (List.range 16).foldl (fun (s : State) i => s.wr (.dge t) (0x080 + 4 * i) (leAt r (4 * i) 4)) s

/-- The customisation string of the registers. -/
def State.dgCust (s : State) (t : Nat) : List Byte :=
  (((List.range 8).map fun i => leBytes 4 (s.rd (.dge t) (0x060 + 4 * i))).flatten).take (s.rd (.dge t) 0x05C)

/-- DG_DLEN. -/
def State.dgLen (s : State) (t : Nat) : Nat := s.rd (.dge t) 0x018 + s.rd (.dge t) 0x01C * 2 ^ 32

/-- DG_OLEN, kept to its range of 1 to 64. -/
def State.dgOlen (s : State) (t : Nat) : Nat := max 1 (min 64 (s.rd (.dge t) 0x020))

/-- DG_START: opens a message and makes the requester its owner (R334, R335). A KMAC absorbs its customisation and its key first, so
BUSY is set; its key must be LOADED with KMACK. -/
def execDgStart (t : TileId) (owner : Fin 17) (cmd : Word) (s : State) : Out :=
  s.ends (s.dgWrite t owner 0x004 fun s =>
    let c := cmd.toNat
    let alg := field c 6 3
    let kmac := alg == 5 || alg == 6
    let slot := s.rd (.dge t) 0x024
    let k := s.keySlot slot
    if alg = 0 ∨ 6 < alg then s
    else if kmac && (k.state ≠ 2 || !k.use 5) then s.flag (.dge t) 0x008 4
    else
      let m : DgMsg := { alg := alg, decl := bitN c 7, tokey := bitN c 8, cmp := bitN c 9,
                         key := if kmac then k.key else [], cust := if kmac then s.dgCust t else [], data := [] }
      let s1 := (s.onDge t fun x => { x with msg := some m, feeding := none }).wr (.dge t) 0x008
        (1 + s.rdField (.dge t) 0x008 7 6 * 64 + owner.val * 256)
      let s2 := (((s1.dgCount t 0).dgOut t []).wr (.dge t) 0x044 0).wr (.dge t) 0x048 0
      let s3 := s2.wr (.dge t) 0x00C (b2n kmac)
      if kmac then s3.keyGrant t else s3)

/-- Bytes absorbed by the open message (R335, R336). -/
def State.dgAbsorb (s : State) (t : Nat) (bs : List Byte) : State :=
  match (s.tileAt t).dge.msg with
  | none => s
  | some m =>
    let n := m.data.length + bs.length
    if m.decl && s.dgLen t < n then s.flag (.dge t) 0x008 3
    else
      let s1 := (s.onDge t fun x => { x with msg := some { m with data := m.data ++ bs } }).dgCount t n
      if n / dgRate m.alg = m.data.length / dgRate m.alg then s1 else s1.wr (.dge t) 0x00C 1

/-- A write of DG_DATA or DG_DATAB: discarded with OVR while BUSY is set, and without effect while no message is open (R335). -/
def State.dgPut (s : State) (t owner off : Nat) (bs : List Byte) : State :=
  s.dgWrite t owner off fun s =>
    if !s.dgOpen t then s
    else if s.dgBusy t then s.flag (.dge t) 0x008 2
    else s.dgAbsorb t bs

/-- DG_DATA: 4 bytes, byte 0 first (R335). -/
def execDgData (t : TileId) (owner : Fin 17) (v : Word) (s : State) : Out :=
  s.ends (s.dgPut t owner 0x010 (leBytes 4 v.toNat))

/-- DG_DATAB: 1 byte (R335). -/
def execDgDatab (t : TileId) (owner : Fin 17) (v : Byte) (s : State) : Out := s.ends (s.dgPut t owner 0x014 [v])

/-- DG_FEED: streams DG_SLEN bytes from DG_SRC; BUSY is set throughout (R335). A poisoned word ends the message as a datapath parity
error (R308). -/
def execDgFeed (t : TileId) (owner : Fin 17) (s : State) : Out :=
  s.ends (s.dgWrite t owner 0x004 fun s =>
    let src := s.rd (.dge t) 0x030
    let len := s.rd (.dge t) 0x034
    if !s.dgOpen t || (s.tileAt t).dge.feeding.isSome then s
    else if s.anyPoison t src len then
      ((s.onDge t fun x => { x with msg := none, held := true }).unflag (.dge t) 0x008 0).flag (.dge t) 0x04C 1
    else
      let s1 := s.holdRef t src len
      (s1.onDge t fun x => { x with feeding := some (s.readMem t src len) }).wr (.dge t) 0x00C 1)

/-- DG_FEED_DONE: the bytes have been absorbed and BUSY clears (R335). -/
def execDgFeedDone (t : TileId) (s : State) : Out :=
  s.ends (match (s.tileAt t).dge.feeding with
    | none => s
    | some bs => ((s.onDge t fun x => { x with feeding := none }).dgAbsorb t bs).wr (.dge t) 0x00C 0)

/-- DG_PERMUTATION_DONE: the permutation after a rate block ends and BUSY clears (R335). -/
def execDgPermutationDone (t : TileId) (s : State) : Out :=
  s.ends (if s.dgBusy t && (s.tileAt t).dge.feeding.isNone then s.wr (.dge t) 0x00C 0 else s)

/-- The two values of DG_EQ and DG_NEQ (R338). -/
def eqPair (equal : Bool) : Nat × Nat := if equal then (0x3CA55AC3, 0xC35AA53C) else (0xC35AA53C, 0x3CA55AC3)

/-- DG_EQ and DG_NEQ written for a result, when COMPARE is set (R338). -/
def State.dgCompare (s : State) (t : Nat) (m : DgMsg) (r : List Byte) : State :=
  if !m.cmp then s
  else
    let n := max 1 (min 64 (s.rd (.dge t) 0x02C))
    let exp := (List.range 16).flatMap fun i => leBytes 4 (s.rd (.dge t) (0x0C0 + 4 * i))
    let p := eqPair (slice 0 n r == slice 0 n exp)
    (s.wr (.dge t) 0x044 p.1).wr (.dge t) 0x048 p.2

/-- The result of a FINISH with TOKEY: straight into DG_KSLOT, which must be EMPTY; KEYERR otherwise, and while the store is locked
(R337, R342). -/
def State.dgToKey (s : State) (t : Nat) (r : List Byte) (olen : Nat) : State :=
  let slot := s.rd (.dge t) 0x024
  let attr := withField (s.rd (.dge t) 0x028) 1 0 2
  if s.keysLocked || (s.keySlot slot).state ≠ 0 || !(olen == 32 || olen == 64) || !attrOk slot attr then
    (s.flag (.dge t) 0x008 4).flag (.dge t) 0x04C 1
  else (s.putSlot ⟨slot, attr, fit olen r, 0⟩).keyGrant t

/-- DG_FINISH: pads from the count and produces the result; a message in error produces none (R336 to R338). -/
def execDgFinish (t : TileId) (owner : Fin 17) (_cmd : Word) (s : State) : Out :=
  s.ends (s.dgWrite t owner 0x004 fun s =>
    match (s.tileAt t).dge.msg with
    | none => s
    | some m =>
      if !s.dgOpen t || (s.tileAt t).dge.feeding.isSome then s
      else
        let s1 := if m.decl && m.data.length ≠ s.dgLen t then s.flag (.dge t) 0x008 3 else s
        let st := s1.rd (.dge t) 0x008
        let s2 := ((s1.unflag (.dge t) 0x008 0).flag (.dge t) 0x008 1).flag (.dge t) 0x04C 0
        let olen := s2.dgOlen t
        if bitN st 2 || bitN st 3 || bitN st 5 then
          ((((s2.onDge t fun x => { x with msg := none }).dgOut t []).wr (.dge t) 0x044 0).wr (.dge t) 0x048 0).flag (.dge t) 0x04C 1
        else
          let r := m.result olen
          let shake := m.alg == 3 || m.alg == 4
          let s3 := s2.onDge t fun x => { x with
            msg := if shake && !m.tokey then some { m with squeezed := olen } else none
            last := kvSet owner.val (fit 16 r) x.last }
          (if m.tokey then s3.dgToKey t r olen else s3.dgOut t r).dgCompare t m r)

/-- DG_SQUEEZE: continues the output of a SHAKE message that its owner has finished (R337). -/
def execDgSqueeze (t : TileId) (owner : Fin 17) (s : State) : Out :=
  s.ends (s.dgWrite t owner 0x004 fun s =>
    match (s.tileAt t).dge.msg with
    | none => s
    | some m =>
      if s.dgOpen t || s.rdField (.dge t) 0x008 12 8 ≠ owner.val || m.squeezed = 0 then s
      else
        let olen := s.dgOlen t
        (s.onDge t fun x => { x with msg := some { m with squeezed := m.squeezed + olen } }).dgOut t (m.result olen))

/-- DG_ABORT: ends the open message (R339). -/
def execDgAbort (t : TileId) (owner : Fin 17) (s : State) : Out :=
  s.ends (s.dgWrite t owner 0x004 fun s =>
    if s.dgOpen t then
      ((s.onDge t fun x => { x with msg := none, feeding := none }).unflag (.dge t) 0x008 0).wr (.dge t) 0x00C 0
    else s)

/-- DG_SAVE: the open message goes to a 224-byte area whose bytes belong to the engine, and the engine is free (R340). -/
def execDgSave (t : TileId) (owner : Fin 17) (s : State) : Out :=
  s.ends (s.dgWrite t owner 0x004 fun s =>
    match (s.tileAt t).dge.msg with
    | none => s
    | some m =>
      if !s.dgOpen t || s.dgBusy t then s
      else
        let d := s.drawBytes 224
        let flags := s.rdField (.dge t) 0x008 5 2
        let s1 := (d.2.writeMem t (s.rd (.dge t) 0x038 / 64 * 64) d.1).onDge t fun x => { x with
          msg := none, saves := x.saves.filter (fun y => y.1 != d.1) ++ [(d.1, m, flags)] }
        s1.wr (.dge t) 0x008 (s.rdField (.dge t) 0x008 7 6 * 64))

/-- DG_RESTORE: an area that this tile saved since start-up, unaltered, is loaded and the requester owns it; STATEBAD otherwise
(R340). -/
def execDgRestore (t : TileId) (owner : Fin 17) (s : State) : Out :=
  s.ends (s.dgWrite t owner 0x004 fun s =>
    if s.dgOpen t then s
    else
      let area := s.readMem t (s.rd (.dge t) 0x038 / 64 * 64) 224
      match (s.tileAt t).dge.saves.find? fun y => y.1 == area with
      | none => s.flag (.dge t) 0x008 7
      | some (_, m, flags) =>
        ((s.onDge t fun x => { x with msg := some m }).wr (.dge t) 0x008
          (1 + flags * 4 + s.rdField (.dge t) 0x008 7 6 * 64 + owner.val * 256)).dgCount t m.data.length)

end Sys2Proof.Machine
end

