-- ==== Sys2Proof/Machine/Security.lean ====
section
/-! DEFINITION. Machine/Security.lean: alarms (R341, R342). -/

namespace Sys2Proof.Machine

open Sys2Proof

/-- A digest engine after an alarm: keyed state and save secrets zeroed, every open message ended with KEYLOST (R341). -/
def State.alarmDge (s : State) (t : Nat) : State :=
  let keyed (m : DgMsg) : Bool := m.alg == 5 || m.alg == 6
  let open_ := s.dgOpen t
  let s1 := s.onDge t fun x => { x with
    saves := [], last := [], feeding := none
    msg := match x.msg with
      | some m => if keyed m then (if open_ then some { m with key := [], cust := [], data := [] } else none) else x.msg
      | none => none }
  if open_ then (s1.flag (.dge t) 0x008 5).wr (.dge t) 0x00C 0 else s1

/-- A cipher queue engine after an alarm: every running and queued request ends with KEY_LOST, every hold is zeroed and closed, the
key cache is zeroed (R341). -/
def State.alarmCqe (s : State) (t : Nat) : State :=
  let had := (s.tileAt t).cqe.running.isSome || (List.range 4).any fun q => s.queueReq (.cqe t) q
  let s1 := match (s.tileAt t).cqe.running with
    | some j => (s.onCqe t fun x => { x with running := none }).postComp t (.cqe t) 0x018 0x020 0x024
        ({ j with status := 4, out := 0 } : CqeJob).entry
    | none => s
  let s2 := (List.range 4).foldl (fun (s : State) q => if s.queueOn (.cqe t) q then s.cqeFlush t q 4 else s) s1
  let s3 := ((s2.tileAt t).cqe.holds.map fun h => h.hid).foldl (fun (s : State) h => s.dropHold t h) s2
  let s4 := (s3.onCqe t fun x => { x with cache := [] }).cqeStat t
  if had then s4.flag (.cqe t) 0x028 2 else s4

/-- Every secret zeroed and the key store locked, as an alarm does within 2 µs (R341, R342). -/
def State.zeroSecrets (s : State) : State :=
  let s1 := s.tileIds.foldl (fun (s : State) t => (s.alarmCqe t).alarmDge t) s
  let s2 : State := { s1 with
    keys := { s1.keys with slots := [], kw := List.replicate 8 0 }
    tiles := s1.tiles.map fun x => { x with xtsA := { x.xtsA with cache := [] }, xtsB := { x.xtsB with cache := [] } }
    ident := { s1.ident with signing := false }
    ns := s1.cfg.body.namespaces.map fun n => { (s1.nsRun n.nsid) with keyLost := true } }
  s2.flag .sec 0x044 5

/-- The ALARM_STAT bit of a sensor (Table 15.8). -/
def sensorBit : Sensor → Nat
  | .voltage => 0
  | .clock => 1
  | .temperature => 2
  | .shield => 3
  | .faultInjection => 4

/-- A sensor fires (R341): the secrets go, ALARM_STAT takes the sensor's bit, the fuse bank counts the alarm, and a CRITICAL event is
logged, which sets the reliability bit of the SMART Critical Warning (Table 20.5). -/
def State.alarm (s : State) (x : Sensor) : State :=
  let s1 := (s.zeroSecrets).flag .sec 0x044 (sensorBit x)
  let s2 : State := { s1 with fuses := { s1.fuses with alarms := min 0xFFFFFFFF (s1.fuses.alarms + 1) } }
  let s3 := s2.log 3 0xB0 3 8 0 (sensorBit x)
  { s3 with logs := { s3.logs with critical := s3.logs.critical ||| 4 } }

/-- ALARM (R341, R24). -/
def execAlarm (sensor : Sensor) (s : State) : Out := s.ends (s.alarm sensor)

end Sys2Proof.Machine
end

