-- ==== Sys2Proof/Machine/Cinch.lean ====
section
/-! DEFINITION. Machine/Cinch.lean: the cinch of staged register values by epoch (R45 to R49). -/

namespace Sys2Proof.Machine

open Sys2Proof

/-- Whether the register at an address is RWS (Table 0.5, R39). -/
def State.isRws (s : State) (a : Nat) : Bool :=
  match blockAt s.n a with
  | some (b, off) => (b.desc off).any fun d => d.acc == .rws
  | none => false

/-- The power domain of an island of Table 2.10: none for an island that is never off. -/
def islandDomain (i : Nat) : Option (Nat × Nat) :=
  if i < 48 then (if i % 6 < 4 then some (i / 6, i % 6) else none)
  else if i = 48 then some (0, 4)
  else if i = 49 then some (1, 4)
  else if i = 50 then some (1, 5)
  else none

/-- Whether an island is on the part and switched on (R45). -/
def State.islandOn (s : State) (i : Nat) : Bool :=
  (48 ≤ i || s.hasTile (i / 6)) && (match islandDomain i with
    | none => true
    | some d => s.power.on.contains d)

/-- A mask with one bit set. -/
def islandBit (i : Nat) : BitVec 52 := BitVec.twoPow 52 i

/-- The mask with the bit of every island that is absent or switched off. -/
def State.offMask (s : State) : BitVec 52 :=
  (List.range 52).foldl (fun (m : BitVec 52) i => if s.islandOn i then m else m ||| islandBit i) 0

/-- GO (R45, R48): refused with REJ while a cinch is pending or retained; otherwise the staged values go to the slot of the pending
epoch in every island. -/
def State.cinchGo (s : State) : State :=
  let c := s.cinch
  if c.pending || c.retained then { s with cinch := { c with rej := true } }
  else { s with
    regs := { s.regs with effPend := s.regs.cells.filter fun x => s.isRws x.1 }
    cinch := { c with pend := c.cur + 1, pending := true, mask := s.offMask } }

/-- The responses that wait for the cinch: a CFG_COMMIT with its SEQ and EPOCH (R53), FUNC_SET and QUOTA_SET (R221, R230). -/
def State.cinchRespond (s : State) : State :=
  let s1 := match s.cfg.commit with
    | some (q, seq) => ({ s with cfg := { s.cfg with commit := none } }).respond q 0
        (leBytes 8 seq ++ leBytes 2 s.cinch.cur.toNat ++ zeros 6)
    | none => s
  (s1.lmcs.started.filter fun (q : Req) => q.msg.opcode == 0x0210 || q.msg.opcode == 0x0212).foldl
    (fun (s : State) q => s.respond q 0 []) s1

/-- MASK is all ones: CUR takes PEND, PENDING clears, and RETAINED stays set while an operation carries the old tag (R48). -/
def State.cinchComplete (s : State) : State :=
  if s.cinch.pending && s.cinch.mask == BitVec.allOnes 52 then
    let old := s.cinch.cur
    let s1 : State := { s with
      regs := { s.regs with eff := s.regs.effPend, effPend := s.regs.eff }
      cinch := { s.cinch with cur := s.cinch.pend, pending := false, retained := s.host.tracks.any fun t => t.epoch == old } }
    s1.cinchRespond
  else s

/-- An island adopts the pending epoch, or counts as having adopted it because it is off (R47). -/
def State.adopt (s : State) (i : Nat) : State :=
  if s.cinch.pending && !s.cinch.mask.getLsbD i then
    ({ s with cinch := { s.cinch with mask := s.cinch.mask ||| islandBit i } } : State).cinchComplete
  else s

/-- The requesters of the cinch arbiter that are on the part: 0 the package steward, t the steward of Tt, 8 that of T0 (R48). -/
def State.cinchAsks (s : State) (who : List (Fin 9)) (i : Nat) : Bool :=
  who.any fun w => w.val == i && (i == 0 || i == 8 || s.hasTile i)

/-- CINCH_GO: the GO writes of one window; one wins and the others set REJ (R45, R48). -/
def execCinchGo (who : List (Fin 9)) (s : State) : Out :=
  s.ends (match rotate 9 s.cinch.ptr (s.cinchAsks who) with
    | none => s
    | some w =>
      let others := (List.range 9).any fun i => i != w && s.cinchAsks who i
      let s1 : State := { s with cinch := { s.cinch with ptr := (w + 1) % 9 } }
      let s2 := s1.cinchGo
      if others then { s2 with cinch := { s2.cinch with rej := true } } else s2)

/-- ISLAND_ADOPT: an island reaches its quiescent point (R47, R48). -/
def execIslandAdopt (i : Fin 52) (s : State) : Out := s.ends (s.adopt i)

/-- The islands whose mask bit is clear. -/
def State.missing (s : State) : List Nat := (List.range 52).filter fun i => !s.cinch.mask.getLsbD i

/-- CINCH_STALL: 1 ms after GO the mask is not all ones: STALL is set and the missing islands are logged (R48). -/
def execCinchStall (s : State) : Out :=
  s.ends (if s.cinch.pending then
      let s1 : State := { s with cinch := { s.cinch with stall := true } }
      s1.missing.foldl (fun (s : State) i => s.log 0 0 5 (if i < 48 then i / 6 else 8) i 0) s1
    else s)

/-- CINCH_STAT, word `n` (chapter 2). -/
def Cinch.word (c : Cinch) (n : Nat) : Nat :=
  let m := c.mask.toNat
  match n with
  | 0 => c.cur.toNat + (if c.pending then c.pend.toNat else c.cur.toNat) * 65536
  | 1 => m % 2 ^ 32
  | _ => m / 2 ^ 32 + b2n c.pending * 2 ^ 24 + b2n c.retained * 2 ^ 25 + b2n c.rej * 2 ^ 26 + b2n c.stall * 2 ^ 27

end Sys2Proof.Machine
end

