-- ==== Sys2Proof/Machine/MemEngine.lean ====
section
/-! DEFINITION. Machine/MemEngine.lean: the L2 and its maintenance, checking, fill, scrub, scratch ways and bank retirement
(chapter 14). Copies of local memory are always clean and coherent, so only lines of remote tiles and host memory, and locks, are
held as state. -/

namespace Sys2Proof.Machine

open Sys2Proof

/-! ### Error log (R311) -/

/-- The array number of an address for LOG_INFO: bulk SRAM or scratch. -/
def arrayOf (a : Nat) : Nat := if a < 0x01800000 then 0 else 8

/-- One memory error counted and logged: kind 0 CE, 1 UE, 2 TAGPAR, 3 RECOV; an error with the word address and KIND of an entry
merges into it (R307, R308, R311). -/
def State.memError (s : State) (t a kind array req bit : Nat) (store : Bool) : State :=
  let b : Block := .mem t
  let word := a / 8 * 8
  let s1 := s.count b (if kind = 0 ∨ kind = 3 then 0x06C else 0x070) 1
  let s2 := s1.flag b 0x074 (if kind = 0 ∨ kind = 3 then 0 else if kind = 1 then 1 else 2)
  let s3 := if store then s2.flag b 0x074 7 else s2
  match (List.range 16).find? fun i => s3.rd b (0x080 + 8 * i) == word && s3.rdField b (0x084 + 8 * i) 9 8 == kind &&
      s3.rdField b (0x084 + 8 * i) 25 18 != 0 with
  | some i => s3.wrField b (0x084 + 8 * i) 25 18 (min 255 (s3.rdField b (0x084 + 8 * i) 25 18 + 1))
  | none =>
    let h := s3.rdField b 0x004 11 8
    let info := bit % 128 + b2n store * 128 + kind * 256 + array * 1024 + req * 2 ^ 14 + 2 ^ 18
    ((s3.wr b (0x080 + 8 * h) word).wr b (0x084 + 8 * h) info).wrField b 0x004 11 8 ((h + 1) % 16)

/-! ### L2 lines of remote tiles and host memory (R294, R297, R301) -/

/-- The L2 line of an address. -/
def State.line (s : State) (t a : Nat) : Option L2Line := s.mem.lines.find? fun l => l.tile == t && l.addr == a / 64 * 64

/-- Cacheable in the tile's L2: bulk SRAM of any tile and host memory; scratch, privileged arrays and registers never are (R297). -/
def State.cacheable (s : State) (t a : Nat) : Bool :=
  match s.place t a with
  | .sram _ own => !own || a < 0x01800000
  | .host _ => true
  | _ => false

/-- A remote or host line, which is allocated and may be dirty. -/
def State.isFar (s : State) (t a : Nat) : Bool :=
  match s.place t a with
  | .sram _ own => !own
  | .host _ => true
  | _ => false

/-- The words of a line written with words that check. -/
def State.writeWords (s : State) (l : L2Line) : List Nat → State
  | [] => s
  | i :: is => (if l.bad.contains i then s else s.writeMem l.tile (l.addr + 8 * i) (slice (8 * i) 8 l.data)).writeWords l is

/-- A line written home (R294). A poisoned word goes to a remote tile with an uncorrectable check pattern, and to host memory as a
poisoned TLP, which leaves the host's word as it is: never as plain data (R308). -/
def State.writeHome (s : State) (l : L2Line) : State :=
  if l.bad = [] then s.writeMem l.tile l.addr l.data
  else
    let s1 := s.writeWords l (List.range 8)
    match s.place l.tile l.addr with
    | .sram k _ => { s1 with mem := { s1.mem with poison := (s1.mem.poison ++ l.bad.map fun i => k + 8 * i).eraseDups } }
    | _ => s1

/-- An evicted line: dirty data go home; a clean remote or host line is offered to the near pool (R301). -/
def State.evict (s : State) (l : L2Line) : State :=
  let s1 : State := { s with mem := { s.mem with lines := s.mem.lines.erase l } }
  if l.dirty then s1.writeHome l
  else if !s.isFar l.tile l.addr || l.bad != [] then s1
  else
    let b : Block := .mem l.tile
    let pol := s.eff b 0x00C
    let wm := if field pol 7 4 = 0 then 16 else field pol 7 4
    let mine := s.mem.pool.filter fun p => p.1 == l.tile
    if bitN pol 0 && s.rdField b 0x004 6 6 == 0 && mine.length * 16 < wm * 7168 then
      let set := mine.filter fun p => p.2.1 / 64 % 896 == l.addr / 64 % 896
      let keep := match set.head? with
        | some o => if 8 ≤ set.length then s1.mem.pool.erase o else s1.mem.pool
        | none => s1.mem.pool
      { s1 with mem := { s1.mem with pool := keep ++ [(l.tile, l.addr, l.data)] } }
    else s1.count b 0x07C 1

/-- A line brought into the L2: from the near pool, which gives its entry up, or from home; the least recently used unlocked line
of a full set is evicted, and with none to evict the line is served without allocation (R297, R301). -/
def State.fetchLine (s : State) (t a : Nat) : List Byte × State :=
  let la := a / 64 * 64
  match s.line t a with
  | some l => (l.data, { s with mem := { s.mem with lines := s.mem.lines.erase l ++ [l] } })
  | none =>
    let hit := s.mem.pool.find? fun p => p.1 == t && p.2.1 == la
    let data := match hit with
      | some p => p.2.2
      | none => s.readMem t la 64
    let bad := match s.place t la with
      | .sram k _ => (List.range 8).filter fun i => hit.isNone && s.mem.poison.contains (k + 8 * i)
      | _ => []
    let s1 : State := match hit with
      | some p => { s with mem := { s.mem with pool := s.mem.pool.erase p } }
      | none => s
    if !bitN (s.rd (.mem t) 0) 0 then (data, s1)
    else
      let set := s1.mem.lines.filter fun l => l.tile == t && l.addr / 64 % 4096 == la / 64 % 4096
      let ways := 16 - s.scr t
      let s2 := if set.length < ways then s1
        else match set.find? fun l => !l.locked with
          | some l => s1.evict l
          | none => s1
      if set.length < ways || set.any (fun l => !l.locked) then
        (data, { s2 with mem := { s2.mem with lines := s2.mem.lines ++ [⟨t, la, false, false, data, bad⟩] } })
      else (data, s2)

/-- Bytes that a core of tile `t` loads: remote and host memory through the L2. -/
def State.coreRead (s : State) (t a n : Nat) : List Byte × State :=
  if s.isFar t a && bitN (s.rd (.mem t) 0) 0 then
    let r := s.fetchLine t a
    (slice (a % 64) n r.1, r.2)
  else (s.readMem t a n, s)

/-- Bytes that a core of tile `t` stores: remote and host lines are allocated and become dirty; local memory is written through,
and the copy of a locked line follows (R294). -/
def State.coreWrite (s : State) (t a : Nat) (bs : List Byte) : State :=
  if s.isFar t a && bitN (s.rd (.mem t) 0) 0 then
    let r := s.fetchLine t a
    match r.2.line t a with
    | some l =>
      let l' := { l with dirty := true, data := patch l.data (a % 64) bs }
      { r.2 with mem := { r.2.mem with lines := r.2.mem.lines.map fun x => if x == l then l' else x } }
    | none => r.2.writeMem t a bs
  else s.writeMem t a bs

/-! ### What the checker finds in the L2 and at home (R307 to R310) -/

/-- An error of the word at a home address counted and logged by the tile that holds it: kind 0 CE, 1 UE. -/
def State.homeError (s : State) (key kind req bit : Nat) : State :=
  let a := (key - 0x08000000) % 0x02000000
  s.memError ((key - 0x08000000) / 0x02000000) a kind (arrayOf a) req bit false

/-- A tag parity error: the way is invalidated, never written anywhere even when it may have been dirty, and logged with its set and
its way, a free value (R310). -/
def State.tagParity (s : State) (t a req : Nat) : State :=
  if !s.cacheable t a || !bitN (s.rd (.mem t) 0) 0 then s
  else
    let d := s.draw
    let s1 : State := match s.line t a with
      | some l => { d.2 with mem := { d.2.mem with lines := d.2.mem.lines.erase l } }
      | none => d.2
    s1.memError t (a / 64 % 4096 * 64 + d.1 % 16 * 2 ^ 28) 2 2 req 127 false

/-- What a read meets in the L2 copy of a remote or host line, before it reads: whether the word can be had. A bad word of a clean copy
is fetched again from home and logged RECOV, a bad word of a dirty line is poisoned (R308). -/
def State.farCheck (s : State) (t a req : Nat) (ecc : Ecc) : Bool × State :=
  match s.line t a with
  | none => (true, s)
  | some l =>
    let w := a % 64 / 8
    let without : State := { s with mem := { s.mem with lines := s.mem.lines.erase l } }
    if l.bad.contains w then
      if l.dirty then (false, s.memError t a 1 1 req 127 false) else (true, without)
    else if ecc = .ue then
      if l.dirty then
        let l' : L2Line := { l with bad := l.bad ++ [w] }
        (false, ({ s with mem := { s.mem with lines := s.mem.lines.map fun y => if y == l then l' else y } } : State).memError t a 1 1
          req 127 false)
      else (true, without.memError t a 3 1 req 127 false)
    else (true, s)

/-! ### Maintenance (R302 to R305) -/

/-- The lines that a range overlaps. -/
def overlaps (a len : Nat) (l : Nat) : Bool := l < a + len && a < l + 64

/-- Why a MAINT_CMD write is ignored (R302). -/
def State.maintBad (s : State) (t op : Nat) : Bool :=
  let b : Block := .mem t
  s.rdField b 0x01C 0 0 == 1 || op == 0 || 5 < op || s.rd b 0x018 == 0 || s.rd b 0x018 % 64 != 0 || s.rd b 0x014 % 64 != 0

/-- The state with SKIP advanced, saturating. -/
def State.skip (s : State) (t k : Nat) : State :=
  s.wrField (.mem t) 0x01C 31 16 (min 65535 (s.rdField (.mem t) 0x01C 31 16 + k))

/-- One line locked: brought in if it is absent and marked, unless its set holds four locked lines or it cannot be cached (R300). -/
def State.lockLine (s : State) (t a : Nat) : State :=
  let locked := s.mem.lines.filter fun l => l.tile == t && l.locked && l.addr / 64 % 4096 == a / 64 % 4096
  if locked.any fun l => l.addr == a then s
  else if 4 ≤ locked.length || !s.cacheable t a then s.skip t 1
  else
    let r := s.fetchLine t a
    match r.2.line t a with
    | some l =>
      let mark (x : L2Line) : L2Line := if x == l then { l with locked := true } else x
      { r.2 with mem := { r.2.mem with lines := r.2.mem.lines.map mark } }
    | none => { r.2 with mem := { r.2.mem with lines := r.2.mem.lines ++ [⟨t, a, true, false, r.1, []⟩] } }

/-- A maintenance operation started by a write of OP to MAINT_CMD: its effect on every line of the range, and BUSY until the last
line is done (R302, R303, Table 14.2). -/
def State.maint (s : State) (t op : Nat) : State :=
  let b : Block := .mem t
  if !s.hasTile t then s.decErr (regAddr b 0x010) 0
  else if s.maintBad t op then s.flag b 0x01C 2
  else
    let a := s.rd b 0x014
    let len := s.rd b 0x018
    let s0 := ((s.wrField b 0x01C 31 16 0).unflag b 0x01C 1).flag b 0x01C 0
    let mine (l : L2Line) : Bool := l.tile == t && overlaps a len l.addr
    let ls := s0.mem.lines.filter mine
    let skipped := (ls.filter fun l => l.locked).length
    let cleaned (l : L2Line) : L2Line := if mine l then { l with dirty := false } else l
    let unlocked (l : L2Line) : L2Line := if mine l then { l with locked := false } else l
    match op with
    | 1 =>
      ({ s0 with mem := { s0.mem with
          lines := s0.mem.lines.filter fun l => !(mine l && !l.locked)
          pool := s0.mem.pool.filter fun p => !(p.1 == t && overlaps a len p.2.1) } } : State).skip t skipped
    | 2 =>
      let s1 := (ls.filter fun l => l.dirty).foldl State.writeHome s0
      { s1 with mem := { s1.mem with lines := s1.mem.lines.map cleaned } }
    | 3 =>
      let s1 := (ls.filter fun l => l.dirty).foldl State.writeHome s0
      ({ s1 with mem := { s1.mem with
          lines := (s1.mem.lines.filter fun l => !(mine l && !l.locked)).map cleaned
          pool := s1.mem.pool.filter fun p => !(p.1 == t && overlaps a len p.2.1) } } : State).skip t skipped
    | 4 => (List.range (len / 64)).foldl (fun s i => s.lockLine t (a + 64 * i)) s0
    | _ => { s0 with mem := { s0.mem with lines := s0.mem.lines.map unlocked } }

/-- MAINT_INV: OP 1 (R302, R303). -/
def execMaintInv (t : TileId) (s : State) : Out := s.ends (s.maint t 1)

/-- MAINT_CLEAN: OP 2. -/
def execMaintClean (t : TileId) (s : State) : Out := s.ends (s.maint t 2)

/-- MAINT_FLUSH: OP 3. -/
def execMaintFlush (t : TileId) (s : State) : Out := s.ends (s.maint t 3)

/-- MAINT_LOCK: OP 4 (R300). -/
def execMaintLock (t : TileId) (s : State) : Out := s.ends (s.maint t 4)

/-- MAINT_UNLOCK: OP 5. -/
def execMaintUnlock (t : TileId) (s : State) : Out := s.ends (s.maint t 5)

/-- MAINT_DONE: the last line is done; DONE is set and IRQ_STAT.MAINT raised (R305). -/
def execMaintDone (t : TileId) (s : State) : Out :=
  s.ends (if s.rdField (.mem t) 0x01C 0 0 = 1 then
    ((s.unflag (.mem t) 0x01C 0).flag (.mem t) 0x01C 1).flag (.mem t) 0x074 3 else s)

/-! ### Fill and scrub (R309, R317, R318) -/

/-- FILL: the fill engine writes zeros with valid check bits over the range, clearing poison; a fill that is running is not started
again, and retired banks are passed over (R314, R317). -/
def execFill (t : TileId) (s : State) : Out :=
  s.ends (let b : Block := .mem t
    if !s.hasTile t then s.decErr (regAddr b 0x020) 0
    else if s.rdField b 0x004 4 4 = 1 then s
    else
      let a := s.rd b 0x024 / 8 * 8
      let len := s.rd b 0x028 / 8 * 8
      let k0 := memKey t a
      let keep (k : Nat) : Bool := !(k0 ≤ k && k < k0 + len) || s.bankRetired k
      ({ s with mem := { s.mem with
          cells := s.mem.cells.filter fun c => keep c.1
          poison := s.mem.poison.filter keep } } : State).flag b 0x004 4)

/-- FILL_DONE: IRQ_STAT.FILL raised (R317). -/
def execFillDone (t : TileId) (s : State) : Out :=
  s.ends (if s.rdField (.mem t) 0x004 4 4 = 1 then (s.unflag (.mem t) 0x004 4).flag (.mem t) 0x074 4 else s)

/-- The scrubber's pass over a range: `found` names the words with an error. A corrected word is rewritten, an uncorrectable one is
poisoned, and the summary registers are set (R307, R318). -/
def State.scrubPass (s : State) (t a len : Nat) (found : List (Nat × Ecc)) : State :=
  let b : Block := .mem t
  let inRange := found.filter fun f => a ≤ f.1 && f.1 < a + len && !s.bankRetired (memKey t f.1)
  let words (f : Nat × Ecc) : Nat := f.1 / 8 * 8
  let bad := inRange.filter fun f => f.2 != Ecc.clean && f.2 != Ecc.tag
  let pois := (s.mem.poison.filter fun k => memKey t a ≤ k && k < memKey t a + len).map fun k => k - memKey t 0
  let corr := (bad.filter fun f => f.2 != Ecc.ue).length
  let s1 := bad.foldl (fun s f => match f.2 with
    | .ce bit => s.memError t (words f) 0 (arrayOf f.1) 15 bit false
    | .ue => ({ s with mem := { s.mem with poison := (s.mem.poison ++ [memKey t (words f)]).eraseDups } } : State).memError t
        (words f) 1 (arrayOf f.1) 15 127 false
    | .clean | .tag => s) s
  let hits := bad.map words ++ pois
  let s2 := ((s1.wr b 0x038 (len / 8)).wr b 0x03C corr).wr b 0x040 (hits.eraseDups.length - corr)
  if hits = [] then s2
  else (s2.wr b 0x044 (hits.foldl min (hits.headD 0))).wr b 0x048 (hits.foldl max 0)

/-- SCRUB: SCRUB_CMD.GO reads every word of the range (R318). -/
def execScrub (t : TileId) (found : List (Nat × Ecc)) (s : State) : Out :=
  s.ends (let b : Block := .mem t
    if !s.hasTile t then s.decErr (regAddr b 0x02C) 0
    else if s.rdField b 0x004 5 5 = 1 then s
    else (s.scrubPass t (s.rd b 0x030 / 8 * 8) (s.rd b 0x034 / 8 * 8) found).flag b 0x004 5)

/-- SCRUB_DONE: IRQ_STAT.SCRUB raised; the summary is complete (R318). -/
def execScrubDone (t : TileId) (s : State) : Out :=
  s.ends (if s.rdField (.mem t) 0x004 5 5 = 1 then (s.unflag (.mem t) 0x004 5).flag (.mem t) 0x074 5 else s)

/-- HOURLY_SCRUB: Blustite's hourly pass over the bulk SRAM of every tile (R318). -/
def execHourlyScrub (found : List (TileId × Nat × Ecc)) (s : State) : Out :=
  s.ends (s.tileIds.foldl (fun s t =>
    let mine := (found.filter fun f => f.1.val == t).map fun f => f.2
    ((((s.wr (.mem t) 0x030 0).wr (.mem t) 0x034 0x01800000).scrubPass t 0 0x01800000 mine)).flag (.mem t) 0x074 5) s)

/-! ### Scratch ways and bank retirement (R298, R314) -/

/-- Whether L2_WAYS may take a write now: the model runs whole instructions, so no access is outstanding; the threads that `busy`
names must all be stopped or in WAIT (R298). -/
def State.setWays (s : State) (t v : Nat) (busy : Bool) : State :=
  let b : Block := .mem t
  if !s.hasTile t then s.decErr (regAddr b 0x008) 0
  else if busy then s.decErr (regAddr b 0x008) 2
  else
    let old := s.scr t
    let new := min 12 (v % 16)
    let s1 := s.wr b 0x008 (v % 16)
    -- Slices that are new hold zeros; slices given back lose their content (R298).
    let lo := memKey t (0x01800000 + min old new * 0x40000)
    let hi := memKey t (0x01800000 + 12 * 0x40000)
    let keep (k : Nat) : Bool := !(lo ≤ k && k < hi)
    let excess := (s1.mem.lines.filter fun l => l.tile == t && !l.locked).drop ((16 - new) * 4096)
    let s2 := excess.foldl State.evict s1
    { s2 with mem := { s2.mem with cells := s2.mem.cells.filter fun c => keep c.1
                                   poison := s2.mem.poison.filter keep } }

end Sys2Proof.Machine
end

