-- ==== Sys2Proof/Machine/SessionRows.lean ====
section
/-! DEFINITION. Machine/SessionRows.lean: the 02xxh messages, the release of a session, the quota period, and descriptors that the
checker corrects or loses, with the fetch of commands that reads them (R217 to R232, R315, R59). -/

namespace Sys2Proof.Machine

open Sys2Proof

/-! ### Slots, limits and rights (R217 to R224) -/

/-- The function that a FUNC byte names (Table 10.1). -/
def funcOf (b : Nat) : FnId := ⟨⟨b / 128 % 2, Nat.mod_lt _ (by decide)⟩, ⟨b % 128, Nat.mod_lt _ (by decide)⟩⟩

/-- The FUNC byte of a function. -/
def funcByte (f : FnId) : Nat := f.port.val * 128 + f.num.val

/-- GEN of a slot: as freed last, and drawn from the random source for a slot not freed since start-up; never 0x3FFF (R220). -/
def State.slotGen (s : State) (snum : Nat) : Nat × State :=
  match kvGet snum s.ses.gens with
  | some g => (g, s)
  | none => let d := s.draw; (d.1 % 16383, d.2)

/-- The free slot that was freed longest ago, on one tile or on any (R220, R224): a slot never freed since start-up comes first, the
lowest SNUM first. -/
def State.freeSlot (s : State) (home : Option Nat) : Option Nat :=
  let used := s.ses.sessions.map fun x => x.snum
  let here (k : Nat) : Bool := (home.map fun t => k / 32768 == t).getD true
  let fresh := (s.tileIds.filter fun t => (home.map fun h => h == t).getD true).filterMap fun t =>
    let k := leastUnused (((used ++ s.ses.freed).filter fun k => k / 32768 == t).map fun k => k % 32768)
    if k < 32768 then some (t * 32768 + k) else none
  match fresh.head? with
  | some k => some k
  | none => s.ses.freed.find? fun k => here k && !used.contains k

/-- Sessions and key slots that a function holds; a DRAINING session counts (R226). -/
def State.sessionsOf (s : State) (f : FnId) : List Session := s.ses.sessions.filter fun x => x.fn == f

/-- Key slots held. -/
def State.keysHeld (s : State) (f : FnId) : Nat := sumOf ((s.sessionsOf f).map fun x => x.kcnt)

/-- Rights entries of a payload: each 2 bytes, bit 15 reserved (Table 10.4). -/
def entriesOf (b : List Byte) (o n : Nat) : List Nat := (List.range n).map fun i => leAt b (o + 2 * i) 2

/-- Whether every right asked for is within the function's grant (R224). -/
def State.rightsGranted (s : State) (f : FnId) (es : List Nat) : Bool :=
  es.all fun e => (rightBits (s.grants f) (e % 4096) &&& (e / 4096 % 8)) == e / 4096 % 8

/-- The rights table of a home tile that holds these rights for this function, or a free one of its 4,096 (R222). -/
def State.rightsTable (s : State) (home : Nat) (f : FnId) (es : List Nat) (but : Option Nat) : Option Nat :=
  let mine := s.ses.sessions.filter fun x => x.snum / 32768 == home && some x.snum != but
  match mine.find? fun x => x.fn == f && x.rights == es with
  | some x => some x.rti
  | none => leastFree 4096 (mine.map fun x => x.rti)

/-- CREATE (R224). -/
def execCreate (q : Req) (s : State) : Out :=
  s.ends (s.lmcsRun q 0x0201 fun _ s =>
    let b := q.body
    match q.car.fn with
    | none => refuse s 4
    | some f =>
      let cls := leAt b 0 1
      let thr := leAt b 1 1
      let kcnt := leAt b 2 1
      let home := leAt b 3 1
      let n := leAt b 12 1
      let es := entriesOf b 16 n
      let ht := if home = 255 then none else some home
      if b.length ≠ 16 + 2 * n then refuse s 3
      else if 3 < cls || thr = 0 || 16 < thr || 64 < kcnt || (home ≠ 255 && s.n ≤ home) || 30 < n || !zeroAt b 13 3 ||
          es.any (fun e => 32768 ≤ e) then refuse s 2
      else
        let slot := s.freeSlot ht
        if s.funcLimit f 4 4 0 ≤ (s.sessionsOf f).length || slot.isNone then refuse s 0x8001
        else if !s.rightsGranted f es then refuse s 0x8002
        else
          let run := s.keyRun kcnt
          if s.funcLimit f 8 2 0 < s.keysHeld f + kcnt || run.isNone then refuse s 0x8003
          else if cls < s.funcLimit f 1 1 3 then refuse s 0x8004
          else
            let snum := slot.getD 0
            match s.rightsTable (snum / 32768) f es none with
            | none => refuse s 0x8005
            | some rti =>
              let qbi := s.funcLimit f 18 2 0
              if (s.quota qbi).isNone then refuse s 0x8006
              else
                let g := s.slotGen snum
                let kb := if kcnt = 0 then 0 else run.getD 0
                let x : Session := ⟨snum, g.1, f, 1, cls, rti, es, kb, kcnt, none, qbi, 0, slice 4 8 b, thr, none, 0x80⟩
                let s1 := g.2.sesGrant snum 2
                let s2 : State := { s1 with ses := { s1.ses with
                  sessions := insertBy (fun a b => a.snum < b.snum) x s1.ses.sessions
                  freed := s1.ses.freed.filter fun k => k != snum } }
                done s2 (leBytes 4 x.handle ++ leBytes 2 kb ++ zeros 2))

/-- Whether the sachet of a RUN has been entered. -/
def State.entered (s : State) (k : CmdKey) : Bool :=
  s.cores.threads.any (fun h => (h.job.map fun j => j.key == k).getD false) ||
    s.cores.parked.any fun p => (p.2.job.map fun j => j.key == k).getD false

/-- The end of one outstanding command of a session that is destroyed (R225): before its commit point as if an Abort had taken
effect. A RUN whose sachet has been entered is stopped at its next quantum boundary, and any other command runs on. -/
def State.endForDestroy (s : State) (t : Track) : State :=
  match s.runOf t.key with
  | some r => if r.ending.isSome then s else s.stopRun t.key .abortRequested none
  | none =>
    if t.committed || s.entered t.key then s
    else
      let s1 : State := { s with cores := { s.cores with queue := s.cores.queue.filter fun w => w.what != .run t.key } }
      s1.fail t.key .abortRequested

/-- A session becomes DRAINING: the commit point of DESTROY and REVOKE (R225). -/
def State.drain (s : State) (x : Session) (req : Option Req) : State :=
  let s1 := (s.sesGrant x.snum 2).onSession x.snum fun y => { y with state := 3, req := req }
  (s1.host.tracks.filter fun t => (t.ses.map fun y => y.handle == x.handle).getD false).foldl
    (fun (s : State) t => s.endForDestroy t) s1

/-- DESTROY: the response follows the release (R225). -/
def execDestroy (q : Req) (s : State) : Out := s.ends (s.sessRun q 0x0202 fun x s => (none, (s.drain x (some q)).schedule))

/-- REVOKE: as DESTROY, by the platform owner (R225). -/
def execRevoke (q : Req) (s : State) : Out := s.ends (s.sessRun q 0x0216 fun x s => (none, (s.drain x (some q)).schedule))

/-- The descriptor of a session (Table 10.1). -/
def Session.bytes (x : Session) : List Byte :=
  leBytes 4 x.handle ++ leBytes 1 (funcByte x.fn) ++ leBytes 1 (x.state + x.cls * 8) ++ leBytes 2 x.rti ++ leBytes 2 x.kbase ++
    leBytes 1 x.kcnt ++ leBytes 1 (x.sslot.getD 255) ++ leBytes 2 x.qbi ++ leBytes 2 x.outst ++ fit 8 x.label ++
    leBytes 1 x.threads ++ zeros 7

/-- QUERY (Table 10.6). -/
def execQuery (q : Req) (s : State) : Out := s.ends (s.sessRun q 0x0203 fun x s => done s x.bytes)

/-- SET_RIGHTS: checked as CREATE checks, and replaced whole (R224, R228). -/
def execSetRights (q : Req) (s : State) : Out :=
  s.ends (s.sessRun q 0x0204 fun x s =>
    let b := q.body
    let n := leAt b 0 1
    let es := entriesOf b 4 n
    if b.length ≠ 4 + 2 * n then refuse s 3
    else if 30 < n || !zeroAt b 1 3 || es.any (fun e => 32768 ≤ e) then refuse s 2
    else if !s.rightsGranted x.fn es then refuse s 0x8002
    else match s.rightsTable (x.snum / 32768) x.fn es (some x.snum) with
      | none => refuse s 0x8005
      | some rti => done ((s.sesGrant x.snum 2).onSession x.snum fun y => { y with rights := es, rti := rti }))

/-- SET_CLASS: class and threads replaced whole (R224). -/
def execSetClass (q : Req) (s : State) : Out :=
  s.ends (s.sessRun q 0x0205 fun x s =>
    let b := q.body
    let cls := leAt b 0 1
    let thr := leAt b 1 1
    if 3 < cls || thr = 0 || 16 < thr || !zeroAt b 2 2 then refuse s 2
    else if cls < s.funcLimit x.fn 1 1 3 then refuse s 0x8004
    else done ((s.sesGrant x.snum 2).onSession x.snum fun y => { y with cls := cls, threads := thr }).schedule)

/-- LIST: a function's handles in ascending SNUM, at most 500 (Table 10.6). -/
def execList (q : Req) (s : State) : Out :=
  s.ends (s.lmcsRun q 0x0206 fun _ s =>
    let b := q.body
    let f := funcOf (leAt b 0 1)
    if !zeroAt b 1 3 then refuse s 2
    else if q.car.fn ≠ some f ∧ !s.isOwner q.car then refuse s 4
    else
      let hs := ((s.sessionsOf f).filter fun x => leAt b 4 4 ≤ x.snum).take 500
      done s (leBytes 4 hs.length ++ hs.flatMap fun x => leBytes 4 x.handle))

/-! ### Provisioning (R221, R230) -/

/-- Whether the grant entries are used first and unused ones zero, with bit 15 zero (Table 10.3). -/
def grantsOk (b : List Byte) : Bool :=
  let es := entriesOf b 24 20
  es.all (fun e => e < 32768) && (es.dropWhile fun e => e != 0).all fun e => e == 0

/-- FUNC_SET (R221): its ranges, the cinch, the store, GO; the response follows all-ones MASK. -/
def execFuncSet (q : Req) (storeOk : Bool) (s : State) : Out :=
  s.ends (s.lmcsRun q 0x0210 fun _ s =>
    let b := q.body
    let mt := leAt b 10 2
    if 3 < leAt b 1 1 || 4095 < leAt b 2 2 || 262144 < leAt b 4 4 || 8192 < leAt b 8 2 || mt = 0 || 8191 < leAt b 18 2 ||
        !zeroAt b 20 4 || !grantsOk b then refuse s 2
    else if s.cinch.pending || s.cinch.retained then refuse s 7
    else
      let f := funcOf (leAt b 0 1)
      match s.storeWrite storeOk { s.cfg.body with funcs := s.cfg.body.funcs.filter (fun d => d.fn != f) ++ [⟨f, b⟩] } with
      | none => refuse (s.log 0 0 5 8 0 0) 0x8007
      | some s1 => (none, s1.cinchGo))

/-- FUNC_QUERY: Table 10.3, then the holdings (Table 10.6). -/
def execFuncQuery (q : Req) (s : State) : Out :=
  s.ends (s.lmcsRun q 0x0211 fun _ s =>
    let b := q.body
    let f := funcOf (leAt b 0 1)
    if !zeroAt b 1 3 then refuse s 2
    else if q.car.fn ≠ some f ∧ !s.isOwner q.car then refuse s 4
    else
      let dflt := leBytes 1 (funcByte f) ++ leBytes 1 3 ++ leBytes 2 64 ++ zeros 6 ++ leBytes 2 0xFFFF ++ leBytes 2 64 ++
        leBytes 2 256 ++ leBytes 2 64 ++ zeros 46
      done s ((s.funcDef f).getD dflt ++ leBytes 4 (s.sessionsOf f).length ++ leBytes 2 (s.keysHeld f) ++ zeros 2))

/-- QUOTA_SET (R230): the limits are replaced and the usage counters kept. -/
def execQuotaSet (q : Req) (storeOk : Bool) (s : State) : Out :=
  s.ends (s.lmcsRun q 0x0212 fun _ s =>
    let b := q.body
    let qbi := leAt b 0 2
    if 8191 < qbi || !zeroAt b 2 2 || !zeroAt b 30 2 then refuse s 2
    else if s.cinch.pending || s.cinch.retained then refuse s 7
    else match s.storeWrite storeOk { s.cfg.body with quotas := kvSet qbi (slice 4 32 b) s.cfg.body.quotas } with
      | none => refuse (s.log 0 0 5 8 0 0) 0x8007
      | some s1 =>
        let old := (s1.quota qbi).getD ⟨qbi, 0, 0, 0, 0, 0, 0, 0, 0, 0⟩
        let new : Quota := ⟨qbi, leAt b 4 8, leAt b 12 8, leAt b 20 8, leAt b 28 2, leAt b 32 4, old.wuse, old.suse, old.cuse, old.ouse⟩
        let s2 : State := { s1 with ses := { s1.ses with quotas := s1.ses.quotas.filter (fun x => x.qbi != qbi) ++ [new] } }
        (none, s2.cinchGo))

/-- A quota block (Table 10.8). -/
def Quota.bytes (x : Quota) : List Byte :=
  leBytes 8 x.wlim ++ leBytes 8 x.slim ++ leBytes 8 x.clim ++ leBytes 2 x.olim ++ zeros 2 ++ leBytes 4 x.period ++
    leBytes 8 x.wuse ++ leBytes 8 x.suse ++ leBytes 8 x.cuse ++ leBytes 2 x.ouse ++ zeros 6

/-- QUOTA_QUERY: for the platform owner, or a function whose sessions use the block (Table 10.6). -/
def execQuotaQuery (q : Req) (s : State) : Out :=
  s.ends (s.lmcsRun q 0x0213 fun _ s =>
    let b := q.body
    let qbi := leAt b 0 2
    let uses := s.ses.sessions.any fun x => some x.fn == q.car.fn && x.qbi == qbi
    if 8191 < qbi || !zeroAt b 2 2 then refuse s 2
    else if !uses && !s.isOwner q.car then refuse s 4
    else match s.quota qbi with
      | none => refuse s 0x8006
      | some x => done s x.bytes)

/-- QUOTA_PERIOD: at a boundary WUSE, SUSE and CUSE return to zero (R230). -/
def execQuotaPeriod (qbi : Nat) (s : State) : Out :=
  s.ends (s.onQuota qbi fun q => if q.period = 0 then q else { q with wuse := 0, suse := 0, cuse := 0 })

/-! ### Suspension and release (R225, R226, R229) -/

/-- SUSPEND (R229). -/
def execSuspend (q : Req) (s : State) : Out :=
  s.ends (s.sessRun q 0x0214 fun x s =>
    if x.state = 1 then done ((s.sesGrant x.snum 2).onSession x.snum fun y => { y with state := 2 }) else refuse s 2)

/-- RESUME (R229). -/
def execResume (q : Req) (s : State) : Out :=
  s.ends (s.sessRun q 0x0215 fun x s =>
    if x.state = 2 then done ((s.sesGrant x.snum 2).onSession x.snum fun y => { y with state := 1 }).schedule else refuse s 2)

/-- What a session held, released (R225): key slots and holds zeroed, slots, cursors, sachet and program areas freed, STATE FREE, GEN
advanced. -/
def State.releaseSession (s : State) (x : Session) : State :=
  let s1 := (List.range x.kcnt).foldl (fun (s : State) i => s.eraseSlot (x.kbase + i)) (s.dropHoldsOf x.snum)
  let gen := if x.gen + 1 = 0x3FFF then 0 else x.gen + 1
  let s2 : State := { s1 with
    sift := { s1.sift with slots := s1.sift.slots.filter fun y => y.snum != x.snum }
    cores := { s1.cores with
      sachets := s1.cores.sachets.filter fun y => y.snum != x.snum
      staged := s1.cores.staged.filter fun y => y.1 != x.snum
      areas := s1.cores.areas.filter fun y => y.snum != x.snum
      pool := s1.cores.pool.filter fun y => y.snum != x.snum
      logRate := s1.cores.logRate.filter fun y => y.1 != x.snum
      queue := s1.cores.queue.filter fun y => y.snum != x.snum }
    ses := { s1.ses with
      sessions := s1.ses.sessions.filter fun y => y.snum != x.snum
      gens := kvSet x.snum gen s1.ses.gens
      freed := s1.ses.freed ++ [x.snum] } }
  match x.req with
  | some q => s2.respond q 0 []
  | none => s2

/-- SESSION_RELEASE: a DRAINING session's OUTST has reached 0 (R225). -/
def execSessionRelease (snum : Nat) (s : State) : Out :=
  s.ends (match s.sessionAt snum with
    | some x => if x.state = 3 ∧ x.outst = 0 then s.releaseSession x else s
    | none => s)

/-- The sessions of a function drained without a response (R226). -/
def State.drainFn (s : State) (f : FnId) : State :=
  (s.sessionsOf f).foldl (fun (s : State) x => if x.state = 3 then s else (s.drain x none).schedule) s

/-! ### Poisoned and corrected words of the privileged arrays (R315) -/

/-- The end of one outstanding command of a session whose descriptor is lost: C8h with 83h. A RUN whose sachet has been entered is
stopped at its next quantum boundary. -/
def State.endForLoss (s : State) (t : Track) : State :=
  match s.runOf t.key with
  | some r => if r.ending.isSome then s else s.stopRun t.key .sachetFault (some 0x83)
  | none =>
    if t.committed || s.entered t.key then s
    else
      let s1 : State := { s with cores := { s.cores with queue := s.cores.queue.filter fun w => w.what != .run t.key } }
      s1.finish (Cqe.of t.key .sachetFault 0 0x83 [])

/-- A session revoked since its descriptor holds a poisoned word: as DESTROY without a response, its commands ending with C8h. -/
def State.loseSession (s : State) (snum : Nat) : State :=
  match s.sessionAt snum with
  | none => s
  | some x =>
    if x.state = 3 then s
    else
      let s1 := (s.sesGrant snum 2).onSession snum fun y => { y with state := 3, req := none, cause := 0x83 }
      ((s1.host.tracks.filter fun t => (t.ses.map fun y => y.handle == x.handle).getD false).foldl
        (fun (s : State) t => s.endForLoss t) s1).schedule

/-- The session store or the map root table of a tile that an address lies in: the tile, and 0 or 1. -/
def State.privArray (s : State) (a : Nat) : Option (Nat × Nat) :=
  if 0x40000000 ≤ a ∧ a < 0x40000000 + s.n * 0x01000000 then
    let o := a % 0x01000000
    let t := (a - 0x40000000) / 0x01000000
    if 0x800000 ≤ o ∧ o < 0x900000 then some (t, 0) else if 0x900000 ≤ o ∧ o < 0x980000 then some (t, 1) else none
  else none

/-- A read of a word of those arrays: whether it is poisoned. A corrected word goes into one of the eight entries of the remap table,
which then serves the address; with all in use RMAPFULL is raised. A poisoned word of the session store revokes its session, and one
of the root table is rebuilt from the newest root copy and the journal, which leaves the map as it is (R307, R315). -/
def State.arrayCheck (s : State) (a req : Nat) (ecc : Ecc) : Bool × State :=
  match s.privArray a with
  | none => (false, s)
  | some (u, arr) =>
    let w := a / 8 * 8
    let es := s.mem.remap.filter fun r => r.1 == u && r.2.1 == arr
    if es.any fun r => r.2.2 == w then (false, s)
    else match ecc with
      | .ce b =>
        let s1 := s.memError u a 0 (6 + arr) req b.val false
        (false, if es.length < 8 then { s1 with mem := { s1.mem with remap := s1.mem.remap ++ [(u, arr, w)] } }
          else s1.flag (.mem u) 0x074 6)
      | .ue =>
        let s1 := s.memError u a 1 (6 + arr) req 127 false
        (true, if arr = 0 then s1.loseSession (u * 32768 + (a % 0x01000000 - 0x800000) / 32) else s1)
      | .clean | .tag => (false, s)

/-! ### Fetch of commands (R59, R227) -/

/-- The session descriptor that the check of a vendor command reads, as the checker finds it (R227, R307, R315): where it is lost, the
command ends with C8h and 83h beside the session's others. -/
def State.descCheck (s : State) (x : FetchCand) : State :=
  let handle := x.sqe.cdw2.toNat
  let snum := handle % 2 ^ 18
  if x.desc = .clean || x.sqe.opc.toNat < 0x80 || s.n * 32768 ≤ snum then s
  else
    let r := s.arrayCheck (0x40000000 + snum / 32768 * 0x01000000 + 0x800000 + snum % 32768 * 32) 12 x.desc
    if r.1 && (s.sessionOf handle x.key.fn).isSome then r.2.finish (Cqe.of x.key .sachetFault 0 0x83 []) else r.2

/-- COMMAND_FETCH: the port's fetch arbiter grants one controller by the rotating pointer over function numbers, and the entry at
the head of one of its queues is fetched, tagged with the host island's epoch and tracked (R17, R46, R59, R60). Within the
controller, queues take turns (round robin). A command that the device does not support ends at once (R55), and the descriptor that a vendor
command names is read (R227). -/
def execCommandFetch (port : Fin 2) (ready : List FetchCand) (s : State) : Out :=
  s.ends (
    if s.host.stopped || 65536 ≤ s.host.tracks.length then s
    else
      let cands := ready.filter (s.fetchable port)
      let ptr := if port.val = 0 then s.host.fetchPtr.1 else s.host.fetchPtr.2
      match rotate 128 ptr fun i => cands.any fun x => x.key.fn.num.val == i with
      | none => s
      | some i =>
        let own := cands.filter fun x => x.key.fn.num.val == i
        let sp := match own.head? with
          | some x => ((s.host.ctrl x.key.fn).map fun c => c.sqPtr).getD 0
          | none => 0
        match firstBy (fun (a b : FetchCand) => (a.key.sq + 4096 - sp) % 4096 < (b.key.sq + 4096 - sp) % 4096) own with
        | none => s
        | some x =>
          let adv (q : SubQueue) : SubQueue :=
            if q.qid = x.key.sq then { q with head := (q.head + 1) % max 1 q.size } else q
          let s1 := s.onCtrl x.key.fn fun c => { c with sqs := c.sqs.map adv, sqPtr := (x.key.sq + 1) % 4096 }
          let t : Track := { key := x.key, sqe := x.sqe, epoch := s.islandEpoch (48 + port.val) }
          let s2 : State := { s1 with
            pins := { s1.pins with act := true }
            host := { s1.host with
              tracks := s1.host.tracks ++ [t]
              fetchPtr := if port.val = 0 then ((i + 1) % 128, s1.host.fetchPtr.2)
                          else (s1.host.fetchPtr.1, (i + 1) % 128) } }
          if ioOpcodes.contains x.sqe.opc.toNat then s2.descCheck x else s2.fail x.key .invalidOpcode)

end Sys2Proof.Machine
end

