-- ==== Sys2Proof/Machine/Losses.lean ====
section
/-! DEFINITION. Machine/Losses.lean: the failure of a tile and of the device, the retirement of banks, and the answer to words lost to
poison (R25, R312 to R314). -/

namespace Sys2Proof.Machine

open Sys2Proof

/-! ### Failure of the device (R25, R378) -/

/-- CSTS.CFS on every controller. -/
def State.setCfs (s : State) (rdy : Bool) : State :=
  { s with host := { s.host with ctrls := s.host.ctrls.map fun c => { c with cfs := true, rdy := c.rdy && rdy } } }

/-- The start fails: CSTS.CFS is set, CSTS.RDY never is, and PHASE reads FAILED (R378). -/
def State.failStart (s : State) : State :=
  let s1 : State := { s with boot := { s.boot with startFailed := true } }
  (s1.setCfs false).wrField .glb 0x300 3 0 9

/-- A tile fails its start (R25, R378). -/
def State.failTile (s : State) (t : Nat) : State :=
  let s1 : State := { s with boot := { s.boot with failed := s.boot.failed ++ [t] } }
  (s1.failStart).log 3 0xA6 2 t 0 0

/-- Every outstanding command ended with a status. -/
def State.endAll (s : State) (st : NvmeStatus) : State :=
  s.host.tracks.foldl (fun (s : State) t => (if t.committed then s else s.discard t.key).fail t.key st) s

/-- The device fails in operation: no more commands are taken, every outstanding one ends with an internal error, CSTS.CFS is set and the
fault is logged for the sideband (R25). -/
def State.failDevice (s : State) (cause src unit : Nat) : State :=
  let s1 : State := { s with host := { s.host with stopped := true } }
  ((s1.endAll .internalError).setCfs true).log 3 cause 2 src unit 0

/-- A tile treated as failed: before step 11 of the start the start fails, afterwards the device (R25). -/
def State.tileFails (s : State) (t : Nat) : State :=
  if !s.boot.reached11 then s.failTile t
  else ({ s with boot := { s.boot with failed := s.boot.failed ++ [t] } } : State).failDevice 0xA6 t 0

/-! ### Banks (R312 to R314) -/

/-- The map's use of a bank that is lost to poison or retired: which banks hold what is Blustite's choice; the model allots them in
the order of the table of R16: staging 0 to 15 after the two banks of the program pool, and so on. Only copies and contents that
this model holds elsewhere lie there, so a retirement loses none of them. -/
def bankUse (b : Nat) : Nat :=
  if b < 2 then 5 else if b < 18 then 0 else if b < 30 then 1 else if b < 38 then 2 else if b < 42 then 3
  else if b < 43 then 4 else 5

/-- A bank retired (R314): its bit set, the retirement recorded in the configuration store, the replacement taken from the near pool
and then from scratch, and vendor event 04h. With no replacement left the tile is treated as failed (R25). -/
def State.retireBank (s : State) (t bank cause : Nat) : State :=
  let b : Block := .mem t
  let off := if bank < 32 then 0x04C else 0x050
  if bitN (s.rd b off) (bank % 32) then s
  else
    let s1 := s.flag b off (bank % 32)
    let s2 : State := { s1 with cfg := { s1.cfg with body := { s1.cfg.body with
      banks := (s1.cfg.body.banks ++ [(t, bank)]).eraseDups } } }
    if s.rdField b 0x004 6 6 = 0 then
      let s3 := s2.flag b 0x004 6
      ({ s3 with mem := { s3.mem with pool := s3.mem.pool.filter fun p => p.1 != t } } : State).retireNotice t 4 bank cause
    else if s.scr t + 2 ≤ 12 then (s2.setWays t (s.scr t + 2) false).retireNotice t 4 bank cause
    else (s2.retireNotice t 4 bank cause).tileFails t

/-- BANK_RET: a write of BANK_RET0 or BANK_RET1 that sets a bank's bit (R16, R314). -/
def execBankRet (t : TileId) (bank : Fin 48) (s : State) : Out :=
  s.ends (if s.hasTile t then s.retireBank t bank 0xA2
    else s.decErr (regAddr (.mem t) (if bank.val < 32 then 0x04C else 0x050)) 0)

/-- The area of the program pool that holds an address of a tile. -/
def State.poolAreaAt (s : State) (t a : Nat) : Option ThrArea :=
  s.cores.areas.find? fun r => r.tile == t && (
    let m := ((s.sachetOf r.snum).map fun c => c.image).getD []
    ([(r.priv, sachetData m + sachetBss m), (r.spill, sachetSpill m), (r.inW, 65536), (r.outW, 65536), (r.hold, 16384)] :
      List (Nat × Nat)).any fun p => p.1 ≤ a && a < p.1 + p.2)

/-- A word of the program pool lost: the invocation that uses its area ends with C8h and MEM_UNCOR, and the area is initialised again
before the next (R313). -/
def State.poisonPool (s : State) (t a : Nat) : State :=
  match s.poolAreaAt t a with
  | none => s
  | some r =>
    let mine (j : Job) : Bool := j.snum == r.snum && j.area == r.idx
    let s1 : State := { s with cores := { s.cores with areas := s.cores.areas.map fun y => if y == r then { y with ready := false } else y } }
    let running := s.cores.threads.findSome? fun x => if x.id.tile.val == t then (x.job.bind fun j => if mine j then some (x, j) else none) else none
    let parked := s.cores.parked.findSome? fun p => if p.1 == t then (p.2.job.bind fun j => if mine j then some (p.2, j) else none) else none
    match running, parked with
    | some (x, j), _ => ((s1.giveUp t j (s1.now - j.since)).jobFault t j 0x27 x.pc.toNat a).scheduleAt t []
    | none, some (x, j) => (s1.jobFault t j 0x27 x.pc.toNat a).scheduleAt t []
    | none, none => s1

/-- The response to a lost word by the use of its bank (R313): a staged grain whose data lie in it becomes LOST, and an invocation whose
area it lay in ends; other uses are rebuilt or fetched again, which leaves the contents that this model holds unchanged. `grains`
names the staged grains (NSX and local index) whose data lie in the word. -/
def State.poisonResponse (s : State) (t a : Nat) (grains : List (Nat × Nat)) : State :=
  if 0x01800000 ≤ a || a < 0x100000 then s.poisonPool t a
  else if bankUse (a / 0x80000) = 0 then
    grains.foldl (fun s p =>
      let k : GKey := ⟨p.1, p.2⟩
      if (s.tileAt t).ftl.staged.any fun g => g.key == k then
        let s1 := s.onTileAt t fun x => { x with ftl := { x.ftl with staged := x.ftl.staged.filter fun g => g.key != k } }
        s1.loseGrain t k
      else s) s
  else s

/-- MEMORY_ERROR_RETRY: 1 µs after a logged CE or UE in bulk SRAM or scratch, Blustite rewrites a poisoned word and scrubs it. A
clean scrub is a transient; any other retires the bank (R312, R313). -/
def execMemoryErrorRetry (t : TileId) (entry : Fin 16) (clean : Bool) (grains : List (Nat × Nat)) (s : State) : Out :=
  s.ends (let b : Block := .mem t
    let a := s.rd b (0x080 + 8 * entry)
    let info := s.rd b (0x084 + 8 * entry)
    let kind := field info 9 8
    if !s.hasTile t || field info 25 18 = 0 || 1 < kind || !(field info 13 10 = 0 || field info 13 10 = 8) then s
    else
      let k := memKey t a
      let lost := s.mem.poison.contains k
      let s1 : State := if kind = 1 then { s with mem := { s.mem with
          cells := s.mem.cells.filter fun c => !(k ≤ c.1 && c.1 < k + 8)
          poison := s.mem.poison.erase k } } else s
      let s2 := if lost then s1.poisonResponse t a grains else s1
      if clean then s2.logTransient 0xA2 t (a / 0x80000)
      else if a < 0x01800000 then s2.retireBank t (a / 0x80000) 0xA2
      else s2.memError t a kind 8 15 127 false)

end Sys2Proof.Machine
end

