-- ==== Sys2Proof/Machine/PinOut.lean ====
section
/-! DEFINITION. Machine/PinOut.lean: what the device drives on its pins, and where each signal's ball lies (chapter 21). -/

namespace Sys2Proof.Machine

open Sys2Proof

/-! ### Levels that the device drives (R431 to R444) -/

/-- What the device does at a pin. -/
inductive Drive
  | hiZ | low | high
  deriving DecidableEq, Repr

/-- A level driven push-pull. -/
def Drive.push (b : Bool) : Drive := if b then .high else .low

/-- A level driven open drain: low, or released. -/
def Drive.drain (b : Bool) : Drive := if b then .hiZ else .low

/-- FUNC of a GPIO pin; values 6 to 15 act as 0 (R444). -/
def State.gpioFunc (s : State) (n : Nat) : Nat :=
  let f := s.rdField .sbg 0x010 (4 * n + 3) (4 * n)
  if n = 0 ∨ 5 < f then 0 else f

/-- Whether TSENS of some tile exceeds its TTHR (R444). -/
def State.overHeat (s : State) : Bool :=
  s.tileIds.any fun t => (BitVec.ofNat 12 (s.rd (.pwr t) 0x078)).toInt < (BitVec.ofNat 12 (s.rd (.pwr t) 0x018)).toInt

/-- What the device drives at GPIO pin `n`, by its FUNC (R444). GPIO0 is never an output. -/
def State.gpioDrive (s : State) (n : Nat) : Drive :=
  if n = 0 ∨ 7 < n ∨ !s.boot.powered ∨ s.pins.tap = .highz then .hiZ
  else match s.gpioFunc n with
    | 1 => .drain (s.logs.critical == 0 && !s.host.ctrls.any fun c => c.cfs)
    | 2 => .push (s.host.ctrls.any fun c => c.rdy)
    | 3 => .push s.pins.act
    | 4 => .drain !s.overHeat
    | 5 => .push (s.rdField .rein 0x004 2 0 == 3)
    | _ =>
      if !bitN (s.rd .sbg 0x008) n then .hiZ
      else if bitN (s.rd .sbg 0x014) n then .drain (bitN (s.rd .sbg 0x00C) n)
      else .push (bitN (s.rd .sbg 0x00C) n)

/-- The level at a GPIO pin: the one that the device drives, otherwise the board's. -/
def State.gpioLevel (s : State) (n : Nat) : Bool :=
  match s.gpioDrive n with
  | .low => false
  | .high => true
  | .hiZ => s.pins.gpio.getD n false

/-- GPIO_IN: the levels of the eight pins, zero while EN is 0 (Table 21.4). -/
def State.gpioIn (s : State) : Nat :=
  if bitN (s.rd .sbg 0) 0 then sumOf ((List.range 8).map fun i => if s.gpioLevel i then 2 ^ i else 0) else 0

/-- Whether a channel is enabled and operating: not retired, and not draining for a park (R432). -/
def State.chanDriven (s : State) (t c : Nat) : Bool :=
  s.boot.powered && s.power.on.contains (t, c / 8) && (s.tileAt t).chanUp c && bitN (s.rd (.fch t c) 0x000) 0 && s.power.step == 0

/-- WP_N of a channel: high only while the channel is enabled and operating; otherwise its pull-down holds it low (R432). -/
def State.wpN (s : State) (t c : Nat) : Drive := if s.chanDriven t c then .high else .hiZ

/-- CE_N of a channel that is not operated: high from PWROK, and held high by its pull-up before. While the channel operates, the
sequencer selects the LUN of a command phase, which is timing (R432). -/
def State.ceN (s : State) (t c : Nat) : Option Drive :=
  if s.chanDriven t c then none else some (if s.boot.powered then .high else .hiZ)

/-- Whether the UART is open: TXD driven and RXD taken, once a DEBUG_UNLOCK has opened its scope (R439). -/
def State.uartOpen (s : State) : Bool := bitN s.ident.debug 1

/-- VSET, driven from step 6 of the start on; before that the board's bias gives code 8 (R443). -/
def State.vsetDriven (s : State) : Option Nat := if s.boot.storeRead then some s.pins.vset else none

/-- The VDD_CORE set point that a code of VSET requests, in units of 10 nV (R443). -/
def vsetPoint (code : Nat) : Nat := 70000000 + min 16 code * 625000

/-- The static address in SMBus-compatible mode (R437). -/
def smbusAddress : Nat := 0x1D

/-- Bits 32 to 0 of the provisional ID of the I3C target: bit 32 is 0, and the rest is the low 32 bits of UID (R437). -/
def State.i3cId (s : State) : Nat := leAt s.fuses.uid 0 4

/-! ### Links (R435) -/

/-- The port and lane of a host lane of the package: all of port A, or lanes 8 to 15 as lanes 0 to 7 of port B (R435). The LTR-2032 has
lanes 0 to 7 only. -/
def State.hostLane (s : State) (lane : Nat) : Option (Nat × Nat) :=
  if 16 ≤ lane ∨ (s.fuses.part = .ltr2032 ∧ 8 ≤ lane) then none
  else if s.host.portMode = 1 then some (lane / 8, lane % 8) else some (0, lane)

/-! ### The ball map (R446 to R450) -/

/-- The grid of a part: its side, the width and height of a tile's region, the tile columns, and B, the channel blocks of a row (Tables 1.1 and
21.5). -/
structure Grid where
  side   : Nat
  width  : Nat
  height : Nat
  cols   : Nat
  blocks : Nat
  deriving DecidableEq, Repr

/-- Table 21.5. -/
def Part.grid : Part → Grid
  | .ltr2032 => ⟨42, 21, 42, 2, 4⟩
  | .ltr4064 => ⟨52, 26, 26, 2, 6⟩
  | .ltr8128 => ⟨72, 18, 36, 4, 4⟩

/-- The letters of ball rows. -/
def rowLetters : List Char := ['A', 'B', 'C', 'D', 'E', 'F', 'G', 'H', 'J', 'K', 'L', 'M', 'N', 'P', 'T', 'U', 'V', 'W', 'Y']

/-- The name of a package row, 1 to 72 (R447). -/
def rowName (row : Nat) : List Char :=
  let letter := [rowLetters.getD ((row - 1) % 19) 'A']
  match (row - 1) / 19 with
  | 0 => letter
  | 1 => 'A' :: letter
  | 2 => 'B' :: letter
  | _ => 'C' :: letter

/-- The decimal digits of a number below 100. -/
def twoDigits (n : Nat) : List Char :=
  let digit (k : Nat) : Char := Char.ofNat (48 + k % 10)
  if n < 10 then [digit n] else [digit (n / 10), digit n]

/-- The name of a ball: its row and then its column (R447). -/
def ballName (row col : Nat) : List Char := rowName row ++ twoDigits col

/-- The package row and column of a local row and column of a tile's region (R448). -/
def Grid.place (g : Grid) (t lr lc : Nat) : Nat × Nat :=
  (if t / g.cols = 0 then lr else g.side + 1 - lr, g.width * (t % g.cols) + lc)

/-- A ball of a channel block. -/
inductive ChanBall
  | ceN (i : Fin 4) | rbN | wpN | ale | cle | weN | reT | reC | dq (i : Fin 8) | dqsT | dqsC | vss | vccqFc
  deriving DecidableEq, Repr

/-- Table 21.6: block rows from the edge, block columns from the lower local column. -/
def channelBlock : List (List ChanBall) :=
  [[.ceN 0, .ceN 1, .ceN 2, .ceN 3], [.rbN, .wpN, .ale, .cle], [.weN, .vss, .reT, .reC], [.dq 0, .dq 1, .vss, .vccqFc],
   [.dq 2, .dq 3, .dqsT, .dqsC], [.dq 4, .dq 5, .vss, .vccqFc], [.dq 6, .dq 7, .vss, .vss]]

/-- The local row and column of block position (row, column), both from 0, of channel `k` of a tile (R449). -/
def Grid.chanPos (g : Grid) (k r c : Nat) : Nat × Nat := (1 + 7 * (k / g.blocks) + r, 3 + 4 * (k % g.blocks) + c)

/-- The package positions of a signal of channel `k` of tile `t`: one, or for VSS several (R448, R449). -/
def Grid.chanBalls (g : Grid) (t k : Nat) (b : ChanBall) : List (Nat × Nat) :=
  (List.range 7).flatMap fun r => ((List.range 4).filter fun c => (channelBlock.getD r []).getD c .vss == b).map fun c =>
    let p := g.chanPos k r c
    g.place t p.1 p.2

/-- Whether a local position lies in a channel block. -/
def Grid.inBlock (g : Grid) (lr lc : Nat) : Bool :=
  3 ≤ lc && lc < 3 + 4 * g.blocks && 1 ≤ lr && (lr - 1) / 7 * g.blocks + (lc - 3) / 4 < 16

/-- The core positions of a region, by ascending local row and column (R450). -/
def Grid.corePositions (g : Grid) : List (Nat × Nat) :=
  (List.range g.height).flatMap fun r => ((List.range g.width).filter fun c => !g.inBlock (r + 1) (c + 1)).map fun c => (r + 1, c + 1)

/-- Signals of the core area (Table 21.7). -/
inductive CoreBall
  | htx (lane : Nat) | hrx (lane : Nat) | refclk | vddPcie | vddhPcie | reinTx (k : Nat) | reinTxc | reinRx (k : Nat) | reinRxc
  | pwrok | perstN | bootSel (i : Nat) | pairEn | testen | sysclk | gpio (i : Nat) | i3cScl | i3cSda | tck | tms | tdi | tdo | trstN
  | uartTxd | uartRxd | vset (i : Nat) | vsense | thd (i : Nat) | vddCore | vddSram | vddAon | vddIo18 | vss
  deriving DecidableEq, Repr

/-- One entry of the fill order: a signal, whether it is a differential pair, and whether the first supply group starts with it. -/
structure FillItem where
  ball  : CoreBall
  pair  : Bool := false
  start : Bool := false
  deriving DecidableEq, Repr

/-- A single ball. -/
def one (b : CoreBall) : FillItem := { ball := b }

/-- A differential pair. -/
def two (b : CoreBall) : FillItem := { ball := b, pair := true }

/-- Groups 3 and 5, the PCIe supplies, and group 8 to 11, the tile's supplies. -/
def supplies (ls : List (Nat × CoreBall)) (start : Bool) : List FillItem :=
  match ls.flatMap fun l => List.replicate l.1 (one l.2) with
  | [] => []
  | x :: xs => { x with start := start } :: xs

/-- The fill order of a tile of a part (Table 21.7). T1 of the LTR-2032 has no host lanes, nor their supplies. -/
def Part.fill (p : Part) (t : Nat) : List FillItem :=
  let host := t = 0 ∨ (t = 1 ∧ p ≠ .ltr2032)
  let lanes := if t = 0 then List.range 8 else (List.range 8).map fun i => i + 8
  let gap := [one .vss, one .vss]
  let g1 := if host then lanes.flatMap fun l => two (.htx l) :: gap ++ two (.hrx l) :: gap else []
  let g2 := if t = 0 then [two .refclk] else []
  let g3 := if host then supplies [(8, .vddPcie), (4, .vddhPcie)] true else []
  let rein := (List.range 4).map (fun k => CoreBall.reinTx k) ++ [.reinTxc] ++ (List.range 4).map (fun k => CoreBall.reinRx k) ++ [.reinRxc]
  let g4 := if t = 1 then rein.flatMap fun b => two b :: gap else []
  let g5 := if t = 1 then supplies [(2, .vddPcie), (2, .vddhPcie)] (!host) else []
  let ctl : List CoreBall := [.pwrok, .perstN, .bootSel 0, .bootSel 1, .pairEn, .testen, .sysclk] ++ (List.range 8).map CoreBall.gpio ++
    [.i3cScl, .i3cSda, .tck, .tms, .tdi, .tdo, .trstN, .uartTxd, .uartRxd] ++ (List.range 5).map CoreBall.vset
  let g6 := if t = 0 then ctl.map one ++ [two .vsense] else []
  let g7 := if t = 0 then [two (.thd 0)] else if (p = .ltr8128 ∧ t = 4) ∨ (p = .ltr4064 ∧ t = 2) then [two (.thd 1)] else []
  let io := if t = 0 then 4 else 2
  g1 ++ g2 ++ g3 ++ g4 ++ g5 ++ g6 ++ g7 ++ supplies [(36, .vddCore), (12, .vddSram), (2, .vddAon), (io, .vddIo18)] (t ≠ 0 && t ≠ 1)

/-- Core positions assigned to signals: a pair takes two consecutive columns of one row, the first supply group waits for its row, and
every position skipped or left over is VSS (R450). -/
def fillCore (row : Nat) : List (Nat × Nat) → List FillItem → List ((Nat × Nat) × CoreBall)
  | [], _ => []
  | ps, [] => ps.map fun p => (p, .vss)
  | p :: rest, i :: is =>
    if i.start ∧ p.1 < row then (p, .vss) :: fillCore row rest (i :: is)
    else if i.pair then
      match rest with
      | [] => [(p, .vss)]
      | q :: rest' =>
        if q.1 = p.1 ∧ q.2 = p.2 + 1 then (p, i.ball) :: (q, i.ball) :: fillCore row rest' is
        else (p, .vss) :: fillCore row (q :: rest') (i :: is)
    else (p, i.ball) :: fillCore row rest is

/-- The row at which the first supply group of a tile starts at the earliest: the one after the last channel block row. -/
def Grid.supplyRow (g : Grid) : Nat := 1 + 7 * ((16 + g.blocks - 1) / g.blocks)

/-- The core area of a tile: local position and signal (R450). -/
def Part.coreArea (p : Part) (t : Nat) : List ((Nat × Nat) × CoreBall) := fillCore p.grid.supplyRow p.grid.corePositions (p.fill t)

/-- The package positions of a signal in the core area of a tile; a pair has P and then N. -/
def Part.coreBalls (p : Part) (t : Nat) (b : CoreBall) : List (Nat × Nat) :=
  ((p.coreArea t).filter fun x => x.2 == b).map fun x => p.grid.place t x.1.1 x.1.2

end Sys2Proof.Machine
end

