-- ==== Sys2Proof/Machine/Flash.lean ====
section
/-! DEFINITION. Machine/Flash.lean: the flash channels (chapter 6): rings, operations, the ladder, interface faults and
training. -/

namespace Sys2Proof.Machine

open Sys2Proof

/-! ### A channel's registers -/

/-- The descriptor ring of a channel (Table 6.8). -/
def State.fchRing (s : State) (t c : Nat) : Ring :=
  ⟨s.rd (.fch t c) 0x01C / 32 * 32, 2 ^ s.rdField (.fch t c) 0x020 4 1, s.rd (.fch t c) 0x024, s.rd (.fch t c) 0x028⟩

/-- The completion ring of a channel: of the same size. -/
def State.fchComp (s : State) (t c : Nat) : Ring :=
  ⟨s.rd (.fch t c) 0x02C / 16 * 16, 2 ^ s.rdField (.fch t c) 0x020 4 1, s.rd (.fch t c) 0x030, s.rd (.fch t c) 0x034⟩

/-- The operations that a channel has issued and not completed. -/
def State.fchBusy (s : State) (t c : Nat) : List FlashJob := (s.tileAt t).flash.inflight.filter fun j => j.chan == c

/-- Whether a channel is drained: queue empty, bus idle (R50, Table 2.11). -/
def State.fchDrained (s : State) (t c : Nat) : Bool :=
  (s.fchRing t c).count == 0 && (s.fchBusy t c).isEmpty

/-- STAT brought up to date: STATE, QDEPTH and GOVACT. -/
def State.fchStat (s : State) (t c : Nat) : State :=
  let st := if !(s.tileAt t).chanUp c then 4
    else if !bitN (s.rd (.fch t c) 0x000) 0 then 0
    else if (s.tileAt t).flash.training.any (fun x => x.chan == c) then 1
    else if s.fchDrained t c then 3 else 2
  let s1 := s.wrField (.fch t c) 0x004 2 0 st
  s1.wrField (.fch t c) 0x004 14 4 (s.fchBusy t c).length

/-- The busy LUNs allowed at once: min(POLICY.MAXACT, STAT.GOVACT), where 0 and values above 16 act as 16 (R148). -/
def State.fchLimit (s : State) (t c : Nat) : Nat :=
  let m := field (s.eff (.fch t c) 0x038) 12 8
  min (if m = 0 ∨ 16 < m then 16 else m) (max 1 s.power.govact)

/-! ### Descriptors (Table 6.3) -/

/-- Whether the descriptor breaks a rule of status INVALID (Table 6.5). -/
def State.flashInvalid (s : State) (t c : Nat) (d : List Byte) : Bool :=
  let op := leAt d 0 1
  let lun := leAt d 2 1
  let planes := leAt d 3 1
  let cw := leAt d 8 2
  op == 0 || 7 < op || 7 < leAt d 1 1 || 15 < lun || 15 < planes || 16384 ≤ leAt d 4 2 || 4096 ≤ leAt d 6 2 ||
  leAt d 10 2 != 0 || leAt d 16 4 % 64 != 0 || leAt d 22 2 != 0 || leAt d 24 8 != 0 ||
  !bitN (s.rd (.fch t c) 0x018) lun && op != 4 || planes == 0 || s.fuses.quads ≤ leAt d 4 2 || s.fuses.pages ≤ leAt d 6 2 ||
  op == 1 && (cw == 0 || (List.range 16).any fun i => bitN cw i && !bitN planes (i / 4)) || op != 1 && cw != 0

/-- The completion status that ends a descriptor before it is issued: RETIRED, INVALID, or none to issue it. -/
def State.flashRefuse (s : State) (t c : Nat) (d : List Byte) : Option Nat :=
  if !(s.tileAt t).lunUp c (leAt d 2 1 % 16) then some 5
  else if s.flashInvalid t c d then some 7
  else none

/-- Whether the sequencer may take the descriptor at QHEAD now: channel and ring enabled, a completion slot free for it and for
every operation in progress, its LUN idle, and the concurrency limit kept (R147, R148). -/
def State.fchReady (s : State) (t c : Nat) : Bool :=
  let d := s.readMem t ((s.fchRing t c).at (s.fchRing t c).head 32) 32
  s.hasTile t && s.blockOn (.fch t c) && bitN (s.rd (.fch t c) 0x000) 0 && bitN (s.rd (.fch t c) 0x020) 0 &&
  (s.fchRing t c).count != 0 && (s.fchComp t c).count + (s.fchBusy t c).length < (s.fchComp t c).size &&
  !(s.fchBusy t c).any (fun j => j.lun == leAt d 2 1 % 16) && (s.fchBusy t c).length < s.fchLimit t c &&
  !(s.tileAt t).flash.training.any fun x => x.chan == c

/-- The descriptor at QHEAD taken and issued: `mk` gives the completion's STATUS, STEP, MAXBITS, FAILMASK and FLAGS, and the
state after what happens at issue. A row takes the head descriptor only when its OP is the row's, or is reserved. -/
def State.issueFlash (s : State) (t c op : Nat) (mk : List Byte → State → State × (Nat × Nat × Nat × Nat × Nat)) : State :=
  let r := s.fchRing t c
  let d := s.readMem t (r.at r.head 32) 32
  let dop := leAt d 0 1
  if !s.fchReady t c || !(dop == op || dop == 0 || 7 < dop) then s
  else
    let s1 := s.wr (.fch t c) 0x024 (r.next r.head)
    let res := match s.flashRefuse t c d with
      | some st => (s1, (st, 0, 0, 0, 0))
      | none => mk d s1
    let j : FlashJob := ⟨c, leAt d 2 1 % 16, dop, d, r.head % r.size, res.2.1, res.2.2.1, res.2.2.2.1, res.2.2.2.2.1,
      res.2.2.2.2.2⟩
    let s2 := res.1.onTileAt t fun x => { x with flash := { x.flash with inflight := x.flash.inflight ++ [j] } }
    (s2.wrField (.fch t c) 0x048 25 16 (r.head % r.size)).fchStat t c

/-- FCH_QTAIL: the steward advances QTAIL past the descriptors it has written (R147). -/
def execFchQtail (t : TileId) (c : Fin 16) (v : Word) (s : State) : Out :=
  s.ends (if !s.hasTile t then s.decErr (regAddr (.fch t c) 0x028) 0
    else if !s.blockOn (.fch t c) then s.decErr (regAddr (.fch t c) 0x028) 0
    else (s.wr (.fch t c) 0x028 (v.toNat % 2048)).fchStat t c)

/-- The codewords of a mask. -/
def popMask (m : Nat) : Nat := ((List.range 16).filter (bitN m)).length

/-- FLASH_READ: the page is read, decoded by hard decision and, where that fails, through the ladder of at most POLICY.STEPS
steps (R151 to R154). A page that was never programmed does not decode. -/
def execFlashRead (t : TileId) (c : Fin 16) (env : LadderEnv) (s : State) : Out :=
  s.ends (s.issueFlash t c 1 fun d s1 =>
    let cw := leAt d 8 2
    let blank := (List.range 16).foldl (fun m i => if bitN cw i &&
      (kvGet (pageKey c (leAt d 2 1) (i / 4) (leAt d 4 2) (leAt d 6 2)) (s.tileAt t).flash.pages).isNone
      then m + 2 ^ i else m) 0
    let steps := s.eff (.fch t c) 0x038 % 16
    let hard := env.okStep == some 0 && blank == 0
    let good := match env.okStep with
      | some k => blank == 0 && k ≤ steps
      | none => false
    let bad := if blank != 0 then blank else if good then 0 else if env.mask &&& cw = 0 then cw else env.mask &&& cw
    let s2 := s1.count (.fch t c) 0x04C env.fixed
    let s3 := if hard then s2 else (s2.count (.fch t c) 0x050 1).flag (.fch t c) 0x040 2
    let soft := good && env.soft && !hard && bitN (s.eff (.fch t c) 0x038) 4
    let s4 := if soft then s3.count (.fch t c) 0x054 1 else s3
    let s5 := if good then (if hard then s4 else s4.log 1 0 0 t c 0)
      else (s4.count (.fch t c) 0x058 (popMask bad)).flag (.fch t c) 0x040 3
    (s5, (if good then 0 else 1, if good then env.okStep.getD 0 else steps, env.bits, bad, if soft then 2 else 0)))

/-- FLASH_PROGRAM: a program is issued; `failed` is the NAND's verdict (R114, R147, R152). -/
def execFlashProgram (t : TileId) (c : Fin 16) (failed : Bool) (s : State) : Out :=
  s.ends (s.issueFlash t c 2 fun _ s1 => (s1, (if failed then 2 else 0, 0, 0, 0, 0)))

/-- FLASH_ERASE: an erase is issued (R147). -/
def execFlashErase (t : TileId) (c : Fin 16) (failed : Bool) (s : State) : Out :=
  s.ends (s.issueFlash t c 3 fun _ s1 => (s1, (if failed then 3 else 0, 0, 0, 0, 0)))

/-- Every check of Table 6.2. -/
def paramOk (p : ParamPage) : Bool :=
  p.crcOk && p.iface && p.dataBytes == 16384 && 2048 ≤ p.spare && p.planes == 4 && p.pages ≤ 4096 &&
  (List.range 13).any (fun k => p.pages == 2 ^ k) && p.blocks % 4 == 0 && p.blocks ≤ 65536 && 1 ≤ p.lunsPerCe &&
  p.lunsPerCe ≤ 4 && p.profile

/-- FLASH_READ_PARAM: the parameter page is read and checked; a LUN enters service only when every check passes, and a failing
one is logged (R142). -/
def execFlashReadParam (t : TileId) (c : Fin 16) (page : ParamPage) (s : State) : Out :=
  s.ends (s.issueFlash t c 4 fun d s1 =>
    let lun := leAt d 2 1
    let s2 := s1.writeMem t (leAt d 16 4) page.bytes
    let s3 := if paramOk page then s2.wrField (.fch t c) 0x018 lun lun 1
      else (s2.wrField (.fch t c) 0x018 lun lun 0).log 2 0x9C 2 t (c + lun * 16) 0
    let upd (l : List (Nat × Nat)) : List (Nat × Nat) :=
      if paramOk page then (l ++ [(c.val, lun)]).eraseDups else l.filter fun y => y != (c.val, lun)
    (s3.onTileAt t fun x => { x with flash := { x.flash with checked := upd x.flash.checked } }, (0, 0, 0, 0, 0)))

/-- The key of a feature value of a LUN. -/
def featKey (c lun addr : Nat) : Nat := (c * 16 + lun) * 256 + addr

/-- FLASH_GET_FEATURES: the feature is read back (R147). The manual names no place for the value. -/
def execFlashGetFeatures (t : TileId) (c : Fin 16) (s : State) : Out :=
  s.ends (s.issueFlash t c 5 fun _ s1 => (s1, (0, 0, 0, 0, 0)))

/-- FLASH_SET_FEATURES: the feature takes the descriptor's option (R147). -/
def execFlashSetFeatures (t : TileId) (c : Fin 16) (s : State) : Out :=
  s.ends (s.issueFlash t c 6 fun d s1 =>
    (s1.onTileAt t fun x => { x with flash := { x.flash with
      features := kvSet (featKey c (leAt d 2 1) (leAt d 20 1)) (leAt d 21 1) x.flash.features } }, (0, 0, 0, 0, 0)))

/-- FLASH_RESET_LUN: Reset LUN; feature values return to option 0 (R147). -/
def execFlashResetLun (t : TileId) (c : Fin 16) (s : State) : Out :=
  s.ends (s.issueFlash t c 7 fun d s1 =>
    (s1.onTileAt t fun x => { x with flash := { x.flash with
      features := x.flash.features.filter fun y => y.1 / 256 != c * 16 + leAt d 2 1 } }, (0, 0, 0, 0, 0)))

/-! ### Completion (R147, Table 6.4) -/

/-- The completion entry of a job (Table 6.4). -/
def FlashJob.entry (j : FlashJob) : List Byte :=
  slice 12 4 j.desc ++ leBytes 1 j.status ++ leBytes 1 j.step ++ leBytes 2 j.maxBits ++ leBytes 2 j.failMask ++
  leBytes 1 j.flags ++ leBytes 1 0 ++ leBytes 2 j.didx ++ leBytes 2 0

/-- A completion written, CTAIL advanced, and CDONE raised for a descriptor with FLAGS.IRQ. -/
def State.flashPost (s : State) (t c : Nat) (j : FlashJob) : State :=
  let r := s.fchComp t c
  let s1 := (s.writeMem t (r.at r.tail 16) j.entry).wr (.fch t c) 0x034 (r.next r.tail)
  if bitN (leAt j.desc 1 1) 2 then s1.flag (.fch t c) 0x040 0 else s1

/-- The selected planes of a descriptor, ascending. -/
def planesOf (d : List Byte) : List Nat := (List.range 4).filter (bitN (leAt d 3 1))

/-- The XOR of the data areas of one page and plane over the other members of a stripe (R110, R118). -/
def Tile.stripeXor (x : Tile) (b : Superblock) (q : QuadId) (plane page : Nat) : List Byte :=
  let same (m : QuadId) : Bool := b.stream != .alt || ((8 ≤ m.chan) == (8 ≤ q.chan))
  (b.members.filter fun m => m.1 != q && m.2 && same m.1).foldl (fun acc m =>
    match kvGet (pageKey m.1.chan m.1.lun plane m.1.block page) x.flash.pages with
    | some p => xorBytes acc (fit 16384 p)
    | none => acc) (zeros 16384)

/-- The superblock that a quad is a member of, with its position. -/
def Ftl.memberOf (f : Ftl) (q : QuadId) : Option (Superblock × Nat) :=
  (f.sbs.find? fun b => b.members.any fun m => m.1 == q).map fun b =>
    (b, ((List.range b.width).find? fun i => (b.members[i]?).any fun m => m.1 == q).getD 0)

/-- The effect of a read that ends: codewords delivered to BUF (Table 6.3). In RAW mode each delivered codeword is 4,608 bytes,
whose last 512 are the LDPC check bits, which the manual does not give. -/
def State.deliver (s : State) (t c : Nat) (j : FlashJob) : State :=
  let d := j.desc
  let raw := bitN (leAt d 1 1) 1
  let cw := leAt d 8 2
  (List.range 16).foldl (fun s i =>
    if !bitN cw i || bitN j.failMask i then s
    else
      let page := fit 16384 ((kvGet (pageKey c (leAt d 2 1) (i / 4) (leAt d 4 2) (leAt d 6 2))
        (s.tileAt t).flash.pages).getD [])
      let data := slice (i % 4 * 4096) 4096 page
      if raw then
        let fr := s.drawBytes 512
        fr.2.writeMem t (leAt d 16 4 + i * 4608) (data ++ fr.1)
      else s.writeMem t (leAt d 16 4 + i * 4096) data) s

/-- The effect of a program that ends well: each selected plane's page holds the data of BUF, and a page of a parity member
holds the XOR of its stripe (R110). -/
def State.programmed (s : State) (t c : Nat) (j : FlashJob) : State :=
  let d := j.desc
  let raw := bitN (leAt d 1 1) 1
  let q : QuadId := ⟨c, leAt d 2 1, leAt d 4 2⟩
  let size := if raw then 18432 else 16384
  let bufs := (planesOf d).zip (List.range 4)
  let s1 := bufs.foldl (fun s pi =>
    let got := s.readMem t (leAt d 16 4 + pi.2 * size) size
    let data := if raw then (List.range 4).flatMap fun k => slice (k * 4608) 4096 got else got
    s.onTileAt t fun x =>
      let data' := match x.ftl.memberOf q with
        | some (b, pos) => if b.isParity pos then x.stripeXor b q pi.1 (leAt d 6 2) else data
        | none => data
      { x with flash := { x.flash with
          pages := kvSet (pageKey c q.lun pi.1 q.block (leAt d 6 2)) data' x.flash.pages } }) s
  s1.onTileAt t fun x => ((x.settle s.pinNsx).closeFull s.pinNsx s.now s.fuses.pages)

/-- RAIN_REBUILD of the pages of an uncorrectable read (R118, R119): rebuilt from the stripe, the page's grains are relocated
and the quad is retired when its superblock is next released; when the rebuild fails, every grain of the page is LOST. -/
def State.rebuild (s : State) (t c : Nat) (j : FlashJob) (ok : Bool) : State :=
  let d := j.desc
  let q : QuadId := ⟨c, leAt d 2 1, leAt d 4 2⟩
  ((List.range 4).filter fun x => j.failMask / 16 ^ x % 16 != 0).foldl (fun s plane =>
    let gs := (s.tileAt t).ftl.grainsOn q plane (leAt d 6 2)
    if ok then
      let s1 := gs.foldl (fun s g => s.relocate t g) s
      (s1.onTileAt t fun x => { x with ftl := { x.ftl with doomed := (x.ftl.doomed ++ [q]).eraseDups } }).log 1 0 0 t c 0
    else gs.foldl (fun s g => s.loseGrain t g.key) s) s

/-- What the media layer does when an operation ends (R114, R118 to R120). -/
def State.flashEffect (s : State) (t c : Nat) (j : FlashJob) (rebuildable : Bool) : State :=
  let q : QuadId := ⟨c, leAt j.desc 2 1, leAt j.desc 4 2⟩
  match j.op, j.status with
  | 1, 0 => s.deliver t c j
  | 1, 1 => (s.deliver t c j).rebuild t c j rebuildable
  | 2, 0 => s.programmed t c j
  | 2, 2 => (s.retireQuad t q 0x98).dropMember t q
  | 3, 0 => s.onTileAt t fun x => { x with flash := { x.flash with pages := x.flash.pages.filter fun p =>
      !(p.1 / 2 ^ 28 == c * 16 + q.lun && p.1 / 2 ^ 12 % 2 ^ 14 == q.block &&
        (planesOf j.desc).contains (p.1 / 2 ^ 26 % 4)) } }
  | 3, 3 => s.retireQuad t q 0x99
  | _, _ => s

/-- FLASH_OP_COMPLETE: the operation on a LUN of the channel ends and its completion is posted (R147). -/
def execFlashOpComplete (t : TileId) (c : Fin 16) (lun : Fin 16) (rebuildable : Bool) (s : State) : Out :=
  s.ends (match (s.fchBusy t c).find? fun j => j.lun == lun.val with
    | none => s
    | some j =>
      let s1 := s.onTileAt t fun x => { x with flash := { x.flash with inflight := x.flash.inflight.erase j } }
      ((s1.flashEffect t c j rebuildable).flashPost t c j).fchStat t c)

/-- Every descriptor of the ring not yet issued ended, in ring order, with a status (R150, R157). -/
def State.fchFlush (s : State) (t c status : Nat) : State :=
  (List.range (s.fchRing t c).count).foldl (fun s _ =>
    let r := s.fchRing t c
    let d := s.readMem t (r.at r.head 32) 32
    let s1 := s.wr (.fch t c) 0x024 (r.next r.head)
    s1.flashPost t c ⟨c, leAt d 2 1 % 16, leAt d 0 1, d, r.head % r.size, status, 0, 0, 0, 0⟩) s

/-- FCH_QCTRL_EN_CLEAR: the ring is disabled; every descriptor not yet issued ends with FLUSHED (R150). -/
def execFchQctrlEnClear (t : TileId) (c : Fin 16) (s : State) : Out :=
  s.ends (if !s.hasTile t || !s.blockOn (.fch t c) then s.decErr (regAddr (.fch t c) 0x020) 0
    else ((s.fchFlush t c 6).unflag (.fch t c) 0x020 0).fchStat t c)

/-! ### Interface faults (R156, R157) -/

/-- The class number (Table 6.7). -/
def ifaceNum : IfaceClass → Nat
  | .dpar => 1
  | .rdyto => 2
  | .featrb => 3
  | .train => 4
  | .zq => 5

/-- Whether a class retires the whole channel (Table 6.7). -/
def ifaceChannel : IfaceClass → Bool
  | .dpar | .train => true
  | _ => false

/-- FLT_INFO of a fault. -/
def State.fltInfo (s : State) (t c : Nat) (cls : IfaceClass) (lun : Nat) (perm : Bool) : State :=
  ((s.wrField (.fch t c) 0x048 3 0 (ifaceNum cls)).wrField (.fch t c) 0x048 7 4 lun).wrField (.fch t c) 0x048 8 8 (b2n perm)

/-- A retired LUN or channel (R157): journalled, its registers marked, its queued descriptors ended with RETIRED when the whole
channel leaves, and the notice of Table 20.5. Only one retirement is written for the widest scope (R421). -/
def State.retireChan (s : State) (t c : Nat) (lun : Option Nat) (cause : Nat) : State :=
  let s1 := s.retireMedia t c lun cause
  match lun with
  | some l =>
    let s2 := (s1.wrField (.fch t c) 0x018 l l 0).wrField (.fch t c) 0x018 (16 + l) (16 + l) 1
    (s2.flag (.fch t c) 0x040 4).fchStat t c
  | none =>
    let s2 := (s1.fchFlush t c 5).wrField (.fch t c) 0x004 31 24 cause
    ((s2.unflag (.fch t c) 0x000 0).flag (.fch t c) 0x040 4).fchStat t c

/-- READY_TIMEOUT: a LUN was not ready within its TOUT limit; the second status-poll window follows after 10 µs (R156). -/
def execReadyTimeout (t : TileId) (c : Fin 16) (lun : Fin 16) (s : State) : Out :=
  s.ends (if (s.fchBusy t c).any (fun j => j.lun == lun.val) then s.fltInfo t c .rdyto lun false else s)

/-- INTERFACE_FAULT_RETRY: after its backoff the faulted transaction is repeated once. A success is a transient; a failure
retires the scope and ends the descriptor with IFACE_FAIL, and a program or erase that never reported counts as failed (R156). -/
def execInterfaceFaultRetry (t : TileId) (c : Fin 16) (lun : Fin 16) (cls : IfaceClass) (retryOk : Bool) (s : State) : Out :=
  s.ends (
    if !s.hasTile t || !s.blockOn (.fch t c) || !(s.tileAt t).lunUp c lun then s
    else
      let job := (s.fchBusy t c).find? fun j => j.lun == lun.val
      let cause := 0x8F + ifaceNum cls
      if retryOk then
        let mark (j : FlashJob) : FlashJob := if some j == job then { j with flags := j.flags ||| 1 } else j
        let s1 := s.onTileAt t fun x => { x with flash := { x.flash with inflight := x.flash.inflight.map mark } }
        (((s1.fltInfo t c cls lun false).count (.fch t c) 0x05C 1).flag (.fch t c) 0x040 1).logTransient cause t
          (c + lun * 16)
      else
        let s1 := s.fltInfo t c cls lun true
        let s2 := match job with
          | none => s1
          | some j =>
            let q : QuadId := ⟨c, lun, leAt j.desc 4 2⟩
            let s2 := s1.onTileAt t fun x => { x with flash := { x.flash with inflight := x.flash.inflight.erase j } }
            let s3 := if cls == IfaceClass.rdyto && j.op == 2 then (s2.retireQuad t q 0x98).dropMember t q
              else if cls == IfaceClass.rdyto && j.op == 3 then s2.retireQuad t q 0x99 else s2
            s3.flashPost t c { j with status := 4 }
        s2.retireChan t c (if ifaceChannel cls then none else some lun.val) cause)

/-! ### Training (R145, R146) -/

/-- A training command: it takes effect only while the channel is drained (R50, R146). -/
def State.startTraining (s : State) (t c : Nat) (full : Bool) : State :=
  if !s.hasTile t || !s.blockOn (.fch t c) then s.decErr (regAddr (.fch t c) 0x010) 0
  else if !s.fchDrained t c then s.decErr (regAddr (.fch t c) 0x010) 2
  else if !(s.tileAt t).chanUp c || !bitN (s.rd (.fch t c) 0x000) 0 then s
  else
    let s1 := s.onTileAt t fun x => { x with flash := { x.flash with
      training := x.flash.training.filter (fun y => y.chan != c) ++ [⟨c, full, 0⟩] } }
    (s1.wr (.fch t c) 0x014 0).fchStat t c

/-- TRAIN_FULL: TRAIN_CMD.FULL written (R145). -/
def execTrainFull (t : TileId) (c : Fin 16) (s : State) : Out := s.ends (s.startTraining t c true)

/-- TRAIN_ZQONLY: TRAIN_CMD.ZQONLY written (R145). -/
def execTrainZqonly (t : TileId) (c : Fin 16) (s : State) : Out := s.ends (s.startTraining t c false)

/-- TRAINING_COMPLETE: one attempt ends. It passes when no step failed and both eyes are at least 24/64; a failed first attempt is
repeated after 1 ms, a failed second one retires the channel, or for a ZQ failure the LUN (R145, R156). -/
def execTrainingComplete (t : TileId) (c : Fin 16) (res : TrainResult) (s : State) : Out :=
  s.ends (match (s.tileAt t).flash.training.find? fun x => x.chan == c.val with
    | none => s
    | some tr =>
      let pass := res.zqFail.isNone && (!tr.full || (!res.stepFail && 24 ≤ res.rdWin && 24 ≤ res.wrWin))
      let info := res.rdWin % 256 + res.wrWin % 256 * 2 ^ 8 + res.worst % 8 * 2 ^ 16 + (tr.tries + 1) * 2 ^ 21
      let cls : IfaceClass := if res.zqFail.isSome then .zq else .train
      let lun := (res.zqFail.map fun x => x.val).getD 0
      let stop (s : State) : State := s.onTileAt t fun x => { x with flash := { x.flash with
        training := x.flash.training.erase tr } }
      if pass then
        let s1 := (stop s).wr (.fch t c) 0x014 (info + 2 ^ 19)
        let s2 := if tr.tries = 0 then s1
          else ((s1.count (.fch t c) 0x05C 1).flag (.fch t c) 0x040 1).logTransient 0x93 t c
        (s2.flag (.fch t c) 0x040 5).fchStat t c
      else if tr.tries = 0 then
        let again (y : Training) : Training := if y == tr then { y with tries := 1 } else y
        (s.onTileAt t fun x => { x with flash := { x.flash with
          training := x.flash.training.map again } }).fltInfo t c cls lun false
      else
        let s1 := ((stop s).wr (.fch t c) 0x014 (info + 2 ^ 19 + 2 ^ 20)).fltInfo t c cls lun true
        (s1.flag (.fch t c) 0x040 5).retireChan t c (if cls == IfaceClass.zq then some lun else none) (0x8F + ifaceNum cls))

end Sys2Proof.Machine
end

