-- ==== Sys2Proof/Machine/MediaRows.lean ====
section
/-! DEFINITION. Machine/MediaRows.lean: checkpoints, superblocks, collection and levelling as commands (chapters 4 and 5). -/

namespace Sys2Proof.Machine

open Sys2Proof

/-- CHECKPOINT (R104 to R106, R130, R386): overlay entries that are not held move into leaves and nodes, the root copy not written
last takes the table, CKPT is appended and the tail programmed; each page written is copied to the saddlebag (R96). A tile derives
a new seal key before a PGEN would pass its last value (R99). Group numbers come free with it (R103). No checkpoint starts while the
map is being rebuilt (R385). -/
def execCheckpoint (t : TileId) (s : State) : Out :=
  s.ends (if !s.hasTile t || s.cfg.loss || (s.tileAt t).ftl.recovered = 1 || (s.tileAt t).ftl.recovered = 2 then s
    else
      let before := (s.tileAt t).ftl
      let wraps := before.root.pgens.any fun p => p.2.2.2 == 2 ^ 20 - 1
      let s0 := ((if wraps then s.deriveSeal t else s).writeBatches t (s.batchable t)).placePages t
      let s1 := s0.onTile t fun x => { x with ftl := x.ftl.checkpoint s.pinNsx }
      let f := (s1.tileAt t).ftl
      let written := f.root.pgens.filter fun p => pgenOf before.root.pgens p.1 p.2.1 p.2.2.1 != p.2.2.2
      let bag (st : State) (p : Nat × Nat × Nat × Nat) : State := st.bagWrite t p.1 p.2.1 p.2.2.1
      (written.foldl bag s1).reportGroups)

/-- SUPERBLOCK_OPEN (R109, R111, R112, R124, R127, R130, R137). -/
def execSuperblockOpen (t : TileId) (st : WriteStream) (collected : Bool) (s : State) : Out :=
  s.ends (if !s.hasTile t || s.cfg.loss then s
    else if st = .alt && !s.cfg.body.namespaces.any (fun ns => ns.alt) then s
    else s.openSb t st collected)

/-- ROW_AGE_EXPIRY: a row that has been open for ROW_AGE is filled with filler (R115). -/
def execRowAgeExpiry (t : TileId) (st : WriteStream) (s : State) : Out :=
  s.ends (match (s.tileAt t).ftl.openOf st with
    | none => s
    | some b =>
      if s.now < b.rowSince + s.param 0x0015 0 10 * 1000000 then s
      else s.onTile t fun x => { x with ftl := { x.ftl with
        sbs := x.ftl.sbs.map fun y => if y.sbn == b.sbn then y.fillRow else y } })

/-- SUPERBLOCK_CLOSURE: a superblock that was open at a power cut is closed: the open row is filled and its parity programmed, and
CLOSE is appended; the pages after the row stay unused (R117). -/
def execSuperblockClosure (t : TileId) (st : WriteStream) (s : State) : Out :=
  s.ends (match (s.tileAt t).ftl.sbs.find? fun b => !b.closed && b.stream == st && (s.tileAt t).ftl.toClose.contains b.sbn with
    | none => s
    | some b => s.onTile t fun x =>
      let f := x.ftl.append s.pinNsx (.sblk 2 b.sbn 0 0 0 0 0)
      let close (y : Superblock) : Superblock :=
        if y.sbn == b.sbn then { y.fillRow with closed := true, closedAt := s.now, closeSeq := x.ftl.nextSeq } else y
      { x with ftl := { f with sbs := f.sbs.map close, toClose := f.toClose.erase b.sbn } })

/-- COLLECTION_START (R122, R127 to R129, R134): collection starts below RSV + GC_START and stops at RSV + GC_STOP; while it runs,
the next victim is taken and its valid grains are copied in ascending order. A superblock whose valid count is zero is released
at once, whatever FQ is. -/
def execCollectionStart (t : TileId) (s : State) : Out :=
  s.ends (if !s.hasTile t || s.cfg.loss then s
    else
      let f := (s.tileAt t).ftl
      let fq := s.fq t
      let empties := (f.sbs.filter fun b => b.closed && !b.released && !f.liveIn b.sbn && !f.keptIn b.sbn).map fun b => b.sbn
      let s1 := empties.foldl (fun (s : State) n => s.onTile t fun x => x.release s.pinNsx n) s
      let on := if f.rsv + s.gcStop ≤ fq then false else if fq < f.rsv + s.gcStart then true else f.collecting
      let s2 := s1.onTile t fun x => { x with ftl := { x.ftl with collecting := on } }
      let degraded := (s2.tileAt t).ftl.sbs.any fun b => b.degraded && b.closed && !b.released
      if !(on || degraded) || f.victim.isSome then s2
      else match (s2.tileAt t).ftl.pickVictim with
        | none => s2
        | some b =>
          (s2.onTile t fun x => { x with ftl := { x.ftl with victim := some b.sbn } }).collect t b.sbn)

/-- COLLECTION_VICTIM_RELEASE: a victim whose copies are all recorded is released, and a released superblock is erased once no read
uses it; quads whose erase fails are retired (R120, R131, R132). A superblock that holds pages of an index run follows the merge of the
run (R134), and one that holds a kept map page the next checkpoint (R106). -/
def execCollectionVictimRelease (t : TileId) (sbn : Nat) (eraseFails : List QuadId) (s : State) : Out :=
  s.ends (let f := (s.tileAt t).ftl
    match f.sbs.find? fun b => b.sbn == sbn with
    | none => s
    | some b =>
      if b.released then s.eraseSb t sbn eraseFails
      else if !b.closed || f.liveIn sbn || f.keptIn sbn then s
      else
        let s1 := s.onTile t fun x => { x with ftl := { x.ftl with
          victim := if x.ftl.victim = some sbn then none else x.ftl.victim
          levelling := if x.ftl.victim = some sbn then false else x.ftl.levelling } }
        (s1.onTile t fun x => x.release s.pinNsx sbn).eraseSb t sbn eraseFails)

/-- The erase counts of a tile's in-service quads: smallest and largest (R125). -/
def State.spread (s : State) (t : Nat) : Nat :=
  let x := s.tileAt t
  let counts := (x.ftl.wear.filter fun w => x.lunUp w.1.chan w.1.lun &&
    !(x.ftl.retQuads.any fun r => r.1 == w.1)).map fun w => w.2
  let hi := counts.foldl max 0
  let lo := if counts.length < s.qs t then 0 else counts.foldl min 65535
  hi - lo

/-- The mean member erase count of a superblock, over its width; compared by cross-multiplication. -/
def Ftl.wearOf (f : Ftl) (b : Superblock) : Nat := sumOf (b.members.map fun m => f.eraseCount m.1)

/-- STATIC_LEVELLING (R125): while the spread exceeds SWL_SPREAD, the closed superblock with the lowest mean erase count that was
closed at least 24 hours ago is relocated into COLD or ALT, one at a time. -/
def execStaticLevelling (t : TileId) (s : State) : Out :=
  s.ends (if !s.hasTile t || s.cfg.loss then s
    else
      let f := (s.tileAt t).ftl
      if s.spread t ≤ s.param 0x0010 0 300 || f.levelling || f.victim.isSome then s
      else
        let ok := f.sbs.filter fun b => b.closed && !b.released && b.stream != .mapMeta &&
          b.closedAt + 86400000000 ≤ s.now
        match firstBy (fun (a b : Superblock) => f.wearOf a * b.width < f.wearOf b * a.width) ok with
        | none => s
        | some b =>
          (s.onTile t fun x => { x with ftl := { x.ftl with levelling := true, victim := some b.sbn } }).collect t b.sbn)

end Sys2Proof.Machine
end

