-- ==== Sys2Proof/Machine/ReinOps.lean ====
section
/-! DEFINITION. Machine/ReinOps.lean: the operations of the rein link and of the mirror pair: what becomes of a change when the peer
goes, receiving frames, the link's training and its identity exchange, the secondary's side, histories (chapter 19). -/

namespace Sys2Proof.Machine

open Sys2Proof

/-! ### The peer unavailable and withdrawn changes (R402, Table 19.3) -/

/-- The staged fragments of a group that has not committed, discarded. -/
def State.discardGroup (s : State) (g : Nat) : State :=
  { s with tiles := s.tiles.map fun x =>
      { x with ftl := { x.ftl with staged := x.ftl.staged.filter fun y => !(y.group == g && !y.commit) } } }

/-- The command behind a withdrawn change ended with a status; NS_WRITE returns PEER (Table 13.7). -/
def State.failWho (s : State) (w : MirrWho) (st : NvmeStatus) : State :=
  match w with
  | .cmd k => if (s.track k).isSome then s.fail k st else s
  | .run k => s.stopRun k st none
  | .inv n => s.invPeerFail n
  | .resend => s

/-- The command behind a change that has committed goes on to its local conditions. -/
def State.releaseWho (s : State) (w : MirrWho) : State :=
  match w with
  | .cmd k => s.onTrack k fun t => { t with committed := true, mseq := none }
  | _ => s

/-- One forwarded change once the peer is unavailable (Table 19.3). -/
def State.goneOut (s : State) (o : MirrOut) : State :=
  let s1 : State := { s with mirror := { s.mirror with out := s.mirror.out.erase o } }
  if o.who = .resend then s1
  else if o.acked then (s1.backlogAdd o.nsid o.hi o.parts).releaseWho o.who
  else if ((s.mirrorDef o.nsid).map fun m => m.policy == 0).getD true then
    (s1.discardGroup o.group).failWho o.who .peerUnavailable
  else ((s1.commitGroup o.nsid o.group o.term o.lo o.hi).backlogAdd o.nsid o.hi o.parts).releaseWho o.who

/-- A withdrawn change whose VOIDACK will not come: its command ends. -/
def State.goneVoid (s : State) (v : MirrVoid) : State :=
  ({ s with mirror := { s.mirror with voids := s.mirror.voids.erase v } } : State).failWho v.who v.stat

/-- The waiting frames of mirrored changes without those of a namespace's changes from an MSEQ on. DATA before the next WHDR belong to a
change that is being sent, and go on (R409). -/
def keepRuns (nsid mseq : Nat) : Bool → List (Nat × Nat × List Byte) → List (Nat × Nat × List Byte)
  | _, [] => []
  | keep, e :: es =>
    if e.1 ≠ 1 then e :: keepRuns nsid mseq keep es
    else
      let k := if e.2.1 = 1 then leAt e.2.2 12 4 != nsid || decide (leAt e.2.2 0 8 < mseq) else keep
      if k then e :: keepRuns nsid mseq k es else keepRuns nsid mseq k es

/-- The frames of a namespace's withdrawn changes, from an MSEQ on, taken back before they are sent. -/
def State.recall (s : State) (nsid mseq : Nat) : State := s.onRein fun r => { r with queue := keepRuns nsid mseq true r.queue }

/-- The new term of a STRICT namespace that withdraws changes: it starts at the first of them (Table 19.3). -/
def State.goneTerm (s : State) (nsid : Nat) : State :=
  match (s.mirror.out.filter fun o => o.nsid == nsid && !o.acked).map fun o => o.lo with
  | [] => s
  | x :: xs =>
    let lo := xs.foldl min x
    if ((s.mirrorDef nsid).map fun m => m.policy == 0).getD true then
      ((s.newTerm nsid lo).recall nsid lo).onMirrNs nsid fun y => { y with sent := lo - 1 }
    else s

/-- After anything that may have made the peer unavailable: every change that waits for it ends as Table 19.3 states, and the states
of the namespaces are brought up to date. -/
def State.mirrSettle (s : State) : State :=
  let gone := ((s.mirror.out.map fun o => o.nsid) ++ s.mirror.voids.map fun v => v.nsid).eraseDups.filter s.peerAway
  let s1 := gone.foldl (fun (s : State) n => s.goneTerm n) s
  let s2 := (s1.mirror.out.filter fun o => gone.contains o.nsid).foldl (fun (s : State) o => s.goneOut o) s1
  let s3 := (s2.mirror.voids.filter fun v => gone.contains v.nsid).foldl (fun (s : State) v => s.goneVoid v) s2
  s3.mirrRefresh

/-- The changes after a withdrawn one forwarded again under the new term from its MSEQ on, each with its own frames (R402). -/
def State.renumber (s : State) (nsid term next : Nat) : List MirrOut → State
  | [] => s.onMirrNs nsid fun x => { x with sent := next - 1 }
  | o :: os =>
    let o1 : MirrOut := { o with term := term, lo := next, hi := next + (o.hi - o.lo) }
    let s1 : State := { s with mirror := { s.mirror with out := s.mirror.out.map fun y => if y == o then o1 else y } }
    let s2 := match o.who with
      | .cmd k => s1.onTrack k fun t => { t with mseq := some o1.hi }
      | _ => s1
    (s2.sendChange o1).renumber nsid term (o1.hi + 1) os

/-- VOID: a change withdrawn before its commit point. It starts a new term at its MSEQ; its staged fragments go; later changes take
the MSEQs from there on; the command ends at VOIDACK (R402). -/
def State.doVoid (s : State) (o : MirrOut) (st : NvmeStatus) : State :=
  let s1 := (s.newTerm o.nsid o.lo).discardGroup o.group
  let term := s1.mirrTerm o.nsid
  let s2 : State := { s1 with mirror := { s1.mirror with
    out := s1.mirror.out.erase o
    voids := s1.mirror.voids ++ [⟨o.nsid, o.lo, o.who, st⟩] } }
  let s3 := (s2.recall o.nsid o.lo).reinSend 0 5 (leBytes 4 o.nsid ++ zeros 4 ++ leBytes 4 term ++ zeros 4 ++ leBytes 8 o.lo)
  s3.renumber o.nsid term o.lo (s3.mirror.out.filter fun x => x.nsid == o.nsid && o.lo < x.lo)

/-- The forwarded change that holds an MSEQ and is before its commit point. -/
def State.outAt (s : State) (nsid mseq : Nat) : Option MirrOut :=
  s.mirror.out.find? fun o => o.nsid == nsid && o.lo ≤ mseq && mseq ≤ o.hi && !o.acked

/-- Whether a VOID at or below an MSEQ awaits its VOIDACK: what the peer says of that MSEQ until then is of the withdrawn change
(R402). -/
def State.voidAwaits (s : State) (nsid mseq : Nat) : Bool := s.mirror.voids.any fun v => v.nsid == nsid && v.mseq ≤ mseq

/-- The forwarded change that a REJECT names. -/
def State.rejectAt (s : State) (nsid mseq : Nat) : Option MirrOut := if s.voidAwaits nsid mseq then none else s.outAt nsid mseq

/-! ### The pairing digest and the identity exchange (R396, R398, R407) -/

/-- VERSION of the running image (Table 16.1). -/
def State.imageVersion (s : State) : Nat := leAt s.ident.image 12 4

/-- PREF of the binding (Table 19.1). -/
def State.pref (s : State) : Nat := (s.cfg.body.pair.map fun p => leAt p.blob 16 1).getD 0

/-- PD over the namespaces that are mirrored (R398). -/
def State.pairDigest (s : State) : List Byte :=
  let pepoch := (s.cfg.body.pair.map fun p => slice 20 4 p.blob).getD (zeros 4)
  let one (m : MirrorDef) : List Byte := match s.nsOf m.nsid with
    | none => []
    | some ns => leBytes 4 ns.nsid ++ leBytes 8 ns.blocks ++ leBytes 1 ns.lbaf ++ leBytes 1 (b2n ns.grain16) ++
        leBytes 1 (b2n ns.alt) ++ leBytes 1 m.policy ++ leBytes 8 ((s.nsLayout ns.nsid).map layoutId |>.getD 0) ++
        slice 4 12 ((s.indexDecl ns.nsid).getD [])
  let ms := sortBy (fun (a b : MirrorDef) => a.nsid < b.nsid) s.cfg.body.mirrors
  shake256 (leBytes 1 (s.imageVersion / 2 ^ 24) ++ leBytes 1 (s.imageVersion / 2 ^ 16) ++ leBytes 2 s.fuses.part.code ++ pepoch ++
    ms.flatMap one) 32

/-- A signature by the unit's own key; none while the key is cleared or was never rebuilt (R347). -/
def State.sign (s : State) (ctx msg : List Byte) : Option (List Byte × State) :=
  if s.ident.signing then
    some (fit 3309 (Config.mldsaSign s.fuses.idSeed s.free ctx msg), { s with free := s.free + 1 })
  else none

/-- The head of a PAIR payload: KIND and OFFSET (R407). -/
def pairHead (kind offset : Nat) : List Byte := leBytes 1 kind ++ zeros 3 ++ leBytes 4 offset

/-- HELLO with a fresh nonce (R407). -/
def State.sendHello (s : State) : State :=
  let d := s.drawBytes 32
  (d.2.onRein fun r => { r with nonce := d.1 }).reinSend 0 7
    (pairHead 1 0 ++ d.1 ++ fit 16 s.fuses.uid ++ s.pairDigest ++ leBytes 1 s.pref ++ zeros 7)

/-- CHAIN: the unit's certificate chain in frames of at most 8,184 bytes (R407). -/
def State.sendChain (s : State) : State :=
  (List.range (ceilDiv s.fuses.chain.length 8184)).foldl (fun (s : State) i =>
    s.reinSend 0 7 (pairHead 2 (8184 * i) ++ (s.fuses.chain.drop (8184 * i)).take 8184)) s

/-- PROOF over both nonces, the unit's own UID and the peer's UID, once the peer's HELLO has come (R407). -/
def State.sendProof (s : State) : State :=
  match s.mirror.rein.peer with
  | none => s
  | some p => match s.sign (ascii "LTRREIN") (s.mirror.rein.nonce ++ p.1 ++ fit 16 s.fuses.uid ++ p.2.1) with
    | none => s
    | some (g, s1) => (s1.onRein fun r => { r with proved := true }).reinSend 0 7 (pairHead 3 0 ++ g)

/-- LINK of STAT set, with LINKCHG when it changes (Table 19.10). -/
def State.setLink (s : State) (v : Nat) : State :=
  if s.link = v then s else (s.wrField .rein 0x004 2 0 v).flag .rein 0x020 0

/-- STATE: for each mirrored namespace its MSEQ and term history (R412). The layout is the model's: a count, then NSID (4), MSEQ (8),
terms (1), role (1), flags (1), — (1), and for each term TERM (4), first MSEQ (8) and UID (16). `flags` names a namespace that
SPLIT_RESOLVE decides: 1 this unit's copy is kept, 2 the peer's. A primary that still drains changes counts as primary (R415). -/
def State.sendState (s : State) (flagOf : Nat → Nat) : State :=
  let one (m : MirrorDef) : List Byte :=
    let h := s.mirrHist m.nsid
    let prim := m.primary || s.mirror.out.any fun o => o.nsid == m.nsid
    leBytes 4 m.nsid ++ leBytes 8 h.mseq ++ leBytes 1 h.terms.length ++ leBytes 1 (b2n !prim) ++ leBytes 1 (flagOf m.nsid) ++ zeros 1 ++
      h.terms.flatMap fun t => leBytes 4 t.term ++ leBytes 8 t.first ++ fit 16 t.uid
  s.reinSend 0 8 (leBytes 4 s.cfg.body.mirrors.length ++ s.cfg.body.mirrors.flatMap one)

/-- The identity or the digest of the peer did not check: the link stays up unpaired, and the event is logged (R407). -/
def State.pairFail (s : State) : State :=
  (((s.onRein fun r => { r with failed := true }).flag .rein 0x020 4).setLink 2).log 1 0 3 8 0 0

/-- Whether the peer's digest equals this unit's (PDMATCH). -/
def State.pdMatch (s : State) : Bool := (s.mirror.rein.peer.map fun p => p.2.2.1 == s.pairDigest).getD false

/-- The comparison at every HELLO, once the peer has proved itself: paired when the digests are equal; otherwise the link holds at 2,
with vendor event 03h and a log entry (R398). -/
def State.pairCheck (s : State) : State :=
  let r := s.mirror.rein
  if !r.proofOk || r.failed || (s.link != 2 && s.link != 3) then s
  else if s.pdMatch then ((s.setLink 3).sendState fun _ => 0).mirrSettle
  else (((s.setLink 2).raise 7 3 0xC3).log 0 0 5 8 0 0).mirrSettle

/-- A new HELLO after a change of an input of the digest: `old` is PD before the change (R398). -/
def State.pairSync (s : State) (old : List Byte) : State :=
  if (s.link = 2 ∨ s.link = 3) ∧ s.pairDigest ≠ old then s.sendHello.pairCheck else s.mirrSettle

/-! ### Link-up and retraining (R404, R407) -/

/-- STATE of LSTAT of a lane. -/
def State.laneState (s : State) (i : Nat) : Nat := s.rdField .rein (0x104 + 0x20 * i) 1 0

/-- The active lanes among some. -/
def State.lanesUp (s : State) (is : List Nat) : Nat := (is.filter fun i => s.laneState i == 2).length

/-- Every lane that is not retired put into training (R404). -/
def State.trainLanes (s : State) : State :=
  (List.range 10).foldl (fun (s : State) i =>
    s.wr .rein (0x104 + 0x20 * i) (if s.cfg.body.lanes.contains i then 3 else 1)) s

/-- Unacknowledged frames from a sequence number on sent again with RETX (R407). -/
def State.reinResend (s : State) (start : Nat) : State :=
  let fs := s.mirror.rein.unacked.filter fun f => (f.seq + 2 ^ 32 - start) % 2 ^ 32 < 2 ^ 31
  (fs.foldl (fun (s : State) f => (s.reinEmit f.type 1 f.seq f.payload).count .rein 0x048 1) s).onRein fun r =>
    { r with retx := (fs.head?.map fun f => f.seq).orElse fun _ => r.retx }

/-- The end of training, once no lane is in it: up with two data lanes and the clock lane in each direction, else down. A fresh
link-up starts unpaired with HELLO and CHAIN at 7 Gb/s; a retrain goes on where the link was, at the current rate, and sends
unacknowledged frames again. EPOCH rises at both (R404, R407, Table 19.5). -/
def State.trainEnd (s : State) : State :=
  if s.link != 1 || (List.range 10).any (fun i => s.laneState i == 1) then s
  else
    let tx := s.lanesUp [0, 1, 2, 3]
    let rx := s.lanesUp [5, 6, 7, 8]
    let s1 := (s.wrField .rein 0x004 11 8 tx).wrField .rein 0x004 15 12 rx
    if tx < 2 || rx < 2 || s.laneState 4 != 2 || s.laneState 9 != 2 then
      ((s1.onRein fun r => { r with retrain := none }).setLink 4).mirrSettle
    else
      let s2 := s1.wr .rein 0x00C ((s.rd .rein 0x00C + 1) % 65536)
      match s.mirror.rein.retrain with
      | some l =>
        let s3 := (s2.onRein fun r => { r with retrain := none, retx := none, rxFail := none, step := none, relock := none }).setLink l
        match s3.mirror.rein.unacked.head? with
        | some f => (s3.reinResend f.seq).reinPump.mirrSettle
        | none => s3.reinPump.mirrSettle
      | none =>
        let s3 := (((s2.wr .rein 0x010 0).wr .rein 0x014 0).wr .rein 0x018 0).wrField .rein 0x004 6 3 0
        let s4 := ((s3.wrField .rein 0x004 18 16 0).onRein fun r => { wire := r.wire }).setLink 2
        s4.sendHello.sendChain.mirrSettle

/-- Both directions retrain at the current rate (R407). -/
def State.reinRetrain (s : State) : State :=
  if s.link ≠ 2 ∧ s.link ≠ 3 then s
  else
    let l := s.link
    let s1 := s.onRein fun r => { r with retrain := some l, retx := none, rxFail := none, cur := none }
    ((((s1.setLink 1).trainLanes).count .rein 0x058 1).flag .rein 0x020 1).mirrRefresh

/-- A frame failed at the receiver: NAK for the expected one; a second failure of it retrains the link (R407). -/
def State.reinFail (s : State) : State :=
  let e := s.rd .rein 0x018
  if s.mirror.rein.rxFail = some e then s.reinRetrain
  else (s.onRein fun r => { r with rxFail := some e }).reinNak

/-- The sender asked to send again from a frame: a second time for one frame retrains the link (R407). -/
def State.reinAgain (s : State) (start : Nat) : State :=
  if !(s.mirror.rein.unacked.any fun f => f.seq == start) then s
  else if s.mirror.rein.retx = some start then s.reinRetrain
  else s.reinResend start

/-! ### Receiving (R406 to R410) -/

/-- The ACK of a frame: acknowledged frames leave; a RATE frame of this transmitter's step that is acknowledged switches its lanes
(R405, R407). -/
def State.reinAck (s : State) (ack : Nat) : State :=
  let u := s.mirror.rein.unacked
  let k := (ack + 2 ^ 32 - s.rd .rein 0x014) % 2 ^ 32
  if k = 0 ∨ u.length < k then s
  else
    let goneF := u.take k
    let s1 := (s.wr .rein 0x014 ack).onRein fun r => { r with
      unacked := u.drop k
      retx := if r.retx.any fun x => goneF.any fun f => f.seq == x then none else r.retx }
    match s1.mirror.rein.step with
    | some st =>
      if st.phase = 0 && goneF.any (fun f => f.type == 9 && leAt f.payload 1 1 == 0) then
        (s1.wrField .rein 0x004 4 3 st.rate).onRein fun r => { r with step := some { st with phase := 1 } }
      else s1.reinPump
    | none => s1.reinPump

/-- What every frame of the current epoch tells: the peer is there, HOLD, ACK. -/
def State.reinHear (s : State) (f : Frame) : State :=
  ((s.onRein fun r => { r with silent := false }).wrField .rein 0x004 16 16 (b2n (bitN f.flags.toNat 2))).reinAck f.ack.toNat

/-- REJECT of a pending change: NSID, REASON, MSEQ. The values of REASON are not given (a free value). -/
def State.sendReject (s : State) (nsid mseq : Nat) : State :=
  let d := s.drawBytes 4
  d.2.reinSend 0 6 (leBytes 4 nsid ++ d.1 ++ leBytes 8 mseq)

/-- A pending change that will not be staged: REJECT, and the primary's VOID is awaited. -/
def State.rejectPend (s : State) (p : MirrPend) : State :=
  let s1 : State := { s with mirror := { s.mirror with
    pend := s.mirror.pend.map fun y => if y == p then { y with reject := true, staged := false, data := [] } else y } }
  s1.sendReject p.nsid p.mseq

/-- The change that DATA belong to ends: when its DATA are short of DBYTES it is not staged (R408). -/
def State.endRun (s : State) : State :=
  match s.mirror.rein.cur with
  | none => s
  | some (n, m) =>
    let s1 := s.onRein fun r => { r with cur := none }
    match s1.mirror.pend.find? fun p => p.nsid == n && p.mseq == m && !p.staged && !p.reject with
    | some p => s1.rejectPend p
    | none => s1

/-- A sequenced frame taken by the receiver: its epoch, its reserved flags, its place in the sequence, then its effect (Table 19.7).
A frame of another type than DATA ends the DATA of a change (R408). -/
def State.reinTake (s : State) (f : Frame) (isData : Bool) (act : State → State) : State :=
  if (s.link ≠ 2 ∧ s.link ≠ 3) ∨ f.epoch.toNat ≠ s.rd .rein 0x00C then s
  else if 8 ≤ f.flags.toNat then s.reinFail
  else
    let s1 := s.reinHear f
    let e := s.rd .rein 0x018
    if f.seq.toNat = e then
      let s2 := ((s1.wr .rein 0x018 ((e + 1) % 2 ^ 32)).count .rein 0x044 1).onRein fun r => { r with rxFail := none }
      (act (if isData then s2 else s2.endRun)).mirrSettle
    else if (e + 2 ^ 32 - f.seq.toNat) % 2 ^ 32 < 2 ^ 31 then s1.reinPing.mirrSettle
    else if s.mirror.rein.rxFail = some e ∧ !bitN f.flags.toNat 0 then s1.reinNak.mirrSettle
    else s1.reinFail.mirrSettle

/-- A frame without a sequence number: NAK or PING. -/
def State.reinTakeUnseq (s : State) (f : Frame) (act : State → State) : State :=
  if (s.link ≠ 2 ∧ s.link ≠ 3) ∨ f.epoch.toNat ≠ s.rd .rein 0x00C then s
  else if 8 ≤ f.flags.toNat then s.reinFail
  else (act ((s.reinHear f).count .rein 0x044 1)).mirrSettle

/-! ### The secondary (R401, R408) -/

/-- The stored grains of a resend: each with its header and padding, and its protection information after it. None when a header
fails the checks of R164 or a stream is not valid. -/
def resendGrains (ns : Namespace) : Nat → List Byte → Option (List (List Byte))
  | 0, b => if b = [] then some [] else none
  | n + 1, b =>
    if b = [] then some []
    else
      let clen := leAt b 8 4
      let u := grainUnits clen
      let pi := ns.perGrain * ns.mdSize
      if b.length < u * 256 + pi then none
      else if !grainChecks b (leAt b 0 1 == 1) u ns.grain then none
      else match loadGrain (b.take (u * 256)), resendGrains ns n (b.drop (u * 256 + pi)) with
        | some d, some rest => some ((d ++ slice (u * 256) pi b) :: rest)
        | _, _ => none

/-- The grain changes that a pending change makes on this unit; none when a resent grain is not valid. The data of OP 1 are followed
by their metadata. -/
def State.pendStage (s : State) (ns : Namespace) (p : MirrPend) (g : Nat) : Option (List (Nat × Staged)) :=
  let first := p.slba * ns.blockSize
  let len := p.nlb * ns.blockSize
  if p.op = 4 then
    (resendGrains ns 513 p.data).map fun ds => ds.zipIdx.map fun d =>
      let pl := grainPlace s.n ns.nsid (first / ns.grain + d.2)
      (pl.1, (⟨⟨ns.nsx, pl.2⟩, .data d.1, none, g, s.cinch.cur.toNat, false, none⟩ : Staged))
  else
    let dp : DataPtr := ⟨true, 0, 0, false, false⟩
    let sqe : Sqe := { opc := if p.op = 1 then 0x01 else 0x08, fuse := 0, nsid := BitVec.ofNat 32 p.nsid, cdw2 := 0, cdw3 := 0, mptr := 0,
                       cdw10 := BitVec.ofNat 32 p.slba, cdw11 := BitVec.ofNat 32 (p.slba / 2 ^ 32),
                       cdw12 := if p.op = 3 then 0x02000000 else 0, cdw13 := 0, cdw14 := 0, cdw15 := 0, dptr := dp,
                       data := p.data.take len, md := p.data.drop len, cpb := [] }
    let t : Track := { key := ⟨⟨0, 0⟩, 0, 0⟩, sqe := sqe, epoch := s.cinch.cur }
    let frs := fragsOf s.n ns first (p.nlb + 2) len
    some (frs.flatMap fun f => (grainsOf ns f).filterMap fun gr => (s.stageOf ns t first f gr).map fun kd =>
      let pl := grainPlace s.n ns.nsid gr
      (pl.1, (⟨⟨ns.nsx, pl.2⟩, kd, none, g, s.cinch.cur.toNat, false, none⟩ : Staged)))

/-- Whether every tile that a pending change touches takes it (R136). -/
def State.pendFits (s : State) (nsid : Nat) (gs : List (Nat × Staged)) : Bool :=
  (gs.map fun p => p.1).eraseDups.all fun t =>
    let mine := gs.filter fun p => p.1 == t
    let units := sumOf (mine.map fun p => p.2.units)
    units = 0 || s.judge t nsid units (mine.map fun p => p.2.key)

/-- MACK: NSID, FLAGS, MSEQ (Table 19.6). -/
def State.sendMack (s : State) (nsid flags mseq : Nat) : State :=
  s.reinSend 0 3 (leBytes 4 nsid ++ leBytes 4 flags ++ leBytes 8 mseq)

/-- All DATA of a pending change have come: staged and acknowledged, or rejected. A change behind a rejected one waits for the VOID,
since MACK is cumulative. -/
def State.stagePend (s : State) (p : MirrPend) : State :=
  match s.nsOf p.nsid with
  | none => s.rejectPend p
  | some ns =>
    match s.pendStage ns p 0 with
    | none => s.rejectPend p
    | some gs =>
      if ns.blocks < p.slba + p.nlb || !s.pendFits p.nsid gs then s.rejectPend p
      else if s.mirror.pend.any (fun y => y.nsid == p.nsid && y.reject) then s
      else
        let s1 : State := { s with mirror := { s.mirror with
          pend := s.mirror.pend.map fun y => if y == p then { y with staged := true } else y } }
        s1.sendMack p.nsid 1 p.mseq

/-- A staged pending change applied: its grains staged under a group and committed, with the term it belongs to and its MIRR record
(R401, R411). -/
def State.applyPend (s : State) (p : MirrPend) : State :=
  match s.nsOf p.nsid, s.freeGroup with
  | some ns, some g =>
    let drop : State := { s with mirror := { s.mirror with pend := s.mirror.pend.erase p } }
    let s1 := if s.mirrTerm p.nsid = p.term then drop
      else drop.mirrRecord 2 0 p.nsid p.term p.mseq ((s.cfg.body.pair.map fun x => x.peer).getD [])
    let gs := (s1.pendStage ns p g).getD []
    let s2 := gs.foldl (fun (s : State) x => s.onTileAt x.1 fun t => { t with ftl := { t.ftl with staged := t.ftl.staged ++ [x.2] } }) s1
    let s3 := s2.commitGroup p.nsid g p.term p.mseq p.mseq
    if p.fua then s.tileIds.foldl (fun (s : State) t => s.pushOut t fun f => f.staged.any fun y => y.group == g) s3 else s3
  | _, _ => s

/-- The staged pending changes of a namespace up to an MSEQ, in MSEQ order. -/
def State.pendsUpTo (s : State) (nsid mseq : Nat) : List MirrPend :=
  sortBy (fun (a b : MirrPend) => a.mseq < b.mseq) (s.mirror.pend.filter fun p => p.nsid == nsid && p.staged && p.mseq ≤ mseq)

/-- Every staged pending change up to an MSEQ applied. -/
def State.applyPends (s : State) (nsid mseq : Nat) : State := (s.pendsUpTo nsid mseq).foldl (fun (s : State) p => s.applyPend p) s

/-- Pending changes of a namespace from an MSEQ on discarded. -/
def State.dropPends (s : State) (nsid mseq : Nat) : State :=
  { s with mirror := { s.mirror with pend := s.mirror.pend.filter fun p => !(p.nsid == nsid && mseq ≤ p.mseq) } }

/-- MACK DURABLE for a secondary namespace, as far as its applied changes are in flash (R401, R413). -/
def State.mirrDurable (s : State) (nsid : Nat) : State :=
  let x := s.mirrNs nsid
  let late (g : Nat) : Bool := s.tiles.toList.any fun t => t.ftl.staged.any fun y => y.group == g && g != 0
  let done := x.applied.takeWhile fun a => !late a.2
  match done.getLast? with
  | none => s
  | some a =>
    let s1 := (s.tileIds.foldl (fun (s : State) t => s.pushOut t fun _ => false) s).onMirrNs nsid fun y =>
      { y with applied := y.applied.drop done.length, durSent := a.1 }
    if s.link = 3 then s1.sendMack nsid 2 a.1 else s1

/-! ### Histories (R411, R412, R414) -/

/-- Whether a history `b` at `bm` is behind a history `a` at `am` (R412). -/
def histBehind (b : List MirrTerm) (bm : Nat) (a : List MirrTerm) (am : Nat) : Bool :=
  match b.getLast? with
  | none => true
  | some t => match a.dropWhile fun x => x != t with
    | [] => false
    | [_] => bm ≤ am
    | _ :: n :: _ => bm < n.first

/-- Whether this unit takes the read-only side of a split: the lower PREF, or the lower UID (R414). -/
def State.lowerSide (s : State) : Bool :=
  match s.mirror.rein.peer with
  | none => false
  | some p => s.pref < p.2.2.2 || (s.pref == p.2.2.2 && beNat (fit 16 s.fuses.uid) < beNat p.2.1)

/-- The role of this unit for a namespace. -/
def State.setRole (s : State) (nsid : Nat) (primary : Bool) : State :=
  { s with cfg := { s.cfg with body := { s.cfg.body with
      mirrors := s.cfg.body.mirrors.map fun m => if m.nsid == nsid then { m with primary := primary } else m } } }

/-- The history of a namespace dropped: the unit is behind from MSEQ 0 (R412, R414). -/
def State.dropHist (s : State) (nsid : Nat) : State :=
  let s1 := s.onTileAt 0 fun x => { x with ftl := { x.ftl with mirr := x.ftl.mirr.filter fun h => h.nsid != nsid } }
  s1.onMirrNs nsid fun x => { x with sent := 0, applied := [], durSent := 0 }

/-- The peer's STATE for one namespace: its pending changes resolved, the histories compared, the split or the catch-up set up
(R412 to R415). -/
def State.compareHist (s : State) (nsid mseq : Nat) (prim : Bool) (flag : Nat) (terms : List MirrTerm) : State :=
  match s.mirrorDef nsid with
  | none => s
  | some m =>
    let s0 := s.onMirrNs nsid fun x => { x with peerPrim := some prim, peerMseq := mseq, peerTerms := terms }
    if flag = 1 then
      (((s0.dropPends nsid 0).dropHist nsid).setRole nsid false).onMirrNs nsid fun x => { x with split := 0, full := false, backlog := [] }
    else if flag = 2 then
      (s0.setRole nsid true).onMirrNs nsid fun x => { x with split := 0, full := true, backlog := [], sent := (s0.mirrHist nsid).mseq }
    else
      let ok (p : MirrPend) : Bool := match terms.dropWhile fun t => t.term != p.term with
        | [] => false
        | [_] => p.mseq ≤ mseq
        | _ :: n :: _ => p.mseq < n.first
      let s1 := if m.primary || !prim then s0
        else
          let keep := sortBy (fun (a b : MirrPend) => a.mseq < b.mseq) (s0.mirror.pend.filter fun p => p.nsid == nsid && p.staged && ok p)
          (keep.foldl (fun (s : State) p => s.applyPend p) s0).dropPends nsid 0
      let h := s1.mirrHist nsid
      let meB := histBehind h.terms h.mseq terms mseq
      let peerB := histBehind terms mseq h.terms h.mseq
      if !meB && !peerB then
        let side := if s1.lowerSide then 2 else 1
        s1.onMirrNs nsid fun x => { x with split := side }
      else
        let s2 := if m.primary && prim && meB && !peerB then s1.setRole nsid false else s1
        s2.onMirrNs nsid fun x => { x with
          split := 0
          full := x.full || (m.primary && terms == [] && h.mseq != 0)
          sent := if s.mirror.out.any fun o => o.nsid == nsid then x.sent else h.mseq }

/-- The entries of a STATE payload. -/
def stateEntries : Nat → List Byte → List (Nat × Nat × Bool × Nat × List MirrTerm)
  | 0, _ => []
  | n + 1, b =>
    let k := leAt b 12 1
    let ts := (List.range k).map fun i => (⟨leAt b (16 + 28 * i) 4, leAt b (20 + 28 * i) 8, slice (28 + 28 * i) 16 b⟩ : MirrTerm)
    (leAt b 0 4, leAt b 4 8, leAt b 13 1 == 0, leAt b 14 1, ts) :: stateEntries n (b.drop (16 + 28 * k))

end Sys2Proof.Machine
end

