-- ==== Sys2Proof/Machine/Power.lean ====
section
/-! DEFINITION. Machine/Power.lean: power domains, the governor, and the power-loss sequence (chapter 17). -/

namespace Sys2Proof.Machine

open Sys2Proof

/-! ### Domains (R359, R360) -/

/-- Whether a domain of PD_CTRL is on the part: CA, CB, PC and EN of each tile, HOST of T0 and T1, REIN of T1 (Table 17.1). -/
def State.hasDomain (s : State) (t d : Nat) : Bool :=
  s.hasTile t && (d < 4 || (d == 4 && t < 2) || (d == 5 && t == 1))

/-- Whether a domain may switch on: HOSTB never on the LTR-2032, REIN never while PAIR_EN was sampled 0 (R359, R395). -/
def State.domainMay (s : State) (t d : Nat) : Bool :=
  s.hasDomain t d && !(d == 4 && t == 1 && s.fuses.part == .ltr2032) && !(d == 5 && !s.boot.pairEn)

/-- The register blocks that a domain gates (R359). -/
def domainBlocks (t d : Nat) : List Block :=
  match d with
  | 0 | 1 => ((List.range 8).map fun c => Block.fch t (8 * d + c)) ++ [.sft t d, .xts t d]
  | 2 => [.core t]
  | 3 => [.cmp t, .idx t, .cqe t, .dge t]
  | 4 => [.host t]
  | _ => [.rein]

/-- The invocations of a tile: on a thread, parked, or waiting for one. -/
def State.sachetWork (s : State) (t : Nat) : Bool :=
  s.cores.threads.any (fun x => x.id.tile.val == t && x.id.core.val < 8 && x.job.isSome) ||
    s.cores.parked.any (fun p => p.1 == t) || s.cores.queue.any fun w => w.tile == t

/-- Whether the queues of an engine with four queues hold no request. -/
def State.queuesEmpty (s : State) (b : Block) : Bool := (List.range 4).all fun q => !s.queueReq b q

/-- PD_DRAIN: no descriptor, job, thread or transfer of the domain is outstanding (R360). An open hold counts as outstanding. -/
def State.pdDrained (s : State) (t d : Nat) : Bool :=
  let x := s.tileAt t
  match d with
  | 0 | 1 =>
    let e := if d = 0 then x.siftA else x.siftB
    ((List.range 8).all fun c => s.fchDrained t (8 * d + c)) && e.running.isNone && (s.siftRing t d).count == 0
  | 2 => !s.sachetWork t && s.cores.threads.all fun h => h.id.tile.val != t || 8 ≤ h.id.core.val || !h.running || h.waiting
  | 3 => x.comp.running.isNone && s.queuesEmpty (.cmp t) && x.idx.running.isNone && s.queuesEmpty (.idx t) &&
    x.cqe.running.isNone && s.queuesEmpty (.cqe t) && x.cqe.holds.isEmpty && !s.dgOpen t
  | 4 => s.host.tracks.all fun k => k.key.fn.port.val != t
  | _ => s.mirror.out.isEmpty && s.mirror.voids.isEmpty && s.mirror.rein.unacked.isEmpty && s.mirror.rein.queue.isEmpty

/-- PD_DRAIN as it reads. -/
def State.pdDrain (s : State) (t : Nat) : Nat :=
  sumOf ((List.range 6).map fun d => if !s.hasDomain t d || s.pdDrained t d then 2 ^ d else 0)

/-- PD_STAT and CK_RUN brought up to date. -/
def State.pdStat (s : State) (t : Nat) : State :=
  let on := sumOf ((List.range 6).map fun d => if s.power.on.contains (t, d) then 2 ^ d else 0)
  let ch := sumOf ((List.range 6).map fun d => if s.power.changing.contains (t, d) then 2 ^ d else 0)
  let host := b2n (s.power.on.contains (t, 4))
  let run := on % 16 + 0x30 + (if t = 0 then host * 64 + 512 else host * 128) + (if s.power.on.contains (t, 5) then 256 else 0)
  (s.wr (.pwr t) 0x004 (on + ch * 256)).wr (.pwr t) 0x00C run

/-- The registers of a block back at their reset values. The staged and effective values of RWS registers stay (R360). -/
def State.resetBlocks (s : State) (bs : List Block) : State :=
  let hit (a : Nat) : Bool := match blockAt s.n a with
    | some (b, off) => bs.contains b && !((b.desc off).any fun d => d.acc == .rws)
    | none => false
  { s with regs := { s.regs with cells := s.regs.cells.filter fun c => !hit c.1 } }

/-- What an engine keeps when its domain switches off: its retirement (R166, R360), and what lies in SRAM. -/
def Tile.dropDomain (x : Tile) (d : Nat) : Tile :=
  match d with
  | 0 => { x with siftA := { retired := x.siftA.retired }, xtsA := { retired := x.xtsA.retired } }
  | 1 => { x with siftB := { retired := x.siftB.retired }, xtsB := { retired := x.xtsB.retired } }
  | 3 => { x with
      comp := { retired := x.comp.retired, saves := x.comp.saves }
      idx := { x.idx with running := none, held := none, ptr := 0 }
      cqe := { retired := x.cqe.retired }
      dge := { retired := x.dge.retired, saves := x.dge.saves } }
  | _ => x

/-- A domain switched off: its state is lost, its blocks read zero, its islands count as having adopted (R47, R360). -/
def State.domainOff (s : State) (t d : Nat) : State :=
  let s1 := (s.resetBlocks (domainBlocks t d)).onTileAt t fun x => x.dropDomain d
  let s2 : State := { s1 with power := { s1.power with on := s1.power.on.filter fun y => y != (t, d)
                                                       changing := s1.power.changing.filter fun y => y != (t, d) } }
  let s3 : State := if d = 2 then
      { s2 with cores := { s2.cores with
          threads := s2.cores.threads.filter fun h => h.id.tile.val != t || 8 ≤ h.id.core.val
          issuePtr := s2.cores.issuePtr.filter fun p => p.1 / 8 != t } }
    else if d = 4 then
      { s2 with host := { s2.host with
          ctrls := s2.host.ctrls.map fun c => if c.fn.port.val = t then { fn := c.fn, online := c.online } else c
          fetchPtr := if t = 0 then (0, s2.host.fetchPtr.2) else (s2.host.fetchPtr.1, 0) } }
    else if d = 5 then (s2.onRein fun r => { wire := r.wire }).mirrSettle
    else s2
  let i := if d < 4 then 6 * t + d else if d = 4 then 48 + t else 50
  (((s3.wrField (.pwr t) 0x000 d d 0).pdStat t).flag (.pwr t) 0x038 1).adopt i

/-- PD_CTRL: a set bit requests its domain on; a clear is taken only while PD_DRAIN shows the domain drained, and otherwise ignored
with BUSYWR (R360). -/
def execPdCtrl (t : TileId) (v : Word) (s : State) : Out :=
  s.ends (
    let a := regAddr (.pwr t) 0x000
    if !s.hasTile t then s.decErr a 0
    else (List.range 6).foldl (fun (s : State) d =>
      if !s.hasDomain t d then s
      else
        let old := bitN (s.rd (.pwr t) 0x000) d
        if bitN v.toNat d == old then s
        else if !old then
          let s1 := s.wrField (.pwr t) 0x000 d d 1
          if s.domainMay t d then
            ({ s1 with power := { s1.power with changing := s1.power.changing ++ [(t.val, d)] } } : State).pdStat t
          else s1
        else if s.power.changing.contains (t.val, d) || s.pdDrained t d then s.domainOff t d
        else s.decErr a 2) s)

/-! ### The governor (R22, R364 to R366) -/

/-- The governor's controls written to the registers that show them (Tables 17.4, 17.7 and 17.8). -/
def State.govSync (s : State) (step : Option Nat) (above : Bool) : State :=
  let p := s.power
  let floor := p.ratecap == 1 && p.govcap == 4 && p.pcDiv == 1 && p.govact == 1
  let stp := step.getD (s.rdField .glb 0x204 22 21)
  let s1 := s.wr .glb 0x204 (p.ratecap + p.govcap * 2 ^ 8 + p.pcDiv * 2 ^ 12 + p.govact * 2 ^ 16 + stp * 2 ^ 21 +
    b2n floor * 2 ^ 23 + b2n above * 2 ^ 24)
  s1.tileIds.foldl (fun (s : State) t =>
    let s1 := (List.range 16).foldl (fun (s : State) c => s.wrField (.fch t c) 0x004 20 16 p.govact) s
    (((s1.wr (.sft t 0) 0x008 p.ratecap).wr (.sft t 1) 0x008 p.ratecap).wr (.cmp t) 0x008 p.govcap).wr (.pwr t) 0x010 p.pcDiv) s1

/-- One notch shed from the first step that is not at its floor (R365, Table 17.4): the step, 0 to 3. -/
def Power.shed (p : Power) : Option (Nat × Power) :=
  if 1 < p.ratecap then some (0, { p with ratecap := p.ratecap - 1 })
  else if 4 < p.govcap then some (1, { p with govcap := p.govcap - 1 })
  else if 1 < p.pcDiv then some (2, { p with pcDiv := p.pcDiv - 1 })
  else if 1 < p.govact then some (3, { p with govact := p.govact - 1 })
  else none

/-- One notch restored, in the reverse order. -/
def Power.restore (p : Power) : Option (Nat × Power) :=
  if p.govact < 16 then some (3, { p with govact := p.govact + 1 })
  else if p.pcDiv < 8 then some (2, { p with pcDiv := p.pcDiv + 1 })
  else if p.govcap < 12 then some (1, { p with govcap := p.govcap + 1 })
  else if p.ratecap < 16 then some (0, { p with ratecap := p.ratecap + 1 })
  else none

/-- The cap in force in 10 mW units, clamped to the part's range (R364). -/
def State.govCap (s : State) : Nat := max s.fuses.part.capLow (min s.fuses.part.capTop (s.eff .glb 0x200))

/-- GOVERNOR_PERIOD: one 100 µs period (R364, R365, R366): the tile estimates in mW, the package average in mW, and whether the
average has stayed below the cap less 0.5 W for the 1 ms that ends here. -/
def execGovernorPeriod (tileMw : List Nat) (packageMw : Nat) (belowFor1ms : Bool) (s : State) : Out :=
  s.ends (
    let s0 := s.tileIds.foldl (fun (s : State) t => s.wr (.pwr t) 0x01C (min 65535 (tileMw.getD t 0))) s
    let avg := packageMw / 10
    let s1 := s0.wr .glb 0x208 (min 65535 avg)
    let cap := s1.govCap
    if s1.power.step ≠ 0 || s1.power.parked then s1
    else if cap * 10 < packageMw then
      match s1.power.shed with
      | some (k, p) =>
        let s2 := ({ s1 with power := p } : State).govSync (some k) false
        s2.tileIds.foldl (fun (s : State) t => (s.count (.pwr t) 0x07C 1).flag (.pwr t) 0x038 4) s2
      | none =>
        let had := bitN (s1.rd .glb 0x204) 24
        let s2 := s1.govSync none true
        if had then s2 else s2.log 0 0 5 8 0 packageMw
    else if belowFor1ms && packageMw + 500 < cap * 10 then
      match s1.power.restore with
      | some (k, p) => ({ s1 with power := p } : State).govSync (some k) false
      | none => s1.govSync none false
    else s1.govSync none false)

/-- DOMAIN_ON: a requested domain is on: reset values, the governor's current controls, the pending epoch adopted (R360, R47). -/
def execDomainOn (t : TileId) (d : Fin 6) (s : State) : Out :=
  s.ends (if !s.power.changing.contains (t.val, d.val) then s
    else
      let s1 : State := { s with power := { s.power with
        on := s.power.on ++ [(t.val, d.val)], changing := s.power.changing.filter fun y => y != (t.val, d.val) } }
      let i := if d.val < 4 then 6 * t.val + d.val else if d.val = 4 then 48 + t.val else 50
      (((s1.pdStat t).govSync none (bitN (s1.rd .glb 0x204) 24)).flag (.pwr t) 0x038 0).adopt i)

/-- PC_IDLE_SWITCH_OFF: after 10 ms without sachet work Blustite stops the threads of the tile and switches PD.Tt.PC off (R360). -/
def execPcIdleSwitchOff (t : TileId) (s : State) : Out :=
  s.ends (if s.power.on.contains (t.val, 2) && !s.sachetWork t then s.domainOff t 2 else s)

/-- L2_WAYS: taken only while every program-core thread of the tile is stopped or in WAIT (R298, R50). -/
def execL2Ways (t : TileId) (v : Word) (s : State) : Out :=
  s.ends (s.setWays t v.toNat (s.cores.threads.any fun h => h.id.tile.val == t.val && h.id.core.val < 8 && h.running && !h.waiting))

/-! ### Power failure (R368 to R374) -/

/-- The step of Table 17.5 reached, in every tile's DUMP_STAT. -/
def State.dumpStep (s : State) (k : Nat) : State :=
  s.tileIds.foldl (fun (s : State) t => s.wrField (.pwr t) 0x060 3 0 k) { s with power := { s.power with step := k } }

/-- A command that is outstanding at the cut and whose data are not wholly staged ends without a completion (R371). -/
def State.cutTrack (s : State) (t : Track) : State :=
  let staged := t.frags != [] && t.frags.all fun f => f.phase != 0
  if t.committed || staged then s else (((s.discard t.key).vendorDone t).untrack t.key).releaseEpoch

/-- POWER_FAILURE: PFAIL_N has been low for 1 µs: steps 1 to 4 of Table 17.5. Once the sequence runs, PFAIL_N has no effect on it
(R374). -/
def execPowerFailure (s : State) : Out :=
  s.ends (
    let s0 : State := { s with pins := { s.pins with gpio := setAt s.pins.gpio 0 false } }
    let s1 := s0.wrField .glb 0x20C 2 2 1
    if s1.power.step ≠ 0 || s1.power.parked || !s1.boot.powered then s1
    else
      let s2 := s1.tileIds.foldl (fun (s : State) t =>
        let off (s : State) (b : Block) : State := s.unflag b 0x000 0
        let s1 := ((s.flag (.pwr t) 0x038 2).wr (.pwr t) 0x064 (s.now % 2 ^ 32)).count (.pwr t) 0x068 1
        [Block.sft t 0, .sft t 1, .cmp t, .cqe t, .dge t].foldl off s1) s1
      let s3 := s2.host.tracks.foldl (fun (s : State) t => s.cutTrack t) s2
      let s4 : State := { s3 with
        host := { s3.host with stopped := true }
        cores := { s3.cores with threads := s3.cores.threads.map fun h => if h.id.core.val < 8 then { h with running := false } else h }
        tiles := s3.tiles.map fun x => { x with flash := { x.flash with inflight := x.flash.inflight.filter fun j => j.op != 3 } } }
      let s5 := s4.tileIds.foldl (fun (s : State) t => if s.power.on.contains (t, 2) then s.domainOff t 2 else s) s4
      (if s5.power.on.contains (1, 5) then s5.domainOff 1 5 else s5).dumpStep 4)

/-- DUMP_START: in Protected mode a tile whose issued programs have completed writes its dump; it is complete when no more than one
member fails (R371, R372, R413). -/
def execDumpStart (t : TileId) (failedMembers : Nat) (s : State) : Out :=
  s.ends (if s.power.step < 4 || s.power.parked || !s.protected_ || !s.hasTile t || s.power.dumped.contains t.val then s
    else
      let f := (s.tileAt t).ftl
      let x := (s.tileAt t).idx
      let d : Dump := { pfseq := f.pfseq + 1, jseq := f.durSeq, ckpt := f.root.number, tail := f.journal.filter (fun j => f.durSeq ≤ j.seq),
                        frags := f.staged, half := x.fresh ++ (if x.second then x.half1 else x.half0),
                        complete := failedMembers ≤ 1, consumed := false }
      let s1 := s.onTile t fun x => { x with ftl := { x.ftl with dumps := x.ftl.dumps ++ [d], pfseq := d.pfseq, dumpErased := false } }
      let s2 : State := { s1 with power := { s1.power with dumped := s1.power.dumped ++ [t.val] } }
      ((s2.wrField (.pwr t) 0x060 3 0 7).wrField (.pwr t) 0x060 4 4 (b2n d.complete)))

/-- PARK: every dump has ended, or in Unprotected mode none is written: channels inert, PHYs off, MODE_STAT.PARKED (R371, R374). -/
def execPark (s : State) : Out :=
  s.ends (if s.power.step < 4 || s.power.parked || (s.protected_ && !s.tileIds.all s.power.dumped.contains) then s
    else
      let s1 := (s.dumpStep 8).wrField .glb 0x20C 3 3 1
      let s2 := s1.tileIds.foldl (fun (s : State) t => s.flag (.pwr t) 0x038 3) s1
      { s2 with
        power := { s2.power with parked := true, pfailHighSince := s2.now }
        host := { s2.host with linkUp := false, linkTraining := false }
        tiles := s2.tiles.map fun x => { x with flash := { x.flash with inflight := [], training := [] } } })

/-- PFAIL_GLITCH: a PFAIL_N low shorter than 1 µs is counted, and nothing else (R368). -/
def execPfailGlitch (lowNs : Nat) (s : State) : Out := s.ends (if lowNs < 1000 then s.count (.pwr 0) 0x06C 1 else s)

end Sys2Proof.Machine
end

