-- ==== Sys2Proof/Machine/Bus.lean ====
section
/-! DEFINITION. Machine/Bus.lean: accesses to the internal register space by stewards, by threads in steward mode and by the
register window (R7, R38 to R41, R50). -/

namespace Sys2Proof.Machine

open Sys2Proof

/-- Who accesses a register. -/
inductive BusWho where
  /-- The package steward. -/
  | package
  /-- The steward of a tile. -/
  | tile (t : Nat)
  /-- A program-core thread in steward mode. -/
  | thread (t core thr : Nat)
  /-- The LMCS register window (R41). -/
  | window
  deriving DecidableEq, Repr

/-- The steward of REGISTER_WRITE: 0 the package steward, 1 to 7 the steward of that tile, 8 that of T0 (as R48 numbers them). -/
def stewardOf (i : Fin 9) : BusWho := if i.val = 0 then .package else if i.val = 8 then .tile 0 else .tile i.val

/-- The owner code of a requester at the digest engines (R339). -/
def BusWho.owner : BusWho → Fin 17
  | .thread _ c h => if hc : c < 8 ∧ h < 2 then ⟨1 + 2 * c + h, by omega⟩ else 0
  | _ => 0

/-- What `exec` leaves when it answers a next state. -/
def stateOf (s : State) : Out → State
  | .next t => t
  | _ => s

/-- The word of a byte string at an offset. -/
def wordAt (b : List Byte) (o : Nat) : Nat := leAt b o 4

/-- The word of a privileged array at an address (R218, R230): the session store of a tile and the quota array. -/
def State.arrayWord (s : State) (a : Nat) : Option Nat :=
  if 0x20800000 ≤ a ∧ a < 0x20880000 then
    some (match s.quota ((a - 0x20800000) / 64) with
      | some q => wordAt q.bytes (a % 64)
      | none => 0)
  else if 0x40000000 ≤ a ∧ a < 0x40000000 + s.n * 0x01000000 ∧ 0x800000 ≤ a % 0x01000000 ∧ a % 0x01000000 < 0x900000 then
    let snum := (a - 0x40000000) / 0x01000000 * 32768 + (a % 0x01000000 - 0x800000) / 32
    some (match s.sessionAt snum with
      | some x => wordAt x.bytes (a % 32)
      | none => if a % 32 = 0 then snum + (kvGet snum s.ses.gens).getD 0 * 2 ^ 18 else 0)
  else if 0x40000000 ≤ a ∧ a < 0x40000000 + s.n * 0x01000000 ∧ 0x900000 ≤ a % 0x01000000 ∧ a % 0x01000000 < 0x980000 then
    some (Config.freeNat (s.free + a) % 2 ^ 32)
  else none

/-- Runnable work of a class on a tile, saturating at 255 (CORE.RUNQ): sessions. -/
def State.runqOf (s : State) (t c : Nat) : Nat :=
  min 255 (((s.cores.queue.filter fun w => w.tile == t && w.cls == c && (s.sessionAt w.snum).any fun x => x.state == 1).map
    fun w => w.snum).eraseDups.length)

/-- The pointer of an arbiter of a tile by its number (Table 20.7). Router outputs, L2 banks and the XTS inputs take part in no
command of this model and keep their reset pointer. -/
def State.arbPtr (s : State) (t num : Nat) : Nat :=
  let x := s.tileAt t
  if num < 0x12 then (kvGet num x.flash.ptrs).getD 0
  else if num = 0x12 then x.siftA.ptr
  else if num = 0x13 then x.siftB.ptr
  else if num = 0x14 then x.comp.ptr
  else if num = 0x15 then x.idx.ptr
  else if num = 0x16 then x.cqe.ptr
  else if num = 0x17 then x.dge.ptr
  else if num = 0x18 then (kvGet t s.ses.ptrs).getD 0
  else if num = 0x19 then (kvGet t s.cores.schedPtr).getD 0
  else if 0x20 ≤ num ∧ num < 0x28 then (kvGet (t * 8 + (num - 0x20)) s.cores.issuePtr).getD 0
  else if num = 0x80 ∧ t = 0 then s.cinch.ptr
  else if num = 0x83 ∧ t = 0 then (kvGet 8 s.ses.ptrs).getD 0
  else if num = 0x84 ∧ t = 0 then s.keys.ptr
  else if num = 0x85 ∧ t = 1 then s.mirror.rein.ptr
  else 0

/-- LANE_RET: the lanes that the configuration store holds retired (R404). -/
def State.laneRet (s : State) : Nat := sumOf (s.cfg.body.lanes.eraseDups.map fun i => 2 ^ i)

/-- A register as it reads, where the manual gives it a value of its own kind: identity, cinch, power, security, scheduler, pins and
the digest result (Table 2.8 and the register tables of each chapter). None for a register that reads what it holds. -/
def State.viewReg (s : State) (who : BusWho) (b : Block) (off : Nat) : Option (Nat × State) :=
  match b with
  | .glb =>
    if off = 0x104 ∨ off = 0x108 ∨ off = 0x10C then some (s.cinch.word ((off - 0x104) / 4), s) else none
  | .pwr t =>
    if off = 0x008 then some (s.pdDrain t, s)
    else if 0x020 ≤ off ∧ off < 0x038 then some ((s.islandEpoch (6 * t + (off - 0x020) / 4)).toNat, s)
    else if 0x040 ≤ off ∧ off < 0x058 then let d := s.draw; some (d.1 % 2 ^ 32, d.2)
    else if off = 0x074 then some (s.arbPtr t (s.rdField b 0x070 7 0), s)
    else none
  | .sec =>
    let k := s.keySlot (s.rdField b 0x02C 12 0)
    if off < 0x020 then some (0, s)
    else if off = 0x030 then some (k.attr, s)
    else if 0x034 ≤ off ∧ off ≤ 0x03C then some (k.nonce / 2 ^ (8 * (off - 0x034)) % 2 ^ 32, s)
    else if off = 0x048 then some (s.fuses.alarms, s)
    else none
  | .core t =>
    if off = 0x108 then some (50, s)
    else if off = 0x10C then some (sumOf ((List.range 4).map fun c => s.runqOf t c * 256 ^ c), s)
    else none
  | .sbg =>
    if off = 0x004 then some (s.gpioIn, s) else none
  | .rein => if off = 0x008 then some (s.laneRet, s) else none
  | .dge t =>
    if 0x080 ≤ off ∧ off < 0x0C0 ∧ s.dgOpen t ∧ s.rdField b 0x008 12 8 ≠ who.owner.val then some (0, s) else none
  | .mem t =>
    if off = 0x060 then
      let arr := s.rdField (.mem t) 0x05C 0 0
      let es := s.mem.remap.filter fun r => r.1 == t && r.2.1 == arr
      some (((es[s.rdField (.mem t) 0x05C 10 8]?).map fun r => 1 + r.2.2 / 8 * 8).getD 0, s)
    else none
  | _ => none

/-- Whether a block refuses a requester: SEC answers the package steward only (R343). -/
def secRefuses (who : BusWho) (b : Block) : Bool := b == .sec && who != .package

/-- A word read from the register space (R38 to R40, R360). -/
def State.busRead (s : State) (who : BusWho) (a : Nat) : Nat × State :=
  if a % 4 ≠ 0 then (0, s.decErr a 1)
  else match s.arrayWord a with
    | some w => (w, s)
    | none =>
      match blockAt s.n a with
      | none => (0, s.decErr a 0)
      | some (b, off) =>
        if !s.blockOn b || secRefuses who b then (0, s.decErr a 0)
        else match s.viewReg who b off with
          | some r => r
          | none =>
            match b.desc off with
            | some d => (match d.acc with
                | .wo | .wok => (0, s)
                | _ => ((s.reg a).toNat, s))
            | none =>
              -- the effective view of an RWS register (R39)
              if 0x800 ≤ off ∧ ((b.desc (off - 0x800)).any fun d => d.acc == .rws) then
                ((s.effective (a - 0x800) s.cinch.cur).toNat, s)
              else (0, s)

/-! ### Writes -/

/-- A write that starts something: the registers whose writes have a row of their own, and DG_CMD. None for a plain register. -/
def State.commandWrite (s : State) (who : BusWho) (b : Block) (off : Nat) (v : Word) : Option State :=
  let n := v.toNat
  let st (o : Out) : Option State := some (stateOf s o)
  match b with
  | .glb =>
    if off = 0x100 then
      (if bitN n 0 then
        st (execCinchGo [match who with
          | .package | .window => 0
          | .tile t => if t = 0 then 8 else Fin.ofNat 9 t
          | .thread t _ _ => if t = 0 then 8 else Fin.ofNat 9 t] s)
      else some s)
    else if off = 0x10C then some { s with cinch := { s.cinch with rej := s.cinch.rej && !bitN n 26, stall := s.cinch.stall && !bitN n 27 } }
    else none
  | .fch t c =>
    let t' := Fin.ofNat 8 t
    let c' := Fin.ofNat 16 c
    if off = 0x028 then st (execFchQtail t' c' v s)
    else if off = 0x010 then
      some (if bitN n 0 then s.startTraining t c true else if bitN n 1 then s.startTraining t c false else s)
    else if off = 0x020 ∧ bitN (s.rd b 0x020) 0 then
      (if bitN n 0 then some s else st (execFchQctrlEnClear t' c' s))
    else none
  | .sft t c =>
    let t' := Fin.ofNat 8 t
    let c' := Fin.ofNat 2 c
    if off = 0x018 then st (execSftQtail t' c' v s)
    else if off = 0x010 ∧ bitN (s.rd b 0x010) 0 ∧ !bitN n 0 then st (execSftQctrlEnClear t' c' s)
    else none
  | .cmp t | .idx t | .cqe t =>
    let t' := Fin.ofNat 8 t
    if 0x040 ≤ off ∧ off < 0x080 ∧ off % 16 = 12 then some (s.setTail b ((off - 0x040) / 16) v)
    else if 0x040 ≤ off ∧ off < 0x080 ∧ off % 16 = 4 ∧ bitN (s.rd b off) 0 ∧ !bitN n 0 then
      let q := Fin.ofNat 4 ((off - 0x040) / 16)
      st (match b with
        | .cmp _ => execCmpQctrlEnClear t' q s
        | .idx _ => execIdxQctrlEnClear t' q s
        | _ => execCqeQctrlEnClear t' q s)
    else none
  | .dge t =>
    let t' := Fin.ofNat 8 t
    if off = 0x004 then
      st (match n % 8 with
        | 1 => execDgStart t' who.owner v s
        | 2 => execDgFinish t' who.owner v s
        | 3 => execDgSqueeze t' who.owner s
        | 4 => execDgAbort t' who.owner s
        | 5 => execDgSave t' who.owner s
        | 6 => execDgRestore t' who.owner s
        | 7 => execDgFeed t' who.owner s
        | _ => .next s)
    else if off = 0x010 then st (execDgData t' who.owner v s)
    else if off = 0x014 then st (execDgDatab t' who.owner (BitVec.ofNat 8 n) s)
    else none
  | .mem t =>
    let t' := Fin.ofNat 8 t
    if off = 0x008 then st (execL2Ways t' v s)
    else if off = 0x010 then some (s.maint t (n % 16))
    else if off = 0x020 then (if bitN n 0 then st (execFill t' s) else some s)
    else if off = 0x02C then (if bitN n 0 then st (execScrub t' [] s) else some s)
    else if off = 0x04C ∨ off = 0x050 then
      some ((List.range 32).foldl (fun (s : State) i =>
        let bank := i + (if off = 0x04C then 0 else 32)
        if bitN n i ∧ bank < 48 then s.retireBank t bank 0xA2 else s) s)
    else none
  | .pwr t => if off = 0x000 then st (execPdCtrl (Fin.ofNat 8 t) v s) else none
  | .sec =>
    if off < 0x020 then st (execKeywWrite (Fin.ofNat 8 (off / 4)) v s)
    else if off = 0x020 then
      let slot := Fin.ofNat 8192 (field n 16 4)
      st (match n % 16 with
        | 1 => execCommitLo slot s
        | 2 => execCommitHi slot s
        | 3 => execKeyStoreErase slot s
        | 4 => execUnwrap slot s
        | 5 => execWrap slot s
        | _ => .next s)
    else none
  | _ => none

/-- STAT of an engine brought up to date after its CTRL was written. -/
def State.ctrlSync (s : State) : Block → State
  | .fch t c => s.fchStat t c
  | .sft t c => s.siftStat t c
  | .cmp t => s.cmpStat t
  | .idx t => s.idxStat t
  | .cqe t => s.cqeStat t
  | _ => s

/-- Whether a register is drain-only and its scope is not drained now (R50, R146, Table 2.11): CTRL, TIM0, TIM1 and TRAIN_CMD of a
channel. L2_WAYS judges its own scope. -/
def State.drainBusy (s : State) (b : Block) (off : Nat) : Bool :=
  match b with
  | .fch t c => (off == 0x000 || off == 0x008 || off == 0x00C || off == 0x010) && !s.fchDrained t c
  | _ => false

/-- A plain register written by its access code (R7, Table 0.5): reserved bits stay. -/
def State.plainWrite (s : State) (b : Block) (off : Nat) (d : RegDesc) (v : Nat) : State :=
  let old := s.rd b off
  let inv := 0xFFFFFFFF - d.mask
  match d.acc with
  | .rw | .rws => s.wr b off ((old &&& inv) ||| (v &&& d.mask))
  | .w1c => s.wr b off (old &&& (0xFFFFFFFF - (v &&& d.mask)))
  | .w1s => s.wr b off (old ||| (v &&& d.mask))
  | .ro | .wo | .wok => s

/-- A word written to the register space (R7, R40, R50, R360). -/
def State.busWrite (s : State) (who : BusWho) (a : Nat) (v : Word) : State :=
  if a % 4 ≠ 0 then s.decErr a 1
  else match s.arrayWord a with
    | some _ => s
    | none =>
      match blockAt s.n a with
      | none => s.decErr a 0
      | some (b, off) =>
        if !s.blockOn b || secRefuses who b then s.decErr a 0
        else if s.drainBusy b off then s.decErr a 2
        else match s.commandWrite who b off v with
          | some s1 => s1
          | none =>
            match b.desc off with
            | some d =>
              let s1 := s.plainWrite b off d v.toNat
              if off = 0 then s1.ctrlSync b else s1
            | none => s

/-- REGISTER_WRITE: a steward writes a register (R7). -/
def execRegisterWrite (by_ : Fin 9) (a v : Word) (s : State) : Out := s.ends (s.busWrite (stewardOf by_) a.toNat v)

/-- DRAIN_ONLY_REGISTER_WRITE: taken only while the scope of Table 2.11 is drained, and otherwise ignored with BUSYWR (R50). An
address that names no drain-only register is written as any other. -/
def execDrainOnlyRegisterWrite (a v : Word) (s : State) : Out := s.ends (s.busWrite .package a.toNat v)

/-- UNDECODED_ACCESS: an access that is no 32-bit aligned word sets SIZE, and one outside every decoded block, or in a block whose domain is
off, sets UNDEC; it reads zero and changes nothing else (R23, R40, R360). -/
def execUndecodedAccess (a : Word) (bytes : Nat) (_isWrite : Bool) (s : State) : Out :=
  s.ends (
    if bytes ≠ 4 ∨ a.toNat % 4 ≠ 0 then s.decErr a.toNat 1
    else if (s.arrayWord a.toNat).isSome || ((blockAt s.n a.toNat).any fun p => s.blockOn p.1) then s
    else s.decErr a.toNat 0)

/-! ### The register window (R41, Table 2.19) -/

/-- Whether a word range touches what the window refuses: SEC, the session stores and the quota array (R41, R218, R230). -/
def State.windowHidden (s : State) (a count : Nat) : Bool :=
  (List.range count).any fun i =>
    (s.arrayWord (a + 4 * i)).isSome || ((blockAt s.n (a + 4 * i)).any fun p => p.1 == .sec)

/-- The checks of a window request on ADDR and COUNT. -/
def State.windowRefuses (s : State) (b : List Byte) : Option Nat :=
  let a := leAt b 0 4
  let n := leAt b 4 2
  if n = 0 ∨ 128 < n ∨ a % 4 ≠ 0 ∨ 0x100000000 < a + 4 * n ∨ !zeroAt b 6 2 then some 2
  else if s.windowHidden a n then some 4
  else none

/-- The flags that a request's own accesses raised: they run with DECERR_STAT clear, and join the flags that stood (R41). -/
def State.ownFlags (s : State) (f : State → State) : Nat × State :=
  let old := s.rd .glb 0x120
  let oldA := s.rd .glb 0x124
  let s1 := f (s.wr .glb 0x120 0)
  let own := s1.rd .glb 0x120 % 8
  let s2 := s1.wr .glb 0x120 (old ||| own)
  (own, if old % 8 = 0 then s2 else s2.wr .glb 0x124 oldA)

/-- REGISTER_WINDOW_READ (R41). -/
def execRegisterWindowRead (q : Req) (s : State) : Out :=
  s.ends (s.lmcsRun q 0x0A01 fun _ s =>
    let b := q.body
    match s.windowRefuses b with
    | some e => refuse s e
    | none =>
      let a := leAt b 0 4
      let read (s : State) : List Byte × State := (List.range (leAt b 4 2)).foldl (fun (p : List Byte × State) i =>
        let r := p.2.busRead .window (a + 4 * i)
        (p.1 ++ leBytes 4 r.1, r.2)) ([], s)
      let r := s.ownFlags fun s => (read s).2
      done r.2 (leBytes 4 r.1 ++ zeros 4 ++ (read s).1))

/-- REGISTER_WINDOW_WRITE (R41): every word obeys R40 and R50. -/
def execRegisterWindowWrite (q : Req) (s : State) : Out :=
  s.ends (s.lmcsRun q 0x0A02 fun _ s =>
    let b := q.body
    if b.length ≠ 8 + 4 * leAt b 4 2 then refuse s 3
    else match s.windowRefuses b with
    | some e => refuse s e
    | none =>
      let a := leAt b 0 4
      let r := s.ownFlags fun s => (List.range (leAt b 4 2)).foldl (fun (s : State) i =>
        s.busWrite .window (a + 4 * i) (BitVec.ofNat 32 (leAt b (8 + 4 * i) 4))) s
      done r.2 (leBytes 4 r.1 ++ zeros 4))

end Sys2Proof.Machine
end

