-- ==== Sys2Proof/Machine/Flags.lean ====
section
/-! DEFINITION. Machine/Flags.lean: every computation of Cuwif-32 that sets a flag of STATUS (SAT, AOV) or compares, with the shuffle,
count and CRC steps (R246, R262 to R266). Each answers its value beside the flag that it sets. -/

namespace Sys2Proof.Machine

open Sys2Proof

/-- An integer as a word. -/
def wordOf (i : Int) : Word := BitVec.ofInt 32 i

/-- An integer held to the signed 32-bit range, and whether that changed it (R246). -/
def satS (i : Int) : Word × Bool :=
  if 2147483647 < i then (0x7FFFFFFF, true) else if i < -2147483648 then (0x80000000, true) else (wordOf i, false)

/-- An integer held to the unsigned 32-bit range, and whether that changed it. -/
def satU (i : Int) : Word × Bool :=
  if 4294967295 < i then (0xFFFFFFFF, true) else if i < 0 then (0, true) else (wordOf i, false)

/-- The word 1 for true, 0 for false. -/
def flagWord (b : Bool) : Word := if b then 1 else 0

/-- Signed quotient, toward zero; a divisor of zero gives all ones (R263). -/
def divS (a b : Word) : Word := if b = 0 then 0xFFFFFFFF else wordOf (a.toInt.tdiv b.toInt)

/-- Unsigned quotient (R263). -/
def divU (a b : Word) : Word := if b = 0 then 0xFFFFFFFF else BitVec.ofNat 32 (a.toNat / b.toNat)

/-- Signed remainder, with the sign of the dividend; a divisor of zero gives the dividend (R263). -/
def remS (a b : Word) : Word := if b = 0 then a else wordOf (a.toInt.tmod b.toInt)

/-- Unsigned remainder (R263). -/
def remU (a b : Word) : Word := if b = 0 then a else BitVec.ofNat 32 (a.toNat % b.toNat)

/-- The high word of a signed product. -/
def mulHigh (a b : Word) : Word := BitVec.ofInt 32 (a.toInt * b.toInt / 4294967296)

/-- The high word of an unsigned product. -/
def mulHighU (a b : Word) : Word := BitVec.ofNat 32 (a.toNat * b.toNat / 4294967296)

/-- Leading zero bits, 0 to 32 (Table 12.2). -/
def clz (a : Word) : Word := BitVec.ofNat 32 (if a.toNat = 0 then 32 else 31 - a.toNat.log2)

/-- One byte of SHUF by its selector (R264). -/
def shufByte (a d sel : Nat) : Nat :=
  if sel < 4 then a / 256 ^ sel % 256 else if sel < 8 then d / 256 ^ (sel - 4) % 256 else 0

/-- SHUF (R264). -/
def shuf (a b d : Word) : Word :=
  BitVec.ofNat 32 (sumOf ((List.range 4).map fun i => shufByte a.toNat d.toNat (b.toNat / 16 ^ i % 16) * 256 ^ i))

/-- Steps of the reflected CRC-32C register (R264). -/
def crcSteps : Nat → Word → Word
  | 0, c => c
  | n + 1, c => crcSteps n ((c >>> 1) ^^^ (if c.getLsbD 0 then 0x82F63B78 else 0))

/-- The signed product as 64 bits. -/
def prodS (a b : Word) : BitVec 64 := BitVec.ofInt 64 (a.toInt * b.toInt)

/-- The unsigned product as 64 bits. -/
def prodU (a b : Word) : BitVec 64 := BitVec.ofNat 64 (a.toNat * b.toNat)

/-- Whether an integer lies outside the signed 64-bit range: AOV (R246, R263). -/
def aovOf (i : Int) : Bool := decide (i < -9223372036854775808 ∨ 9223372036854775807 < i)

/-- The accumulator with a product added, and AOV. -/
def accAdd (acc p : BitVec 64) : BitVec 64 × Bool := (acc + p, aovOf (acc.toInt + p.toInt))

/-- The accumulator with a product subtracted, and AOV. -/
def accSub (acc p : BitVec 64) : BitVec 64 × Bool := (acc - p, aovOf (acc.toInt - p.toInt))

/-- ACCRD: the accumulator shifted right and saturated (Table 12.2). -/
def accRead (acc : BitVec 64) (a : Word) : Word × Bool := satS (acc.toInt / (2 ^ (a.toNat % 64) : Nat))

/-- FTOI: binary32 to an integer scaled by 2^k, ties to even (R265). -/
def ftoi (a : Word) (k : Nat) : Word × Bool :=
  match Fmt.f32.decode a.toNat with
  | .nan => (0, true)
  | .inf neg => (if neg then 0x80000000 else 0x7FFFFFFF, true)
  | .fin neg m e =>
    let e' := e + k
    let v : Nat := if 0 ≤ e' then m * 2 ^ e'.toNat else roundDiv m (2 ^ (-e').toNat)
    satS (if neg then -(v : Int) else v)

/-- ITOF: an integer scaled by 2^−k to the nearest binary32 (R265). -/
def itof (a : Word) (k : Nat) : Word :=
  let i := a.toInt
  if i = 0 then 0 else BitVec.ofNat 32 (Fmt.f32.roundScaled (decide (i < 0)) i.natAbs (-(k : Int)))

end Sys2Proof.Machine
end

