-- ==== Sys2Proof/Machine/Operands.lean ====
section
/-! DEFINITION. Machine/Operands.lean: the operand forms of Cuwif-32: general registers and the window, immediates, effective addresses,
address generators, and the control registers of a thread (R238 to R249). -/

namespace Sys2Proof.Machine

open Sys2Proof

/-! ### General registers (R239, R240) -/

/-- A general register: k0 reads zero, k1 to k7 of the mode's bank, w0 to w23 of the window. -/
def Thread.get (x : Thread) (r : Reg) : Word :=
  if r.val = 0 then 0
  else if r.val < 8 then (if x.steward then x.ks else x.ku).getD (r.val - 1) 0
  else x.win.getD (r.val - 8) 0

/-- A general register written; a write to k0 is discarded. -/
def Thread.put (x : Thread) (r : Reg) (v : Word) : Thread :=
  if r.val = 0 then x
  else if r.val < 8 then
    (if x.steward then { x with ks := setAt x.ks (r.val - 1) v } else { x with ku := setAt x.ku (r.val - 1) v })
  else { x with win := setAt x.win (r.val - 8) v }

/-- The address of the next instruction. -/
def Thread.after (x : Thread) : Word := x.pc + 4

/-- The thread past an instruction that only computes. -/
def Thread.step (x : Thread) : Thread := { x with pc := x.after }

/-- EA = a + sext(imm) (R267). -/
def Thread.ea (x : Thread) (ra : Reg) (imm : BitVec 16) : Nat := (x.get ra + imm.signExtend 32).toNat

/-- The target of a branch or jump: an offset in words from the instruction itself (R259). -/
def Thread.target {n : Nat} (x : Thread) (off : BitVec n) : Word := x.pc + off.signExtend 32 * 4

/-! ### Address generators (R244) -/

/-- The bytes of an access. -/
def accBytes : AccSize → Nat
  | .b => 1
  | .h => 2
  | .w => 4

/-- The order of the low `m` bits reversed. -/
def revBits : Nat → Nat → Nat
  | 0, _ => 0
  | m + 1, x => x % 2 * 2 ^ m + revBits m (x / 2)

/-- Whether a generator's configuration is valid. -/
def Gen.valid (g : Gen) : Bool :=
  let len := g.len.toNat
  match g.mode.toNat with
  | 0 => true
  | 1 => decide (1 ≤ len ∧ len ≤ 2 ^ 24 ∧ g.off.toNat < len ∧ g.step.toInt.natAbs ≤ len)
  | 2 => decide (2 ≤ len ∧ len ≤ 65536 ∧ g.off.toNat < len ∧ len = 2 ^ len.log2)
  | _ => false

/-- The effective address of an access of `w` bytes. -/
def Gen.ea (g : Gen) (w : Nat) : Nat :=
  if g.mode = 2 then (g.base.toNat + w * revBits g.len.toNat.log2 g.off.toNat) % 2 ^ 32
  else (g.base + g.off).toNat

/-- The generator with its new OFF. -/
def Gen.advance (g : Gen) : Gen :=
  match g.mode.toNat with
  | 1 =>
    let t := (g.off.toNat : Int) + g.step.toInt
    let len := (g.len.toNat : Int)
    { g with off := BitVec.ofInt 32 (if len ≤ t then t - len else if t < 0 then t + len else t) }
  | 2 => { g with off := BitVec.ofNat 32 ((g.off.toNat + g.step.toNat) % 2 ^ 32 % max 1 g.len.toNat) }
  | _ => { g with off := g.off + g.step }

/-! ### The window (R240, R242) -/

/-- Registers that the resident increments hold. -/
def Thread.resident (x : Thread) : Nat := sumOf (x.incs.map fun i => i.regs.length)

/-- The window slid up by `n`: the hidden registers form an increment with the link record. -/
def Thread.slideUp (x : Thread) (n : Nat) (ret : Word) (user : Bool) : Thread :=
  { x with win := x.win.drop n ++ List.replicate n 0, incs := ⟨x.win.take n, ret, user⟩ :: x.incs }

/-- The window slid down over an increment. -/
def Thread.slideDown (x : Thread) (i : Incr) : Thread := { x with win := (i.regs ++ x.win).take 24 }

/-! ### Control registers (R249, Table 11.3) -/

/-- STATUS. -/
def Thread.status (x : Thread) : Nat := b2n x.steward + b2n x.sat * 8 + b2n x.aov * 16

/-- Whether a control register is listed. -/
def crListed (n : Nat) : Bool :=
  n ≤ 0x11 || (0x18 ≤ n && n ≤ 0x1A) || (0x20 ≤ n && n < 0x40 && n % 8 < 5) || (0x40 ≤ n && n < 0x50) ||
    (0x60 ≤ n && n ≤ 0x66) || (0x68 ≤ n && n < 0x80)

/-- Whether a mode may read a listed control register. -/
def crReads (steward : Bool) (n : Nat) : Bool :=
  steward || n == 0 || (5 ≤ n && n ≤ 6) || (8 ≤ n && n ≤ 0x0F) || (0x20 ≤ n && n < 0x50)

/-- Whether a mode may write a listed control register: STATUS, whose flags are W1C, among them. -/
def crWrites (steward : Bool) (n : Nat) : Bool :=
  n == 0 || (8 ≤ n && n ≤ 0x0C) || (0x20 ≤ n && n < 0x40) ||
    (steward && (n == 1 || n == 2 || n == 7 || n == 0x10 || n == 0x11 || (0x18 ≤ n && n ≤ 0x1A) || (0x40 ≤ n && n < 0x80)))

/-- The size code of an increment (R242). -/
def sizeCode (n : Nat) : Nat := n / 4 - 1

/-- LINK: the current frame's link record, zero at WDEPTH 0 and while the increment is spilled. -/
def Thread.link (x : Thread) : Word :=
  match x.incs with
  | i :: _ => if x.wdepth ≠ 0 ∧ i.user ≠ x.steward then (i.ret &&& 0xFFFFFFFC) ||| BitVec.ofNat 32 (sizeCode i.regs.length) else 0
  | [] => 0

/-- Where a register of the user window lies while the thread is in steward mode. -/
inductive UwPlace where
  /-- In the `i`th resident increment, newest first. -/
  | inc (i j : Nat)
  /-- In the current window. -/
  | win (j : Nat)
  /-- On a spill stack, at an address. -/
  | mem (a : Nat)
  deriving DecidableEq, Repr

/-- The steward's increments that are resident, newest first. -/
def Thread.stewardIncs (x : Thread) : List Incr := x.incs.takeWhile fun i => !i.user

/-- Where the `o`th of the registers lies that begin with the resident increments of `l`, whose first is the `i`th, and end in the
window. -/
def uwWalk (l : List Incr) (i o : Nat) : UwPlace :=
  match l with
  | [] => .win o
  | a :: rest => if o < a.regs.length then .inc i o else uwWalk rest (i - 1) (o - a.regs.length)

/-- The same over the steward's spilled increments, oldest first, given by address and size, and then the resident ones. -/
def uwSpilled (sp : List (Nat × Nat)) (l : List Incr) (i o : Nat) : UwPlace :=
  match sp with
  | [] => uwWalk l i o
  | f :: rest => if o < f.2 then .mem (f.1 + 4 * o) else uwSpilled rest l i (o - f.2)

/-- Where UWj lies (Table 11.3): w0 to w15 in the newest user increment, or at the top of the user spill stack; w16 to w23 in the frame
that the handler began with: in the oldest increments of the steward or, at steward WDEPTH 0, in the window. `sp` gives the
steward's spilled increments. -/
def Thread.uwPlace (x : Thread) (sp : List (Nat × Nat)) (j : Nat) : UwPlace :=
  let st := x.stewardIncs
  let k := st.length
  if j < 16 then
    (if k < x.incs.length then .inc k j else .mem ((x.spillPtr.toNat + 4 * j + 2 ^ 32 - 72) % 2 ^ 32))
  else uwSpilled sp st.reverse (k - 1) (j - 16)

/-- A resident register of the user window, and zero for one in memory. -/
def Thread.uwGet (x : Thread) : UwPlace → Word
  | .inc i j => ((x.incs[i]?).map fun a => a.regs.getD j 0).getD 0
  | .win j => x.win.getD j 0
  | .mem _ => 0

/-- A resident register of the user window written. -/
def Thread.uwPut (x : Thread) (v : Word) : UwPlace → Thread
  | .inc i j => match x.incs[i]? with
    | some a => { x with incs := setAt x.incs i { a with regs := setAt a.regs j v } }
    | none => x
  | .win j => { x with win := setAt x.win j v }
  | .mem _ => x

/-- A field of a generator by its number in the control register map. -/
def Gen.field (g : Gen) (f : Nat) : Word :=
  if f = 0 then g.base else if f = 1 then g.len else if f = 2 then g.step else if f = 3 then g.off else g.mode.setWidth 32

/-- A generator with a field written. -/
def Gen.setField (g : Gen) (f : Nat) (v : Word) : Gen :=
  if f = 0 then { g with base := v } else if f = 1 then { g with len := v } else if f = 2 then { g with step := v }
  else if f = 3 then { g with off := v } else { g with mode := v.setWidth 2 }

/-- A control register as it reads; CYCLO and the user window are read by the meaning of MFC. -/
def Thread.crGet (x : Thread) (n : Nat) : Word :=
  if n = 0 then BitVec.ofNat 32 x.status
  else if n = 1 then x.estatus
  else if n = 2 then x.epc
  else if n = 3 then x.cause
  else if n = 4 then x.badaddr
  else if n = 5 then BitVec.ofNat 32 (x.id.thr.val + x.id.core.val % 8 * 2 + x.id.tile.val * 16)
  else if n = 6 then BitVec.ofNat 32 x.wdepth
  else if n = 7 then BitVec.ofNat 32 x.ewdepth
  else if n = 8 then x.spillBase
  else if n = 9 then x.spillPtr
  else if n = 0x0A then x.spillLim
  else if n = 0x0B then x.acc.setWidth 32
  else if n = 0x0C then (x.acc >>> 32).setWidth 32
  else if n = 0x0E then x.cycHi
  else if n = 0x0F then x.link
  else if n = 0x10 then x.svec
  else if n = 0x11 then x.sscratch
  else if n = 0x18 then x.sspillBase
  else if n = 0x19 then x.sspillPtr
  else if n = 0x1A then x.sspillLim
  else if 0x20 ≤ n ∧ n < 0x40 then ((x.gens[(n - 0x20) / 8]?).getD {}).field (n % 8)
  else if 0x40 ≤ n ∧ n < 0x50 then
    let r := (x.rgns[(n - 0x40) / 2]?).getD {}
    if n % 2 = 0 then r.base else r.lim
  else if 0x60 ≤ n ∧ n ≤ 0x66 then x.ku.getD (n - 0x60) 0
  else 0

/-- A control register written: reserved bits ignore the value (R274). The user window is written by the meaning of MTC. -/
def Thread.crPut (x : Thread) (n : Nat) (v : Word) : Thread :=
  let w4 := v &&& 0xFFFFFFFC
  if n = 0 then { x with sat := x.sat && !v.getLsbD 3, aov := x.aov && !v.getLsbD 4 }
  else if n = 1 then { x with estatus := v &&& 0x19 }
  else if n = 2 then { x with epc := w4 }
  else if n = 7 then { x with ewdepth := v.toNat % 65536 }
  else if n = 8 then { x with spillBase := w4 }
  else if n = 9 then { x with spillPtr := w4 }
  else if n = 0x0A then { x with spillLim := w4 }
  else if n = 0x0B then { x with acc := (x.acc >>> 32 <<< 32) ||| v.setWidth 64 }
  else if n = 0x0C then { x with acc := (v.setWidth 64 <<< 32) ||| (x.acc.setWidth 32).setWidth 64 }
  else if n = 0x10 then { x with svec := v &&& 0xFFFFFFC0 }
  else if n = 0x11 then { x with sscratch := v }
  else if n = 0x18 then { x with sspillBase := w4 }
  else if n = 0x19 then { x with sspillPtr := w4 }
  else if n = 0x1A then { x with sspillLim := w4 }
  else if 0x20 ≤ n ∧ n < 0x40 then
    { x with gens := setAt x.gens ((n - 0x20) / 8) (((x.gens[(n - 0x20) / 8]?).getD {}).setField (n % 8) v) }
  else if 0x40 ≤ n ∧ n < 0x50 then
    let i := (n - 0x40) / 2
    let r := (x.rgns[i]?).getD {}
    { x with rgns := setAt x.rgns i (if n % 2 = 0 then { r with base := v &&& 0xFFFFFFC0 } else { r with lim := v &&& 0xFFFFFFCF }) }
  else if 0x60 ≤ n ∧ n ≤ 0x66 then { x with ku := setAt x.ku (n - 0x60) v }
  else x

end Sys2Proof.Machine
end

