-- ==== Sys2Proof/Machine/CoreOps.lean ====
section
/-! DEFINITION. Machine/CoreOps.lean: how a Cuwif-32 instruction runs: fetch checks, memory accesses, spill and fill, exception entry and
return, and the stop of a thread (R236 to R258). -/

namespace Sys2Proof.Machine

open Sys2Proof

/-- An exception: a cause of Table 11.4 with what CAUSE and BADADDR take. -/
structure Exc where
  code  : Nat
  /-- BADADDR, for the causes that name an address. -/
  addr  : Option Nat := none
  /-- SZ, STORE and GN of CAUSE. -/
  sz    : Nat := 0
  store : Bool := false
  gn    : Nat := 0
  /-- EPC is the next instruction (Table 11.4). -/
  next  : Bool := false
  deriving DecidableEq, Repr

/-- What an instruction does: it completes, or raises an exception and changes nothing of the thread (R237). -/
inductive Ran where
  | done (x : Thread) (s : State)
  | exc (e : Exc) (s : State)

/-! ### Protection (R247, R248) -/

/-- Addresses that user mode never reaches (R247). -/
def privAddr (a : Nat) : Bool := 0x20000000 ≤ a && a < 0x60000000

/-- Whether a region descriptor grants the permissions `perms` (bits of RGN_LIM) to the byte at `a`. -/
def Rgn.grants (r : Rgn) (a : Nat) (perms : List Nat) : Bool :=
  let base := r.base.toNat / 64 * 64
  let last := r.lim.toNat / 64 * 64
  let l := r.lim.toNat
  bitN l 0 && !(bitN l 2 && bitN l 3) && base ≤ last && base ≤ a && a < last + 64 && perms.all fun p => bitN l p

/-- Whether a user-mode access is granted by some region (R248). -/
def Thread.granted (x : Thread) (a : Nat) (perms : List Nat) : Bool := x.rgns.any fun r => r.grants a perms

/-- SZ of CAUSE. -/
def szCode (n : Nat) : Nat := if n = 1 then 0 else if n = 2 then 1 else 2

/-- The kinds of data access. -/
inductive Acc where
  | load | store | atomic
  deriving DecidableEq, Repr

/-- STORE of CAUSE. -/
def Acc.isStore : Acc → Bool
  | .load => false
  | _ => true

/-- The permissions that an access needs (R248). -/
def Acc.perms : Acc → List Nat
  | .load => [1]
  | .store => [2]
  | .atomic => [1, 2]

/-- The exception of a data access of `n` bytes before memory is reached: PRIV_ADDR, then alignment, then the region (R236, R247,
R248). -/
def Thread.dataExc (x : Thread) (acc : Acc) (a n gn : Nat) : Option Exc :=
  let e (code : Nat) : Exc := ⟨code, some a, szCode n, acc.isStore, gn, false⟩
  if !x.steward && privAddr a then some (e 0x26)
  else if a % n ≠ 0 then some (e (if acc.isStore then 0x23 else 0x22))
  else if !x.steward && !x.granted a acc.perms then some (e (if acc.isStore then 0x25 else 0x24))
  else none

/-! ### Memory (R256, R257, R293, R307 to R309) -/

/-- The requester index of a thread at the L2 (R296). -/
def Thread.req (x : Thread) : Nat := x.id.core.val

/-- The thread as a requester of the register space. -/
def Thread.who (x : Thread) : BusWho :=
  if x.id.core.val = 8 then .tile x.id.tile.val else .thread x.id.tile.val x.id.core.val x.id.thr.val

/-- What a read of `n` bytes by a thread finds: the bytes, or none for a word that is or becomes poisoned; errors are counted and
logged by the tile that holds the word, or by the reader's for its L2 copy (R307, R308, R310, R314, R315). -/
def State.thrRead (s : State) (x : Thread) (a n : Nat) (ecc : Ecc) : Option (List Byte) × State :=
  let t := x.id.tile.val
  let rest (s : State) : Option (List Byte) × State :=
    let r := s.coreRead t a n
    (some r.1, r.2)
  let tagged (s : State) : State := if ecc = .tag then s.tagParity t a x.req else s
  match s.place t a with
  | .register =>
    if n = 4 then
      let c := s.arrayCheck a (if s.privArray a = some (t, 0) ∨ s.privArray a = some (t, 1) then x.req else 12) ecc
      if c.1 then (none, c.2)
      else
        let r := c.2.busRead x.who a
        (some (leBytes 4 r.1), r.2)
    else (some (zeros n), s.decErr a 1)
  | .none => (some (zeros n), s.decErr a 0)
  | .host _ =>
    let c := (tagged s).farCheck t a x.req ecc
    if c.1 then rest c.2 else (none, c.2)
  | .sram k own =>
    let c := if own then (true, tagged s) else (tagged s).farCheck t a x.req ecc
    let req := if own then x.req else 12
    if !c.1 then (none, c.2)
    else if (c.2.line t a).isSome && !own then rest c.2
    else if s.poisoned k then (none, c.2.homeError k 1 req 127)
    else if !own && (s.line t a).isSome then rest c.2
    else match ecc with
      | .ue => (none, ({ c.2 with mem := { c.2.mem with poison := (c.2.mem.poison ++ [k / 8 * 8]).eraseDups } } : State).homeError k 1 req
          127)
      | .ce b => rest (c.2.homeError k 0 req b.val)
      | .clean | .tag => rest c.2

/-- A store of `n` bytes by a thread. A store to a poisoned word is discarded and logged (R309), in the L2 copy of a remote or host line
as at home; a store to a retired bank is discarded (R314). -/
def State.thrWrite (s : State) (x : Thread) (a : Nat) (bs : List Byte) : State :=
  let t := x.id.tile.val
  let farBad := (s.line t a).any fun l => l.bad.contains (a % 64 / 8)
  match s.place t a with
  | .register => if bs.length = 4 then s.busWrite x.who a (BitVec.ofNat 32 (leNat bs)) else s.decErr a 1
  | .none => s.decErr a 0
  | .host _ => if farBad then s.memError t a 1 1 x.req 127 true else s.coreWrite t a bs
  | .sram k own =>
    if own then
      if s.bankRetired k then s
      else if s.poisoned k then s.memError t (a % 0x02000000) 1 (arrayOf (a % 0x02000000)) x.req 127 true
      else s.coreWrite t a bs
    else if farBad || ((s.line t a).isNone && s.mem.poison.contains (k / 8 * 8)) then s.memError t a 1 1 x.req 127 true
    else s.coreWrite t a bs

/-- A load: the value, or the exception (R267). -/
def State.load (s : State) (x : Thread) (a n gn : Nat) (ecc : Ecc) : Except (Exc × State) (Nat × State) :=
  match x.dataExc .load a n gn with
  | some e => .error (e, s)
  | none => match s.thrRead x a n ecc with
    | (some b, s1) => .ok (leNat b, s1)
    | (none, s1) => .error (⟨0x27, some a, szCode n, false, gn, false⟩, s1)

/-- A store of the low `n` bytes of a word, or the exception. -/
def State.store (s : State) (x : Thread) (a n gn : Nat) (v : Word) : Except (Exc × State) State :=
  match x.dataExc .store a n gn with
  | some e => .error (e, s)
  | none => .ok (s.thrWrite x a (leBytes n v.toNat))

/-- An atomic operation on the aligned word at `a`: the old word, and the state with the new one (R269). -/
def State.atomic (s : State) (x : Thread) (a : Nat) (ecc : Ecc) (f : Word → Word) : Except (Exc × State) (Word × State) :=
  match x.dataExc .atomic a 4 0 with
  | some e => .error (e, s)
  | none => match s.thrRead x a 4 ecc with
    | (some b, s1) =>
      let old := BitVec.ofNat 32 (leNat b)
      .ok (old, s1.thrWrite x a (leBytes 4 (f old).toNat))
    | (none, s1) => .error (⟨0x27, some a, 2, true, 0, false⟩, s1)

/-! ### Spill and fill (R242, R243) -/

/-- A spill stack by the increment's tag: base, pointer and limit. -/
def Thread.stack (x : Thread) (user : Bool) : Nat × Nat × Nat :=
  if user then (x.spillBase.toNat, x.spillPtr.toNat, x.spillLim.toNat)
  else (x.sspillBase.toNat, x.sspillPtr.toNat, x.sspillLim.toNat)

/-- The thread with a spill pointer set. -/
def Thread.setPtr (x : Thread) (user : Bool) (p : Nat) : Thread :=
  if user then { x with spillPtr := BitVec.ofNat 32 p } else { x with sspillPtr := BitVec.ofNat 32 p }

/-- Whether a spill or fill may touch the word at `a`: those of user increments are user accesses in every mode (R243). -/
def Thread.spillOk (x : Thread) (user : Bool) (perm a : Nat) : Bool := !user || (!privAddr a && x.granted a [perm])

/-- The oldest resident increment spilled. -/
def State.spillOne (s : State) (x : Thread) : Except Exc (Thread × State) :=
  match x.incs.reverse with
  | [] => .ok (x, s)
  | i :: newer =>
    let st := x.stack i.user
    let n := i.regs.length
    let ptr := st.2.1
    if st.2.2 < ptr + 4 * (n + 2) then .error { code := 0x31, addr := some ptr }
    else
      match ((List.range (n + 2)).map fun j => ptr + 4 * j).find? fun a => !x.spillOk i.user 2 a with
      | some a => .error { code := 0x33, addr := some a, sz := 2, store := true }
      | none =>
        let ws := i.regs ++ [i.ret, BitVec.ofNat 32 (sizeCode n)]
        let s1 := (List.range (n + 2)).foldl (fun (s : State) j => s.thrWrite x (ptr + 4 * j) (leBytes 4 (ws.getD j 0).toNat)) s
        .ok ({ x with incs := newer.reverse }.setPtr i.user (ptr + 4 * (n + 2)), s1)

/-- Spills until `n` more registers fit in the 256 of the file. -/
def State.makeRoom (s : State) (x : Thread) (n : Nat) : Nat → Except Exc (Thread × State)
  | 0 => .ok (x, s)
  | fuel + 1 =>
    if 24 + x.resident + n ≤ 256 then .ok (x, s)
    else match s.spillOne x with
      | .error e => .error e
      | .ok (y, s1) => s1.makeRoom y n fuel

/-- Words read from a spill stack in turn, or the failing word. -/
def State.fillWords (s : State) (x : Thread) (user : Bool) : List Nat → Except (Exc × State) (List Word × State)
  | [] => .ok ([], s)
  | a :: rest =>
    if !x.spillOk user 1 a then .error ({ code := 0x33, addr := some a, sz := 2 }, s)
    else match s.thrRead x a 4 .clean with
      | (none, s1) => .error ({ code := 0x33, addr := some a, sz := 2 }, s1)
      | (some b, s1) => match s1.fillWords x user rest with
        | .error e => .error e
        | .ok (ws, s2) => .ok (BitVec.ofNat 32 (leNat b) :: ws, s2)

/-- The hidden increment of a frame filled from its spill stack; `eret` asks for the size code 0b11. A return address that is no
multiple of 4 is a fetch cause of RET, which comes before the others (R238, Table 11.4). -/
def State.fill (s : State) (x : Thread) (user eret : Bool) : Except (Exc × State) (Incr × Thread × State) :=
  let st := x.stack user
  let ptr := st.2.1
  if ptr < st.1 + 24 then .error ({ code := 0x32, addr := some ptr }, s)
  else match s.fillWords x user [ptr - 8, ptr - 4] with
    | .error e => .error e
    | .ok (hdr, s1) =>
      let code := (hdr.getD 1 0).toNat
      let ret := (hdr.getD 0 0).toNat
      if !eret ∧ ret % 4 ≠ 0 then .error ({ code := 0x20, addr := some ret }, s1)
      else if 4 ≤ code ∨ (eret ∧ code ≠ 3) then .error ({ code := 0x34 }, s1)
      else
        let n := 4 * (code + 1)
        if ptr < st.1 + 4 * (n + 2) then .error ({ code := 0x32, addr := some ptr }, s1)
        else
          let base := ptr - 4 * (n + 2)
          match s1.fillWords x user ((List.range n).map fun j => base + 4 * j) with
          | .error e => .error e
          | .ok (ws, s2) => .ok (⟨ws, hdr.getD 0 0, user⟩, x.setPtr user base, s2)

/-! ### Stop, entry and return (R250, R251, R253) -/

/-- A thread stopped with a cause; a command that it served ends with C8h (R253). -/
def State.stopThread (s : State) (x : Thread) (code : Nat) : State :=
  let y : Thread := { x with running := false, stop := some code, job := none }
  match x.job with
  | none => s.setThr y
  | some j => ((s.jobFault x.id.tile j code x.pc.toNat x.badaddr.toNat).setThr y).scheduleAt x.id.tile []

/-- CAUSE as an exception sets it. -/
def Exc.causeWord (e : Exc) (fromUser : Bool) : Word :=
  BitVec.ofNat 32 (e.code + b2n fromUser * 256 + e.sz * 512 + b2n e.store * 2048 + e.gn * 4096)

/-- Exception entry of R250: the thread at SVEC in steward mode, or the failure of the spill that it needs. -/
def State.entry (s : State) (x : Thread) (e : Exc) : Except Exc (Thread × State) :=
  match s.makeRoom x 16 16 with
  | .error f => .error f
  | .ok (y, s1) =>
    let epc := if e.next then x.after else x.pc
    let z : Thread := { y with
      estatus := BitVec.ofNat 32 x.status
      cause := e.causeWord true
      badaddr := match e.addr with
        | some a => BitVec.ofNat 32 a
        | none => x.badaddr
      epc := epc
      ewdepth := x.wdepth
      wdepth := 0
      steward := true }
    .ok ({ (z.slideUp 16 epc true) with pc := x.svec }, s1)

/-- The return of R251: the thread in user mode at EPC, or the code with which it stops. -/
def State.eret (s : State) (x : Thread) : Except (Nat × State) (Thread × State) :=
  if x.wdepth ≠ 0 ∨ bitN x.estatus.toNat 0 then .error ((Config.freeNat s.free) % 256, { s with free := s.free + 1 })
  else
    let got : Except (Exc × State) (Incr × Thread × State) := match x.incs with
      | i :: rest => .ok (i, { x with incs := rest }, s)
      | [] => s.fill x true true
    match got with
    | .error (e, s1) => .error (e.code, s1)
    | .ok (i, y, s1) =>
      .ok ({ (y.slideDown i) with
        steward := false, sat := bitN x.estatus.toNat 3, aov := bitN x.estatus.toNat 4
        wdepth := x.ewdepth, pc := x.epc }, s1)

/-- An exception taken from user mode: entry, and what the runtime does with it for an invocation: it takes the result of RETURN,
logs a BREAK and goes on, and ends the command on a fault (R250, R283, R292). -/
def State.enter (s : State) (x : Thread) (e : Exc) : State :=
  match s.entry x e with
  | .error f => s.stopThread x f.code
  | .ok (y, s1) =>
    let s2 := s1.setThr y
    match y.job with
    | none => s2
    | some j =>
      if e.code = 0x01 then
        let held := s2.now - j.since
        (s2.giveUp x.id.tile j held).jobReturn x.id { j with cpu := j.cpu + held } (x.win.getD 1 0).toNat
      else if e.code = 0x03 then
        let handle := (((s2.track j.key).bind fun k => k.ses.map fun z => z.handle).getD 0)
        let s3 := s2.logFunc j.key.fn 1 0x03 handle
        match s3.eret y with
        | .ok (z, s4) => s4.setThr z
        | .error (c, s4) => s4.stopThread y c
      else if 0x10 ≤ e.code then
        ((s2.giveUp x.id.tile j (s2.now - j.since)).jobFault x.id.tile j e.code y.epc.toNat y.badaddr.toNat).scheduleAt x.id.tile []
      else s2

/-- An exception raised: from user mode it is taken, in steward mode the thread stops (R250, R253). -/
def State.raiseExc (s : State) (x : Thread) (e : Exc) : State :=
  if x.steward then s.stopThread x e.code else s.enter x e

/-! ### Running one instruction -/

/-- The fetch causes of the instruction at the program counter (R247, R248, R308). -/
def State.fetchExc (s : State) (x : Thread) : Option Exc :=
  let a := x.pc.toNat
  let e (code : Nat) : Option Exc := some ⟨code, some a, 2, false, 0, false⟩
  if !x.steward && privAddr a then e 0x26
  else if !x.steward && !x.granted a [3] then e 0x21
  else match s.place x.id.tile a with
    | .sram k _ => if s.poisoned k then e 0x27 else none
    | _ => none

/-- The issue arbiter of a core granting a thread (R255). -/
def State.issue (s : State) (h : ThrId) : State :=
  { s with cores := { s.cores with issuePtr := kvSet (h.tile.val * 8 + h.core.val) ((h.thr.val + 1) % 2) s.cores.issuePtr } }

/-- The state in which a thread's instruction runs: the thread of a program core has been granted; the steward core has no arbiter. -/
def State.issued (s : State) (h : ThrId) : State := if h.core.val < 8 then s.issue h else s

/-- Whether a thread executes: started, not stopped, not in WAIT, its core on. -/
def State.executes (s : State) (x : Thread) : Bool :=
  x.running && x.stop.isNone && !x.waiting && s.hasTile x.id.tile && (x.id.core.val == 8 || s.blockOn (.core x.id.tile))

/-- One instruction on a thread: no effect on a thread that does not execute, fetch causes first, then the instruction. -/
def State.insn (s : State) (h : ThrId) (f : Thread → State → Ran) : Out :=
  s.ends (match s.thr h with
    | none => s
    | some x =>
      if !s.executes x then s
      else
        let s0 := s.issued h
        match s0.fetchExc x with
        | some e => s0.raiseExc x e
        | none => match f x s0 with
          | .done y s1 => s1.setThr y
          | .exc e s1 => s1.raiseExc x e)

/-- An instruction that only computes a new thread. -/
def State.compute (s : State) (h : ThrId) (f : Thread → Thread) : Out := s.insn h fun x s => .done (f x).step s

/-- A register operation: RD from RA and RB (R260). -/
def State.regOp (s : State) (h : ThrId) (rd ra rb : Reg) (f : Word → Word → Word) : Out :=
  s.compute h fun x => x.put rd (f (x.get ra) (x.get rb))

/-- An operation that may saturate: SAT is set when it does and left alone otherwise (R246). -/
def Thread.putSat (x : Thread) (rd : Reg) (r : Word × Bool) : Thread := { (x.put rd r.1) with sat := x.sat || r.2 }

/-- A saturating register operation. -/
def State.satOp (s : State) (h : ThrId) (rd ra rb : Reg) (f : Word → Word → Word × Bool) : Out :=
  s.compute h fun x => x.putSat rd (f (x.get ra) (x.get rb))

/-- A multiply-accumulate: the accumulator and AOV (R246, R263). -/
def State.accOp (s : State) (h : ThrId) (ra rb : Reg) (f : BitVec 64 → Word → Word → BitVec 64 × Bool) : Out :=
  s.compute h fun x =>
    let r := f x.acc (x.get ra) (x.get rb)
    { x with acc := r.1, aov := x.aov || r.2 }

end Sys2Proof.Machine
end

