-- ==== Sys2Proof/Machine/Alu.lean ====
section
/-! DEFINITION. Machine/Alu.lean: the register and immediate operations of Cuwif-32 (Tables 12.2 and 12.3, R260 to R266). -/

namespace Sys2Proof.Machine

open Sys2Proof

/-! ### Register operations, OP 0x01 -/

/-- ADD: d = a + b. -/
def execAdd (h : ThrId) (rd ra rb : Reg) (s : State) : Out := s.regOp h rd ra rb fun a b => a + b

/-- SUB: d = a − b. -/
def execSub (h : ThrId) (rd ra rb : Reg) (s : State) : Out := s.regOp h rd ra rb fun a b => a - b

/-- AND: d = a & b. -/
def execAndR (h : ThrId) (rd ra rb : Reg) (s : State) : Out := s.regOp h rd ra rb fun a b => a &&& b

/-- OR: d = a | b. -/
def execOrR (h : ThrId) (rd ra rb : Reg) (s : State) : Out := s.regOp h rd ra rb fun a b => a ||| b

/-- XOR: d = a ^ b. -/
def execXor (h : ThrId) (rd ra rb : Reg) (s : State) : Out := s.regOp h rd ra rb fun a b => a ^^^ b

/-- NOR: d = ~(a | b). -/
def execNor (h : ThrId) (rd ra rb : Reg) (s : State) : Out := s.regOp h rd ra rb fun a b => ~~~(a ||| b)

/-- SLL: the count is b[4:0] (R262). -/
def execSll (h : ThrId) (rd ra rb : Reg) (s : State) : Out := s.regOp h rd ra rb fun a b => a <<< (b.toNat % 32)

/-- SRL: zeros in. -/
def execSrl (h : ThrId) (rd ra rb : Reg) (s : State) : Out := s.regOp h rd ra rb fun a b => a >>> (b.toNat % 32)

/-- SRA: the sign bit in. -/
def execSra (h : ThrId) (rd ra rb : Reg) (s : State) : Out := s.regOp h rd ra rb fun a b => a.sshiftRight (b.toNat % 32)

/-- SLT: signed comparison. -/
def execSlt (h : ThrId) (rd ra rb : Reg) (s : State) : Out := s.regOp h rd ra rb fun a b => flagWord (a.slt b)

/-- SLTU: unsigned comparison. -/
def execSltu (h : ThrId) (rd ra rb : Reg) (s : State) : Out := s.regOp h rd ra rb fun a b => flagWord (a.ult b)

/-- MUL: the low word of the product. -/
def execMul (h : ThrId) (rd ra rb : Reg) (s : State) : Out := s.regOp h rd ra rb fun a b => a * b

/-- MULH: the high word of the signed product. -/
def execMulh (h : ThrId) (rd ra rb : Reg) (s : State) : Out := s.regOp h rd ra rb fun a b => mulHigh a b

/-- MULHU: the high word of the unsigned product. -/
def execMulhu (h : ThrId) (rd ra rb : Reg) (s : State) : Out := s.regOp h rd ra rb fun a b => mulHighU a b

/-- DIV (R263). -/
def execDiv (h : ThrId) (rd ra rb : Reg) (s : State) : Out := s.regOp h rd ra rb fun a b => divS a b

/-- DIVU (R263). -/
def execDivu (h : ThrId) (rd ra rb : Reg) (s : State) : Out := s.regOp h rd ra rb fun a b => divU a b

/-- REM (R263). -/
def execRem (h : ThrId) (rd ra rb : Reg) (s : State) : Out := s.regOp h rd ra rb fun a b => remS a b

/-- REMU (R263). -/
def execRemu (h : ThrId) (rd ra rb : Reg) (s : State) : Out := s.regOp h rd ra rb fun a b => remU a b

/-- ADDS: SAT (R246). -/
def execAdds (h : ThrId) (rd ra rb : Reg) (s : State) : Out := s.satOp h rd ra rb fun a b => satS (a.toInt + b.toInt)

/-- SUBS: SAT. -/
def execSubs (h : ThrId) (rd ra rb : Reg) (s : State) : Out := s.satOp h rd ra rb fun a b => satS (a.toInt - b.toInt)

/-- ADDUS: SAT. -/
def execAddus (h : ThrId) (rd ra rb : Reg) (s : State) : Out := s.satOp h rd ra rb fun a b => satU (a.toNat + b.toNat : Int)

/-- SUBUS: floor 0, SAT. -/
def execSubus (h : ThrId) (rd ra rb : Reg) (s : State) : Out := s.satOp h rd ra rb fun a b => satU ((a.toNat : Int) - b.toNat)

/-- CLZ: leading zero bits. -/
def execClz (h : ThrId) (rd ra : Reg) (s : State) : Out := s.compute h fun x => x.put rd (clz (x.get ra))

/-- SHUF: RD is also a source (R264). -/
def execShuf (h : ThrId) (rd ra rb : Reg) (s : State) : Out :=
  s.compute h fun x => x.put rd (shuf (x.get ra) (x.get rb) (x.get rd))

/-- CRCB: one byte step (R264). -/
def execCrcb (h : ThrId) (rd ra rb : Reg) (s : State) : Out := s.regOp h rd ra rb fun a b => crcSteps 8 (a ^^^ (b &&& 0xFF))

/-- CRCW: four byte steps (R264). -/
def execCrcw (h : ThrId) (rd ra rb : Reg) (s : State) : Out := s.regOp h rd ra rb fun a b => crcSteps 32 (a ^^^ b)

/-- MULA: AOV is never set (R263). -/
def execMula (h : ThrId) (ra rb : Reg) (s : State) : Out := s.accOp h ra rb fun _ a b => (prodS a b, false)

/-- MULAU: AOV is never set. -/
def execMulau (h : ThrId) (ra rb : Reg) (s : State) : Out := s.accOp h ra rb fun _ a b => (prodU a b, false)

/-- MAC: AOV (R246). -/
def execMac (h : ThrId) (ra rb : Reg) (s : State) : Out := s.accOp h ra rb fun c a b => accAdd c (prodS a b)

/-- MACU: AOV. -/
def execMacu (h : ThrId) (ra rb : Reg) (s : State) : Out := s.accOp h ra rb fun c a b => accAdd c (prodU a b)

/-- MSU: AOV. -/
def execMsu (h : ThrId) (ra rb : Reg) (s : State) : Out := s.accOp h ra rb fun c a b => accSub c (prodS a b)

/-- MSUU: AOV. -/
def execMsuu (h : ThrId) (ra rb : Reg) (s : State) : Out := s.accOp h ra rb fun c a b => accSub c (prodU a b)

/-- ACCRD: d = sat_s32(acc >> a[5:0]), SAT. -/
def execAccrd (h : ThrId) (rd ra : Reg) (s : State) : Out := s.compute h fun x => x.putSat rd (accRead x.acc (x.get ra))

/-- FTOI: SAT (R265). -/
def execFtoi (h : ThrId) (rd ra rb : Reg) (s : State) : Out := s.satOp h rd ra rb fun a b => ftoi a (b.toNat % 32)

/-- ITOF (R265). -/
def execItof (h : ThrId) (rd ra rb : Reg) (s : State) : Out := s.regOp h rd ra rb fun a b => itof a (b.toNat % 32)

/-! ### Immediate operations (R266) -/

/-- ADDI: d = a + sext(imm). -/
def execAddi (h : ThrId) (rd ra : Reg) (imm : BitVec 16) (s : State) : Out :=
  s.compute h fun x => x.put rd (x.get ra + imm.signExtend 32)

/-- SLTI: signed comparison with sext(imm). -/
def execSlti (h : ThrId) (rd ra : Reg) (imm : BitVec 16) (s : State) : Out :=
  s.compute h fun x => x.put rd (flagWord ((x.get ra).slt (imm.signExtend 32)))

/-- SLTIU: unsigned comparison with sext(imm). -/
def execSltiu (h : ThrId) (rd ra : Reg) (imm : BitVec 16) (s : State) : Out :=
  s.compute h fun x => x.put rd (flagWord ((x.get ra).ult (imm.signExtend 32)))

/-- ANDI: zero-extended. -/
def execAndi (h : ThrId) (rd ra : Reg) (imm : BitVec 16) (s : State) : Out :=
  s.compute h fun x => x.put rd (x.get ra &&& imm.setWidth 32)

/-- ORI: zero-extended. -/
def execOri (h : ThrId) (rd ra : Reg) (imm : BitVec 16) (s : State) : Out :=
  s.compute h fun x => x.put rd (x.get ra ||| imm.setWidth 32)

/-- XORI: zero-extended. -/
def execXori (h : ThrId) (rd ra : Reg) (imm : BitVec 16) (s : State) : Out :=
  s.compute h fun x => x.put rd (x.get ra ^^^ imm.setWidth 32)

/-- SLLI. -/
def execSlli (h : ThrId) (rd ra : Reg) (sh : BitVec 5) (s : State) : Out :=
  s.compute h fun x => x.put rd (x.get ra <<< sh.toNat)

/-- SRLI: zeros in. -/
def execSrli (h : ThrId) (rd ra : Reg) (sh : BitVec 5) (s : State) : Out :=
  s.compute h fun x => x.put rd (x.get ra >>> sh.toNat)

/-- SRAI: the sign bit in. -/
def execSrai (h : ThrId) (rd ra : Reg) (sh : BitVec 5) (s : State) : Out :=
  s.compute h fun x => x.put rd ((x.get ra).sshiftRight sh.toNat)

/-- LUI: d = IMM21 << 11. -/
def execLui (h : ThrId) (rd : Reg) (imm : BitVec 21) (s : State) : Out := s.compute h fun x => x.put rd (imm.setWidth 32 <<< 11)

/-- ADRP: d = pc + (sext(IMM21) << 2). -/
def execAdrp (h : ThrId) (rd : Reg) (imm : BitVec 21) (s : State) : Out :=
  s.compute h fun x => x.put rd (x.pc + (imm.signExtend 32 <<< 2))

end Sys2Proof.Machine
end

