-- ==== Sys2Proof/Machine/Control.lean ====
section
/-! DEFINITION. Machine/Control.lean: branches, calls and returns, fences, system instructions, control register access, service calls,
and the commands and interrupts that reach a thread from outside (R240, R241, R250 to R254, R271 to R275). -/

namespace Sys2Proof.Machine

open Sys2Proof

/-- A jump: FETCH_ALIGN when the target is no multiple of 4, with the jumping instruction as EPC (R238). -/
def Thread.jump (x : Thread) (a : Word) (s : State) : Ran :=
  if a.toNat % 4 ≠ 0 then .exc { code := 0x20, addr := some a.toNat } s else .done { x with pc := a } s

/-- A branch (R271). -/
def State.branch (s : State) (h : ThrId) (ra rb : Reg) (off : BitVec 16) (cond : Word → Word → Bool) : Out :=
  s.insn h fun x s => .done { x with pc := if cond (x.get ra) (x.get rb) then x.target off else x.after } s

/-- BEQ (R271). -/
def execBeq (h : ThrId) (ra rb : Reg) (off : BitVec 16) (s : State) : Out := s.branch h ra rb off fun a b => a == b

/-- BNE (R271). -/
def execBne (h : ThrId) (ra rb : Reg) (off : BitVec 16) (s : State) : Out := s.branch h ra rb off fun a b => a != b

/-- BLT (R271). -/
def execBlt (h : ThrId) (ra rb : Reg) (off : BitVec 16) (s : State) : Out := s.branch h ra rb off fun a b => a.slt b

/-- BGE (R271). -/
def execBge (h : ThrId) (ra rb : Reg) (off : BitVec 16) (s : State) : Out := s.branch h ra rb off fun a b => !a.slt b

/-- BLTU (R271). -/
def execBltu (h : ThrId) (ra rb : Reg) (off : BitVec 16) (s : State) : Out := s.branch h ra rb off fun a b => a.ult b

/-- BGEU (R271). -/
def execBgeu (h : ThrId) (ra rb : Reg) (off : BitVec 16) (s : State) : Out := s.branch h ra rb off fun a b => !a.ult b

/-- J (R271). -/
def execJ (h : ThrId) (off : BitVec 26) (s : State) : Out := s.insn h fun x s => x.jump (x.target off) s

/-- A call to a target with a frame of `n`: the fetch cause first, WIN_OVER, then the spills (R240, R242, R272). -/
def State.callTo (s : State) (x : Thread) (target : Word) (n : Nat) : Ran :=
  if target.toNat % 4 ≠ 0 then .exc { code := 0x20, addr := some target.toNat } s
  else if x.wdepth = 65535 then .exc { code := 0x30 } s
  else match s.makeRoom x n 16 with
    | .error e => .exc e s
    | .ok (y, s1) => .done { (y.slideUp n x.after (!x.steward)) with wdepth := x.wdepth + 1, pc := target } s1

/-- CALL4 (R240). -/
def execCall4 (h : ThrId) (off : BitVec 26) (s : State) : Out := s.insn h fun x s => s.callTo x (x.target off) 4

/-- CALL8 (R240). -/
def execCall8 (h : ThrId) (off : BitVec 26) (s : State) : Out := s.insn h fun x s => s.callTo x (x.target off) 8

/-- CALL12 (R240). -/
def execCall12 (h : ThrId) (off : BitVec 26) (s : State) : Out := s.insn h fun x s => s.callTo x (x.target off) 12

/-- CALL16 (R240). -/
def execCall16 (h : ThrId) (off : BitVec 26) (s : State) : Out := s.insn h fun x s => s.callTo x (x.target off) 16

/-- JR (R272). -/
def execJr (h : ThrId) (ra : Reg) (s : State) : Out := s.insn h fun x s => x.jump (x.get ra) s

/-- CALLR4: the target is read before the slide (R272). -/
def execCallr4 (h : ThrId) (ra : Reg) (s : State) : Out := s.insn h fun x s => s.callTo x (x.get ra) 4

/-- CALLR8: the target is read before the slide (R272). -/
def execCallr8 (h : ThrId) (ra : Reg) (s : State) : Out := s.insn h fun x s => s.callTo x (x.get ra) 8

/-- CALLR12: the target is read before the slide (R272). -/
def execCallr12 (h : ThrId) (ra : Reg) (s : State) : Out := s.insn h fun x s => s.callTo x (x.get ra) 12

/-- CALLR16: the target is read before the slide (R272). -/
def execCallr16 (h : ThrId) (ra : Reg) (s : State) : Out := s.insn h fun x s => s.callTo x (x.get ra) 16

/-- The frame that RET leaves: the resident increment of the mode, or one filled from its spill stack. -/
def State.retFrame (s : State) (x : Thread) : Except (Exc × State) (Incr × Thread × State) :=
  match x.incs with
  | i :: rest => if i.user ≠ x.steward then .ok (i, { x with incs := rest }, s) else s.fill x (!x.steward) false
  | [] => s.fill x (!x.steward) false

/-- RET: RETURN at WDEPTH 0; otherwise the frame closes and control goes to its return address (R241, R242). -/
def execRet (h : ThrId) (s : State) : Out :=
  s.insn h fun x s =>
    if x.wdepth = 0 then .exc { code := 0x01 } s
    else match s.retFrame x with
      | .error (e, s1) => .exc e s1
      | .ok (i, y, s1) =>
        if i.ret.toNat % 4 ≠ 0 then .exc { code := 0x20, addr := some i.ret.toNat } s1
        else .done { (y.slideDown i) with wdepth := x.wdepth - 1, pc := i.ret } s1

/-- FENCE: whole instructions run in order here, so it only advances (R256, R258). -/
def execFence (h : ThrId) (s : State) : Out := s.compute h fun x => x

/-- A steward-only instruction (R247). -/
def State.privileged (s : State) (h : ThrId) (f : Thread → State → Ran) : Out :=
  s.insn h fun x s => if x.steward then f x s else .exc { code := 0x11 } s

/-- FENCE.I: nothing is fetched ahead here, so it only advances (R273). -/
def execFenceI (h : ThrId) (s : State) : Out := s.privileged h fun x s => .done x.step s

/-- The user-tagged increments spilled, oldest first (R252). -/
def State.flushUser (s : State) (x : Thread) : Nat → Except Exc (Thread × State)
  | 0 => .ok (x, s)
  | fuel + 1 =>
    match x.incs.reverse with
    | i :: _ => if i.user then
        (match s.spillOne x with
          | .error e => .error e
          | .ok (y, s1) => s1.flushUser y fuel)
      else .ok (x, s)
    | [] => .ok (x, s)

/-- WFLUSH (R252). -/
def execWflush (h : ThrId) (s : State) : Out :=
  s.privileged h fun x s => match s.flushUser x x.incs.length with
    | .error e => .exc e s
    | .ok (y, s1) => .done y.step s1

/-- The interrupt that is pending for a thread in user mode, taken before its next instruction: QUANTUM before SIGNAL (R250). -/
def State.takePending (s : State) (x : Thread) : State :=
  if x.irqQuantum then s.enter { x with irqQuantum := false } { code := 0x04 }
  else if x.irqSignal then s.enter { x with irqSignal := false } { code := 0x05 }
  else s.setThr x

/-- ERET: back to user mode, where a pending interrupt is taken before the first instruction; a return that fails stops the thread
(R251, R253). -/
def execEret (h : ThrId) (s : State) : Out :=
  s.ends (match s.thr h with
    | none => s
    | some x =>
      if !s.executes x then s
      else
        let s0 := s.issued h
        match s0.fetchExc x with
        | some e => s0.raiseExc x e
        | none =>
          if !x.steward then s0.raiseExc x { code := 0x11 }
          else match s0.eret x with
            | .error (c, s1) => s1.stopThread x c
            | .ok (y, s1) => s1.takePending y)

/-- WAIT: the thread issues nothing until an interrupt is pending or the wake command comes; it goes on at pc + 4 (R273). -/
def execWait (h : ThrId) (s : State) : Out :=
  s.privileged h fun x s => .done { x.step with waiting := !(x.irqQuantum || x.irqSignal) } s

/-! ### Control registers (R249, R274) -/

/-- The steward's spilled increments of a thread in steward mode, oldest first: address and size by their header words. -/
def State.stewardSpills (s : State) (x : Thread) : Nat → Nat → List (Nat × Nat)
  | 0, _ => []
  | k + 1, p =>
    let n := 4 * (leNat (s.readMem x.id.tile ((p + 2 ^ 32 - 4) % 2 ^ 32) 4) % 4 + 1)
    let base := (p + 2 ^ 32 - 4 * (n + 2)) % 2 ^ 32
    s.stewardSpills x k base ++ [(base, n)]

/-- Where a register of the user window lies. -/
def State.uwAt (s : State) (x : Thread) (j : Nat) : UwPlace :=
  x.uwPlace (s.stewardSpills x (x.wdepth - x.stewardIncs.length) x.sspillPtr.toNat) j

/-- MFC: ILLEGAL for an unlisted number, PRIV_CR for one that the mode cannot read; CYCLO latches CYCHI (R274). The count of cycles is
a free value. -/
def execMfc (h : ThrId) (rd : Reg) (crn : BitVec 8) (s : State) : Out :=
  s.insn h fun x s =>
    let n := crn.toNat
    if !crListed n then .exc { code := 0x10 } s
    else if !crReads x.steward n then .exc { code := 0x12 } s
    else if n = 0x0D then
      let d := s.draw
      .done (({ x with cycHi := BitVec.ofNat 32 (d.1 / 2 ^ 32) } : Thread).put rd (BitVec.ofNat 32 d.1)).step d.2
    else if 0x68 ≤ n then
      match s.uwAt x (n - 0x68) with
      | .mem a =>
        let r := s.coreRead x.id.tile a 4
        .done (x.put rd (BitVec.ofNat 32 (leNat r.1))).step r.2
      | p => .done (x.put rd (x.uwGet p)).step s
    else .done (x.put rd (x.crGet n)).step s

/-- MTC: ILLEGAL for an unlisted number, PRIV_CR for one that the mode cannot write (R274). -/
def execMtc (h : ThrId) (ra : Reg) (crn : BitVec 8) (s : State) : Out :=
  s.insn h fun x s =>
    let n := crn.toNat
    let v := x.get ra
    if !crListed n then .exc { code := 0x10 } s
    else if !crWrites x.steward n then .exc { code := 0x12 } s
    else if 0x68 ≤ n then
      match s.uwAt x (n - 0x68) with
      | .mem a => .done x.step (s.thrWrite x a (leBytes 4 v.toNat))
      | p => .done (x.uwPut v p).step s
    else .done (x.crPut n v).step s

/-! ### Service calls and breakpoints (R275, R284, R286) -/

/-- Services that the runtime knows (Table 13.6). -/
def knownService (n : Nat) : Bool :=
  [0x0001, 0x0002, 0x0010, 0x0011, 0x0012, 0x0020, 0x0030, 0x0040, 0x0050, 0x0060, 0x0070].contains n

/-- A user register of a thread that waits in steward mode at WDEPTH 0 since its service call: w0 to w15 lie in its increment. -/
def Thread.userReg (x : Thread) (j : Nat) : Nat := (x.uwGet (x.uwPlace [] j)).toNat

/-- Results of a service put into the user window. -/
def Thread.setResults (x : Thread) (rs : List (Nat × Nat)) : Thread :=
  rs.foldl (fun (x : Thread) r => x.uwPut (BitVec.ofNat 32 r.2) (x.uwPlace [] r.1)) x

/-- A service returns to its caller with results in w1 to w6 (R284). -/
def State.svcReturn (s : State) (x : Thread) (rs : List (Nat × Nat)) : State :=
  let y : Thread := { x.setResults rs with job := x.job.map fun j => { j with svc := none } }
  match s.eret y with
  | .ok (z, s1) => s1.setThr z
  | .error (c, s1) => s1.stopThread y c

/-- SVC: completes and enters the runtime; PRIV_INSN in steward mode. The runtime takes up a service that it knows in the row of that
service, and answers any other with UNSUPPORTED at once (R275, R286). -/
def execSvc (h : ThrId) (imm : BitVec 16) (s : State) : Out :=
  s.ends (match s.thr h with
    | none => s
    | some x =>
      if !s.executes x then s
      else
        let s0 := s.issued h
        match s0.fetchExc x with
        | some e => s0.raiseExc x e
        | none =>
          if x.steward then s0.raiseExc x { code := 0x11 }
          else
            let s1 := s0.raiseExc x { code := 0x02, next := true }
            match s1.thr h with
            | some y => match y.job with
              | some j =>
                if !y.steward then s1
                else if knownService imm.toNat then s1.setThr { y with job := some { j with svc := some imm.toNat } }
                else s1.svcReturn y [(1, 15)]
              | none => s1
            | none => s1)

/-- BREAK: completes and enters the runtime, which counts and logs it and goes on (R275, R292); PRIV_INSN in steward mode. -/
def execBrk (h : ThrId) (_imm : BitVec 16) (s : State) : Out :=
  s.insn h fun x s => .exc (if x.steward then { code := 0x11 } else { code := 0x03, next := true }) s

/-- UNDEFINED_ENCODING: an unassigned OP or FN, or a reserved field that is not zero (R259, R261). -/
def execUndefinedEncoding (h : ThrId) (_w : Word) (s : State) : Out := s.insn h fun _ s => .exc { code := 0x10 } s

/-! ### Commands and interrupts from outside (R250, R254, R273) -/

/-- THREAD_START: the reset values of Table 11.3, both banks and the file zero, no increment; the thread starts at SVEC, which is 0, in
steward mode (R254). The steward core has one thread. -/
def execThreadStart (h : ThrId) (s : State) : Out :=
  s.ends (
    if !s.hasTile h.tile || (h.core.val == 8 && h.thr.val == 1) || (h.core.val != 8 && !s.blockOn (.core h.tile)) then s
    else if ((s.thr h).bind fun x => x.job).isSome then s
    else s.setThr { id := h, running := true })

/-- THREAD_WAKE: a thread in WAIT goes on (R273). -/
def execThreadWake (h : ThrId) (s : State) : Out :=
  s.ends (match s.thr h with
    | some x => if x.waiting then s.setThr { x with waiting := false } else s
    | none => s)

/-- INTERRUPT: QUANTUM or SIGNAL becomes pending; it ends a WAIT, and is taken at once in user mode (R250, R273). -/
def execInterrupt (h : ThrId) (quantum : Bool) (s : State) : Out :=
  s.ends (match s.thr h with
    | none => s
    | some x =>
      if !x.running || x.stop.isSome then s
      else
        let y : Thread := { x with irqQuantum := x.irqQuantum || quantum, irqSignal := x.irqSignal || !quantum, waiting := false }
        if x.steward then s.setThr y else s.takePending y)

end Sys2Proof.Machine
end

