-- ==== Sys2Proof/Machine/LoadStore.lean ====
section
/-! DEFINITION. Machine/LoadStore.lean: loads, stores, generator accesses and atomic operations (R267 to R270, Tables 12.4 and 12.5). -/

namespace Sys2Proof.Machine

open Sys2Proof

/-- A load of `n` bytes at an address, extended by `ext` (R267). -/
def State.loadOp (s : State) (h : ThrId) (rd ra : Reg) (imm : BitVec 16) (n : Nat) (ecc : Ecc) (ext : Nat → Word) : Out :=
  s.insn h fun x s => match s.load x (x.ea ra imm) n 0 ecc with
    | .error (e, s1) => .exc e s1
    | .ok (v, s1) => .done (x.put rd (ext v)).step s1

/-- A value of `8 n` bits extended with its sign bit. -/
def sext (n v : Nat) : Word := BitVec.ofInt 32 (if v < 2 ^ (8 * n - 1) then (v : Int) else (v : Int) - 2 ^ (8 * n))

/-- A value extended with zeros. -/
def zext (v : Nat) : Word := BitVec.ofNat 32 v

/-- A store of the low `n` bytes of a register (R267). -/
def State.storeOp (s : State) (h : ThrId) (rs ra : Reg) (imm : BitVec 16) (n : Nat) : Out :=
  s.insn h fun x s => match s.store x (x.ea ra imm) n 0 (x.get rs) with
    | .error (e, s1) => .exc e s1
    | .ok s1 => .done x.step s1

/-- LB: sign-extended byte. -/
def execLb (h : ThrId) (rd ra : Reg) (imm : BitVec 16) (ecc : Ecc) (s : State) : Out :=
  s.loadOp h rd ra imm 1 ecc (sext 1)

/-- LBU. -/
def execLbu (h : ThrId) (rd ra : Reg) (imm : BitVec 16) (ecc : Ecc) (s : State) : Out :=
  s.loadOp h rd ra imm 1 ecc zext

/-- LH: sign-extended half-word. -/
def execLh (h : ThrId) (rd ra : Reg) (imm : BitVec 16) (ecc : Ecc) (s : State) : Out :=
  s.loadOp h rd ra imm 2 ecc (sext 2)

/-- LHU. -/
def execLhu (h : ThrId) (rd ra : Reg) (imm : BitVec 16) (ecc : Ecc) (s : State) : Out :=
  s.loadOp h rd ra imm 2 ecc zext

/-- LW. -/
def execLw (h : ThrId) (rd ra : Reg) (imm : BitVec 16) (ecc : Ecc) (s : State) : Out :=
  s.loadOp h rd ra imm 4 ecc zext

/-- SB. -/
def execSb (h : ThrId) (rs ra : Reg) (imm : BitVec 16) (s : State) : Out := s.storeOp h rs ra imm 1

/-- SH. -/
def execSh (h : ThrId) (rs ra : Reg) (imm : BitVec 16) (s : State) : Out := s.storeOp h rs ra imm 2

/-- SW. -/
def execSw (h : ThrId) (rs ra : Reg) (imm : BitVec 16) (s : State) : Out := s.storeOp h rs ra imm 4

/-! ### Generator accesses (R244, R245, R268) -/

/-- A generator of a thread. -/
def Thread.gen (x : Thread) (g : Fin 4) : Gen := (x.gens[g.val]?).getD {}

/-- The thread with a generator advanced. -/
def Thread.advance (x : Thread) (g : Fin 4) : Thread := { x with gens := setAt x.gens g.val (x.gen g).advance }

/-- LD.G: SX 1 with a word is ILLEGAL; GEN_CFG before the access; OFF advances only when it succeeds. -/
def execLdG (h : ThrId) (rd : Reg) (g : Fin 4) (sz : AccSize) (sx : Bool) (ecc : Ecc) (s : State) : Out :=
  s.insn h fun x s =>
    let n := accBytes sz
    if sx && sz == .w then .exc { code := 0x10 } s
    else if !(x.gen g).valid then .exc { code := 0x40, sz := szCode n, gn := g.val } s
    else match s.load x ((x.gen g).ea n) n g.val ecc with
      | .error (e, s1) => .exc e s1
      | .ok (v, s1) => .done ((x.advance g).put rd (if sx then sext n v else zext v)).step s1

/-- ST.G: SX 1 is ILLEGAL. -/
def execStG (h : ThrId) (rs : Reg) (g : Fin 4) (sz : AccSize) (sx : Bool) (s : State) : Out :=
  s.insn h fun x s =>
    let n := accBytes sz
    if sx then .exc { code := 0x10 } s
    else if !(x.gen g).valid then .exc { code := 0x40, sz := szCode n, store := true, gn := g.val } s
    else match s.store x ((x.gen g).ea n) n g.val (x.get rs) with
      | .error (e, s1) => .exc e s1
      | .ok s1 => .done (x.advance g).step s1

/-! ### Atomic operations (R269, R270) -/

/-- An atomic operation: RD takes the old word. -/
def State.atomicOp (s : State) (h : ThrId) (rd ra rb : Reg) (ecc : Ecc) (f : Word → Word → Word → Word) : Out :=
  s.insn h fun x s => match s.atomic x (x.get ra).toNat ecc fun old => f old (x.get rb) (x.get rd) with
    | .error (e, s1) => .exc e s1
    | .ok (old, s1) => .done (x.put rd old).step s1

/-- AMOSWAP: b. -/
def execAmoswap (h : ThrId) (rd ra rb : Reg) (ecc : Ecc) (s : State) : Out :=
  s.atomicOp h rd ra rb ecc fun _ b _ => b

/-- AMOADD: old + b. -/
def execAmoadd (h : ThrId) (rd ra rb : Reg) (ecc : Ecc) (s : State) : Out :=
  s.atomicOp h rd ra rb ecc fun old b _ => old + b

/-- AMOAND: old & b. -/
def execAmoand (h : ThrId) (rd ra rb : Reg) (ecc : Ecc) (s : State) : Out :=
  s.atomicOp h rd ra rb ecc fun old b _ => old &&& b

/-- AMOOR: old | b. -/
def execAmoor (h : ThrId) (rd ra rb : Reg) (ecc : Ecc) (s : State) : Out :=
  s.atomicOp h rd ra rb ecc fun old b _ => old ||| b

/-- CAS: b when the old word equals d, else the old word. -/
def execCas (h : ThrId) (rd ra rb : Reg) (ecc : Ecc) (s : State) : Out :=
  s.atomicOp h rd ra rb ecc fun old b d => if old = d then b else old

end Sys2Proof.Machine
end

