-- ==== Sys2Proof/Machine/Mirror.lean ====
section
/-! DEFINITION. Machine/Mirror.lean: the 06xxh messages, the frames of the rein link, and what its timers do (chapter 19). -/

namespace Sys2Proof.Machine

open Sys2Proof

/-! ### 06xxh messages (Tables 19.1 and 19.2) -/

/-- A 06xxh message other than PAIR_QUERY: NOT_PAIRED while PAIR_EN was sampled 0, or, where the message needs a binding, while no peer is
bound (R395, Table 19.2). -/
def State.pairRun (s : State) (q : Req) (op : Nat) (bound : Bool) (act : State → Answer) : State :=
  s.lmcsRun q op fun _ s =>
    if !s.boot.pairEn || (bound && s.cfg.body.pair.isNone) then refuse s 0x8001 else act s

/-- PAIR_QUERY (Table 19.1). -/
def execPairQuery (q : Req) (s : State) : Out :=
  s.ends (s.lmcsRun q 0x0601 fun _ s =>
    let st := s.rd .rein 0x004
    done s (leBytes 1 s.link ++ leBytes 1 (field st 11 8) ++ leBytes 1 (field st 15 12) ++ leBytes 1 (field st 4 3) ++
      leBytes 1 (field st 6 5) ++ zeros 3 ++ fit 16 ((s.cfg.body.pair.map fun p => p.peer).getD []) ++
      leBytes 1 (b2n s.pdMatch) ++ zeros 7))

/-- A change of the configuration store made by a 06xxh message; INTERNAL_ERROR when the store cannot be written. -/
def State.pairStore (s : State) (ok : Bool) (body : StoreBody) (next : State → Answer) : Answer :=
  match s.storeWrite ok body with
  | none => refuse (s.log 2 0 2 8 0 0) 8
  | some s1 => next s1

/-- PAIR_BIND: the peer's UID, PREF and PEPOCH, kept in the configuration store (R396). A link that is up with another peer is held
unpaired until that peer proves the UID. -/
def execPairBind (q : Req) (storeOk : Bool) (s : State) : Out :=
  s.ends (s.pairRun q 0x0602 false fun s =>
    let p := q.body
    if !zeroAt p 17 3 then refuse s 2
    else
      let old := s.pairDigest
      s.pairStore storeOk { s.cfg.body with pair := some ⟨slice 0 16 p, slice 0 24 p⟩ } fun s1 =>
        let other := (s1.mirror.rein.peer.map fun x => x.2.1 != slice 0 16 p).getD false
        let s2 := if other && (s1.link == 2 || s1.link == 3) then s1.pairFail.mirrSettle else s1
        done (s2.pairSync old))

/-- PAIR_UNBIND: no peer is bound, and PD.REIN switches off (R395, R396). -/
def execPairUnbind (q : Req) (storeOk : Bool) (s : State) : Out :=
  s.ends (s.pairRun q 0x0603 true fun s =>
    s.pairStore storeOk { s.cfg.body with pair := none } fun s1 =>
      done (if s1.power.on.contains (1, 5) then s1.domainOff 1 5 else s1.mirrSettle))

/-- NS_MIRROR: the role and policy of a namespace (R397). A claim of the primary role while the paired peer is primary is a
ROLE_CONFLICT; as secondary it makes an old primary drain, which is the first half of a handover (R415). -/
def execNsMirror (q : Req) (storeOk : Bool) (s : State) : Out :=
  s.ends (s.pairRun q 0x0604 true fun s =>
    let p := q.body
    let nsid := leAt p 0 4
    let prim := at1 p 4 == 0
    if 1 < at1 p 4 ∨ 1 < at1 p 5 ∨ !zeroAt p 6 2 ∨ (s.nsOf nsid).isNone then refuse s 2
    else if prim && s.link == 3 && (s.mirrNs nsid).peerPrim == some true then refuse s 0x8003
    else
      let old := s.pairDigest
      let was := ((s.mirrorDef nsid).map fun m => m.primary).getD false
      let ms := s.cfg.body.mirrors.filter (fun m => m.nsid != nsid) ++ [⟨nsid, prim, at1 p 5⟩]
      s.pairStore storeOk { s.cfg.body with mirrors := ms } fun s1 =>
        let m0 := (s1.mirrHist nsid).mseq
        let s2 := if prim && !was then (s1.newTerm nsid (m0 + 1)).onMirrNs nsid fun x => { x with sent := m0 } else s1
        let s3 := s2.pairSync old
        done (if s3.link = 3 ∧ s3.pairDigest = old then (s3.sendState fun _ => 0).mirrSettle else s3))

/-- NS_UNMIRROR: the namespace is mirrored no longer. BUSY while a change of it is in progress (R397). -/
def execNsUnmirror (q : Req) (storeOk : Bool) (s : State) : Out :=
  s.ends (s.pairRun q 0x0605 true fun s =>
    let nsid := leAt q.body 0 4
    if !zeroAt q.body 4 4 ∨ (s.mirrorDef nsid).isNone then refuse s 2
    else if s.mirror.out.any (fun o => o.nsid == nsid) || s.mirror.voids.any (fun v => v.nsid == nsid) then refuse s 5
    else
      let old := s.pairDigest
      s.pairStore storeOk { s.cfg.body with mirrors := s.cfg.body.mirrors.filter fun m => m.nsid != nsid } fun s1 =>
        let s2 := (s1.dropPends nsid 0).dropHist nsid
        let s3 : State := { s2 with mirror := { s2.mirror with ns := s2.mirror.ns.filter fun x => x.nsid != nsid } }
        done (s3.pairSync old))

/-- TAKEOVER on the secondary (R415): PEER_PRESENT while the paired peer is primary; the second half of a handover once nothing is
pending; with the peer unavailable, every acknowledged pending change is applied, and the rest discarded. A new term starts. -/
def execTakeover (q : Req) (s : State) : Out :=
  s.ends (s.pairRun q 0x0606 true fun s =>
    let nsid := leAt q.body 0 4
    match s.mirrorDef nsid with
    | none => refuse s 2
    | some m =>
      if !zeroAt q.body 4 4 then refuse s 2
      else if m.primary then refuse s 0x8003
      else if s.link = 3 ∧ (s.mirrNs nsid).peerPrim ≠ some false then refuse s 0x8005
      else if s.link = 3 ∧ s.mirror.pend.any fun p => p.nsid == nsid then refuse s 5
      else
        let s1 := (s.applyPends nsid (2 ^ 64)).dropPends nsid 0
        let first := (s1.mirrHist nsid).mseq + 1
        let s2 := ((s1.newTerm nsid first).setRole nsid true).onMirrNs nsid fun x =>
          { x with sent := first - 1, full := x.peerTerms == [] && x.peerPrim.isSome }
        let s3 := (s2.storeWrite true s2.cfg.body).getD s2
        let s4 := if s3.link = 3 then s3.sendState fun _ => 0 else s3
        done s4.mirrSettle (leBytes 4 (s4.mirrTerm nsid) ++ leBytes 8 first ++ zeros 4))

/-- SPLIT_RESOLVE: the copy to keep; the other unit becomes secondary with no history and is resynchronised whole (R414). -/
def execSplitResolve (q : Req) (s : State) : Out :=
  s.ends (s.pairRun q 0x0607 true fun s =>
    let nsid := leAt q.body 0 4
    if 1 < at1 q.body 4 ∨ !zeroAt q.body 5 3 ∨ (s.mirrorDef nsid).isNone then refuse s 2
    else if (s.mirrNs nsid).split = 0 then refuse s 0x8004
    else if s.link ≠ 3 then refuse s 0x8002
    else
      let own := at1 q.body 4 == 0
      let s0 := if own then s else (s.dropPends nsid 0).dropHist nsid
      let s1 := (s0.setRole nsid own).onMirrNs nsid fun x =>
        { x with split := 0, full := own, backlog := [], sent := (s0.mirrHist nsid).mseq }
      let s2 := (s1.storeWrite true s1.cfg.body).getD s1
      done ((s2.sendState fun n => if n = nsid then (if own then 1 else 2) else 0).mirrSettle))

/-- The mirror state of a namespace (Table 19.1). -/
def State.nsState (s : State) (nsid : Nat) (m : MirrorDef) : List Byte :=
  let x := s.mirrNs nsid
  leBytes 1 (b2n !m.primary) ++ leBytes 1 m.policy ++ leBytes 1 (s.mirrStateOf nsid) ++ zeros 1 ++
    leBytes 4 (s.mirrTerm nsid) ++ leBytes 8 (s.mirrHist nsid).mseq ++ leBytes 8 x.peerMseq ++
    leBytes 4 (x.backlog.map fun b => b.1).eraseDups.length ++ zeros 4

/-- NS_STATE (Table 19.1). -/
def execNsState (q : Req) (s : State) : Out :=
  s.ends (s.pairRun q 0x0608 true fun s =>
    let nsid := leAt q.body 0 4
    match s.mirrorDef nsid with
    | none => refuse s 2
    | some m => if !zeroAt q.body 4 4 then refuse s 2 else done s (s.nsState nsid m))

/-- LANE_RESTORE: lane retirements cleared (R404). The lanes are trained at the next link-up. -/
def execLaneRestore (q : Req) (storeOk : Bool) (s : State) : Out :=
  s.ends (s.pairRun q 0x0609 false fun s =>
    s.pairStore storeOk { s.cfg.body with lanes := [] } fun s1 =>
      let lane (s : State) (i : Nat) : State :=
        if s.laneState i = 3 then s.wr .rein (0x104 + 0x20 * i) 0 else s
      done ((List.range 10).foldl lane (s1.wr .rein 0x008 0)))

/-! ### Link-up and training (R395, R404) -/

/-- LINK_UP: after step 11, with PAIR_EN and a bound peer, Blustite switches PD.REIN on and every lane that is not retired starts
training at 7 Gb/s (R395, R404). -/
def execLinkUp (s : State) : Out :=
  s.ends (
    if !s.boot.pairEn || s.cfg.body.pair.isNone || !s.boot.reached11 || !s.hasTile 1 || !(s.link == 0 || s.link == 4) then s
    else
      let s1 : State := if s.power.on.contains (1, 5) then s
        else (({ s with power := { s.power with
          on := s.power.on ++ [(1, 5)], changing := s.power.changing.filter fun y => y != (1, 5) } } : State).wrField (.pwr 1) 0 5 5 1).pdStat 1
      let s2 := (List.range 10).foldl (fun (s : State) i => s.wr .rein (0x100 + 0x20 * i) 1) (s1.flag .rein 0x000 0)
      let s3 := s2.wr .rein 0x008 (sumOf (s.cfg.body.lanes.eraseDups.map fun i => 2 ^ i))
      let s4 := (s3.wrField .rein 0x004 6 3 0).onRein fun r => { wire := r.wire }
      ((s4.setLink 1).trainLanes).mirrSettle)

/-- REIN_TRAINING_COMPLETE: the first training of every lane ends: a lane that passes is active with its eye; a lane that fails is
trained again once, after 1 ms (R404). -/
def execReinTrainingComplete (passed : List (Fin 10)) (eyes : List Byte) (s : State) : Out :=
  s.ends (if s.link ≠ 1 then s
    else
      let ok (i : Nat) : Bool := passed.any fun l => l.val == i
      let lane (s : State) (i : Nat) : State :=
        let st := s.rd .rein (0x104 + 0x20 * i)
        if st % 4 ≠ 1 ∨ bitN st 10 then s
        else if ok i then s.wr .rein (0x104 + 0x20 * i) (2 + at1 eyes i * 4)
        else s.wr .rein (0x104 + 0x20 * i) (1 + 1024)
      ((List.range 10).foldl lane s).trainEnd)

/-- LANE_TRAINING_RETRY: the second training of a lane; a lane that fails it is retired, and the retirement is kept in the
configuration store (R404). -/
def execLaneTrainingRetry (lane : Fin 10) (ok : Bool) (eye : Byte) (storeOk : Bool) (s : State) : Out :=
  s.ends (
    let o := 0x104 + 0x20 * lane.val
    let st := s.rd .rein o
    if s.link ≠ 1 ∨ st % 4 ≠ 1 ∨ !bitN st 10 then s
    else if ok then (s.wr .rein o (2 + eye.toNat * 4 + 1024)).trainEnd
    else
      let body := { s.cfg.body with lanes := (s.cfg.body.lanes ++ [lane.val]).eraseDups }
      let s1 := (s.storeWrite storeOk body).getD ({ s with cfg := { s.cfg with body := body } })
      ((((s1.wr .rein o (3 + 1024)).flag .rein 0x008 lane.val).flag .rein 0x020 2).retireNotice 8 5 lane.val 0xA4).trainEnd)

/-! ### Frames (Table 19.6) -/

/-- WHDR: a change pending on the secondary, in place of any pending one that had its MSEQ or a later one; DATA follow it when DBYTES is not zero, otherwise it is staged at once (R401, R408). -/
def execWhdr (fr : Frame) (s : State) : Out :=
  s.ends (s.reinTake fr false fun s =>
    let b := fr.payload
    let nsid := leAt b 12 4
    let p : MirrPend := { nsid := nsid, mseq := leAt b 0 8, term := leAt b 8 4, slba := leAt b 16 8, nlb := leAt b 24 4,
                          op := at1 b 28, fua := bitN (at1 b 29) 0, dbytes := leAt b 32 4 }
    match s.mirrorDef nsid with
    | none => s.sendReject nsid p.mseq
    | some m =>
      if m.primary || s.link != 3 || (s.mirrNs nsid).split != 0 || p.op == 0 || 4 < p.op then s.sendReject nsid p.mseq
      else
        let s0 := s.dropPends nsid p.mseq
        let s1 : State := { s0 with mirror := { s0.mirror with pend := s0.mirror.pend ++ [p] } }
        if p.dbytes = 0 then s1.stagePend p else s1.onRein fun r => { r with cur := some (nsid, p.mseq) })

/-- DATA of the last WHDR: at most DBYTES of it are staged; bytes beyond are discarded and answered with REJECT (R408). -/
def execData (fr : Frame) (s : State) : Out :=
  s.ends (s.reinTake fr true fun s =>
    match s.mirror.rein.cur with
    | none => s
    | some (n, m) => match s.mirror.pend.find? fun p => p.nsid == n && p.mseq == m with
      | none => s
      | some p =>
        if p.reject then s
        else if p.dbytes < p.data.length + fr.payload.length then s.rejectPend p
        else
          let p1 : MirrPend := { p with data := p.data ++ fr.payload }
          let s1 : State := { s with mirror := { s.mirror with pend := s.mirror.pend.map fun y => if y == p then p1 else y } }
          if p1.data.length = p.dbytes then s1.stagePend p1 else s1)

/-- MACK STAGED up to an MSEQ: the commit point of the primary's changes, in MSEQ order: each commits here, CONFIRM goes out, and its
command completes, one with FUA when the change is durable on both units (R401, R411, R413). -/
def State.mackStaged (s : State) (nsid mseq : Nat) : State :=
  let os := sortBy (fun (a b : MirrOut) => a.lo < b.lo) (s.mirror.out.filter fun o => o.nsid == nsid && o.hi ≤ mseq && !o.acked && !s.voidAwaits nsid o.hi)
  let one (s : State) (o : MirrOut) : State :=
    let keep := o.fua && o.who != .resend
    let s1 := if o.who = .resend then
        (List.range (o.hi + 1 - o.lo)).foldl (fun (s : State) i => s.mirrRecord 1 0 nsid o.term (o.lo + i) []) s
      else ((s.commitGroup nsid o.group o.term o.lo o.hi).backlogAdd nsid o.hi o.parts).releaseWho o.who
    let s2 : State := { s1 with mirror := { s1.mirror with
      out := if keep then s1.mirror.out.map fun y => if y == o then { y with acked := true } else y else s1.mirror.out.erase o } }
    let s3 := s2.onMirrNs nsid fun x =>
      let rs := x.resends.filter fun r => o.hi < r
      { x with peerMseq := max x.peerMseq o.hi, resends := rs, full := x.full && !(o.who == .resend && rs == []) }
    s3.reinSend 0 4 (leBytes 4 nsid ++ zeros 4 ++ leBytes 8 o.hi)
  os.foldl one s

/-- MACK DURABLE up to an MSEQ: backlog entries at or below it are freed, and changes with FUA are durable on the peer (R401,
R413). -/
def State.mackDurable (s : State) (nsid mseq : Nat) : State :=
  let s1 : State := { s with mirror := { s.mirror with
    out := s.mirror.out.filter fun o => !(o.nsid == nsid && o.acked && o.hi ≤ mseq) } }
  s1.onMirrNs nsid fun x =>
    { x with peerDur := max x.peerDur mseq, backlog := x.backlog.filter fun b => mseq < b.2
             applied := x.applied.filter fun a => mseq < a.1 }

/-- MACK (R401). A unit that has drained its last change after a change of role tells its role (R415). -/
def execMack (fr : Frame) (s : State) : Out :=
  s.ends (s.reinTake fr false fun s =>
    let b := fr.payload
    let nsid := leAt b 0 4
    let had := s.mirror.out.any fun o => o.nsid == nsid
    let s1 := if bitN (at1 b 4) 0 then s.mackStaged nsid (leAt b 8 8) else s
    let s2 := if bitN (at1 b 4) 1 then s1.mackDurable nsid (leAt b 8 8) else s1
    let drained := had && !s2.mirror.out.any fun o => o.nsid == nsid
    if drained && ((s2.mirrorDef nsid).map fun m => !m.primary).getD false && s2.link == 3 then s2.sendState fun _ => 0 else s2)

/-- CONFIRM: the secondary applies its pending changes up to an MSEQ, in MSEQ order, and reports what is durable (R401). -/
def execConfirm (fr : Frame) (s : State) : Out :=
  s.ends (s.reinTake fr false fun s =>
    let nsid := leAt fr.payload 0 4
    (s.applyPends nsid (leAt fr.payload 8 8)).mirrDurable nsid)

/-- VOID: the pending change and those after it are discarded, the new term is recorded, and VOIDACK is returned (R402). -/
def execVoid (fr : Frame) (s : State) : Out :=
  s.ends (s.reinTake fr false fun s =>
    let b := fr.payload
    let nsid := leAt b 0 4
    let term := leAt b 8 4
    let mseq := leAt b 16 8
    if at1 b 4 ≠ 0 ∨ (s.mirrorDef nsid).isNone then s
    else
      let s1 := (s.dropPends nsid mseq).mirrRecord 2 0 nsid term mseq ((s.cfg.body.pair.map fun x => x.peer).getD [])
      s1.reinSend 0 5 (leBytes 4 nsid ++ leBytes 1 1 ++ zeros 3 ++ leBytes 4 term ++ zeros 4 ++ leBytes 8 mseq))

/-- VOIDACK: the command of the withdrawn change ends (R402). -/
def execVoidack (fr : Frame) (s : State) : Out :=
  s.ends (s.reinTake fr false fun s =>
    let b := fr.payload
    if at1 b 4 ≠ 1 then s
    else match s.mirror.voids.find? fun v => v.nsid == leAt b 0 4 && v.mseq == leAt b 16 8 with
      | none => s
      | some v => s.goneVoid v)

/-- REJECT: the primary withdraws the change, and its command ends with C6h (R402, R408). -/
def execReject (fr : Frame) (s : State) : Out :=
  s.ends (s.reinTake fr false fun s =>
    match s.rejectAt (leAt fr.payload 0 4) (leAt fr.payload 8 8) with
    | none => s
    | some o => s.doVoid o .peerUnavailable)

/-- HELLO: the peer's nonce, UID, digest and PREF; a UID other than the bound one holds the link unpaired; this unit answers with
PROOF, and the digests are compared (R398, R407). -/
def execHello (fr : Frame) (s : State) : Out :=
  s.ends (s.reinTake fr false fun s =>
    let b := fr.payload
    if at1 b 0 ≠ 1 then s
    else
      let s1 := s.onRein fun r => { r with peer := some (slice 8 32 b, slice 40 16 b, slice 56 32 b, at1 b 88) }
      if (s.cfg.body.pair.map fun p => fit 16 p.peer != slice 40 16 b).getD true then s1.pairFail else s1.sendProof.pairCheck)

/-- CHAIN: the next bytes of the peer's certificate chain (R407). -/
def execChain (fr : Frame) (s : State) : Out :=
  s.ends (s.reinTake fr false fun s =>
    let o := leAt fr.payload 4 4
    if at1 fr.payload 0 ≠ 2 then s
    else s.onRein fun r =>
      if o = 0 then { r with chain := fr.payload.drop 8 }
      else if o = r.chain.length then { r with chain := r.chain ++ fr.payload.drop 8 } else r)

/-- PROOF: the chain must check, its key must give the UID of the HELLO, and the signature must cover both nonces and both UIDs;
otherwise the link is held unpaired and the event logged (R407). -/
def execProof (fr : Frame) (s : State) : Out :=
  s.ends (s.reinTake fr false fun s =>
    if at1 fr.payload 0 ≠ 3 then s
    else match s.mirror.rein.peer with
      | none => s.pairFail
      | some p =>
        let key := Config.chainKey s.mirror.rein.chain
        let msg := p.1 ++ s.mirror.rein.nonce ++ p.2.1 ++ fit 16 s.fuses.uid
        if key ≠ [] ∧ shake256 key 16 = p.2.1 ∧ Config.mldsaVerify key (ascii "LTRREIN") msg (slice 8 3309 fr.payload) then
          (s.onRein fun r => { r with proofOk := true }).pairCheck
        else s.pairFail)

/-- HELLO_RETRY: no PROOF has come within 100 ms of this unit's HELLO (R407). -/
def execHelloRetry (s : State) : Out :=
  s.ends (if s.link = 2 ∧ !s.mirror.rein.proofOk ∧ !s.mirror.rein.failed then s.sendHello.mirrSettle else s)

/-- STATE: the histories compared for each mirrored namespace (R412). -/
def execState (fr : Frame) (s : State) : Out :=
  s.ends (s.reinTake fr false fun s =>
    let es := stateEntries (leAt fr.payload 0 4) (fr.payload.drop 4)
    es.foldl (fun (s : State) e => s.compareHist e.1 e.2.1 e.2.2.1 e.2.2.2.1 e.2.2.2.2) s)

/-- A step of this transmitter that the receiver has locked to (R405). -/
def State.stepDone (s : State) : State :=
  (((s.onRein fun r => { r with step := none }).count .rein 0x05C 1).flag .rein 0x020 3).reinPump

/-- RATE: with LOCKED, this transmitter's step is done; without, the peer's transmitter steps and the receiver here relocks (R405). -/
def execRate (fr : Frame) (s : State) : Out :=
  s.ends (s.reinTake fr false fun s =>
    if at1 fr.payload 1 = 1 then
      (if (s.mirror.rein.step.map fun x => x.phase == 1).getD false then s.stepDone else s)
    else s.onRein fun r => { r with relock := some (at1 fr.payload 0) })

/-- RECEIVER_RELOCK: the receiver locks to the rate that the peer named and reports LOCKED (R405). -/
def execReceiverRelock (s : State) : Out :=
  s.ends (match s.mirror.rein.relock with
    | none => s
    | some v =>
      let s1 := ((s.onRein fun r => { r with relock := none }).wrField .rein 0x004 6 5 v).flag .rein 0x020 3
      s1.reinSend 0 9 (leBytes 1 v ++ leBytes 1 1 ++ zeros 6))

/-- NAK: frames from the one wanted are sent again with RETX (R407). -/
def execNak (fr : Frame) (s : State) : Out :=
  s.ends (s.reinTakeUnseq fr fun s => s.reinAgain fr.seq.toNat)

/-- PING: the peer is there; its ACK counts (R409). -/
def execPing (fr : Frame) (s : State) : Out := s.ends (s.reinTakeUnseq fr fun s => s)

/-- MALFORMED_FRAME: the faults of Table 19.7 that the receiver finds before a frame is taken (R407). `lanes` are the lanes whose mark
was missed. -/
def execMalformedFrame (fault : FrameFault) (lanes : List (Fin 10)) (s : State) : Out :=
  s.ends (if s.link ≠ 2 ∧ s.link ≠ 3 then s
    else match fault with
      | .mark => lanes.foldl (fun (s : State) i => s.count .rein (0x108 + 0x20 * i.val) 1) s
      | .hcrc => s.count .rein 0x050 1
      | .len | .crc => ((s.count .rein 0x054 1).reinFail).mirrSettle
      | .type | .gap => s.reinFail.mirrSettle)

/-! ### Timers (R402 to R409) -/

/-- RETRANSMIT_TIMEOUT: 50 µs without ACK progress while HOLD is clear: the sender goes back to the oldest unacknowledged frame
(R407, R410). -/
def execRetransmitTimeout (s : State) : Out :=
  s.ends (match s.mirror.rein.unacked.head? with
    | none => s
    | some f =>
      if (s.link ≠ 2 ∧ s.link ≠ 3) ∨ s.rdField .rein 0x004 16 16 = 1 then s else (s.reinAgain f.seq).mirrSettle)

/-- MACK_TMO: no MACK STAGED came for a change while the link is paired (R402). -/
def execMackTmo (nsid mseq : Nat) (s : State) : Out :=
  s.ends (match s.outAt nsid mseq with
    | none => s
    | some o => if s.link = 3 then (s.doVoid o .peerUnavailable).mirrSettle else s)

/-- PEER_TMO: no frame has arrived for PEER_TMO: the peer is unavailable (R403). -/
def execPeerTmo (s : State) : Out :=
  s.ends (if s.link = 2 ∨ s.link = 3 then (s.onRein fun r => { r with silent := true }).mirrSettle else s)

/-- Gb/s of a rate code. -/
def rateGbps (c : Nat) : Nat := if c = 0 then 7 else if c = 1 then 14 else 28

/-- A rate step begun: RATE names the new rate (R405). -/
def State.rateStep (s : State) (v : Nat) (retry : Bool) : State :=
  (s.onRein fun r => { r with step := some ⟨v, s.rdField .rein 0x004 4 3, 0, retry⟩, low := 0 }).reinSend 0 9
    (leBytes 1 v ++ zeros 7)

/-- UTILISATION_WINDOW: 1 ms of the transmitter, with the frame bytes sent: a step up above STEP_UP, below RATE_MAX; a step down after
100 windows that the lower rate would have carried below STEP_DOWN (R405, Table 19.9). -/
def execUtilisationWindow (frameBytes : Nat) (s : State) : Out :=
  s.ends (
    if (s.link ≠ 2 ∧ s.link ≠ 3) ∨ s.mirror.rein.step.isSome ∨ s.rdField .rein 0x004 18 18 = 1 then s
    else
      let c := s.rdField .rein 0x004 4 3
      let lanes := s.rdField .rein 0x004 11 8
      let cap (x : Nat) : Nat := lanes * rateGbps x * 125000
      if cap c * s.param 0x23 0 75 < frameBytes * 100 ∧ rateGbps c < s.param 0x25 0 28 then s.rateStep (c + 1) false
      else if 0 < c ∧ frameBytes * 100 < cap (c - 1) * s.param 0x24 0 40 then
        (if 99 ≤ s.mirror.rein.low then s.rateStep (c - 1) false else s.onRein fun r => { r with low := r.low + 1 })
      else s.onRein fun r => { r with low := 0 })

/-- LOCKED_TIMEOUT: no LOCKED came within 50 µs: both ends return to the old rate, and the step is tried again after 1 ms (R405). -/
def execLockedTimeout (s : State) : Out :=
  s.ends (
    let s0 := s.onRein fun r => { r with relock := none }
    match s.mirror.rein.step with
    | none => s0
    | some st =>
      if st.phase ≠ 1 then s0
      else ((s0.wrField .rein 0x004 4 3 st.old).onRein fun r => { r with step := some { st with phase := 2, retry := true } }).reinPump)

/-- RATE_STEP_RETRY: the step tried again; a second failure caps the direction at the old rate until the next link-up and is logged
(R405). -/
def execRateStepRetry (locked : Bool) (s : State) : Out :=
  s.ends (match s.mirror.rein.step with
    | none => s
    | some st =>
      if st.phase ≠ 2 then s
      else
        let s1 := s.reinSend 0 9 (leBytes 1 st.rate ++ zeros 7)
        if locked then (s1.wrField .rein 0x004 4 3 st.rate).stepDone
        else (((s1.onRein fun r => { r with step := none }).flag .rein 0x004 18).log 0 0 5 8 0 st.rate).reinPump)

/-- PING_INTERVAL: 100 µs in which the transmitter was idle: PING; and the secondary reports what has become durable (R401,
R409). -/
def execPingInterval (s : State) : Out :=
  s.ends (if s.link ≠ 2 ∧ s.link ≠ 3 then s
    else (s.cfg.body.mirrors.filter fun m => !m.primary).foldl (fun (s : State) m => s.mirrDurable m.nsid) s.reinPing)

/-! ### Catch-up (R413) -/

/-- What a grain of a span is resent as: 2 zeroes, 3 deallocate, or 4 in stored form with its protection information; nothing for a
grain that cannot be read. -/
def State.resendOf (s : State) (ns : Namespace) (g : Nat) (env : MediaEnv) : Option (Nat × List Byte) × State :=
  let p := grainPlace s.n ns.nsid g
  let k : GKey := ⟨ns.nsx, p.2⟩
  let f := (s.tileAt p.1).ftl
  let r := s.readGrain ns g env
  let z : Bool := match f.visible k with
    | some x => match x.kind with
      | .zero .zeroed => true
      | _ => false
    | none => (f.entry k).state == .zeroed
  let lvl := if (f.visible k).isNone && !((f.storedAt k (f.entry k).loc).map fun y => y.cmp).getD false then 0
    else s.grainLevel p.1 ns.nsx s.cinch.cur
  match r.1 with
  | .zeros => (some (if z then 2 else 3, []), r.2)
  | .data b => (some (4, (storeGrain lvl (b.take ns.grain)).2 ++ slice ns.grain (ns.perGrain * ns.mdSize) b), r.2)
  | .lost => (none, r.2)

/-- The grains of a span as changes: neighbours of one kind share one. -/
def State.resendParts (s : State) (ns : Namespace) (env : MediaEnv) : Nat → Nat → List MirrPart × State
  | _, 0 => ([], s)
  | g, n + 1 =>
    let r := s.resendOf ns g env
    let rest := r.2.resendParts ns env (g + 1) n
    match r.1 with
    | none => rest
    | some (op, d) =>
      let lba := g * ns.perGrain
      match rest.1 with
      | p :: ps =>
        if p.op = op ∧ p.slba = lba + ns.perGrain then (⟨op, lba, ns.perGrain + p.nlb, d ++ p.data⟩ :: ps, rest.2)
        else (⟨op, lba, ns.perGrain, d⟩ :: p :: ps, rest.2)
      | [] => ([⟨op, lba, ns.perGrain, d⟩], rest.2)

/-- One span resent: its changes take MSEQs of their own and go out under index 2 of the arbiter (R409, R413). -/
def State.resendSpan (s : State) (ns : Namespace) (env : MediaEnv) (sp : Nat) : State :=
  let total := ceilDiv ns.blocks ns.perGrain
  let lo := sp * 512
  let r := s.resendParts ns env lo (min 512 (total - lo))
  if r.1 = [] then r.2
  else
    let sent := (r.2.mirrNs ns.nsid).sent
    let term := r.2.mirrTerm ns.nsid
    let hi := sent + r.1.length
    let o : MirrOut := { nsid := ns.nsid, term := term, lo := sent + 1, hi := hi, group := 0, who := .resend, fua := false, parts := r.1 }
    let fs := r.1.zipIdx.flatMap fun p => changeFrames 2 ns.nsid (sent + 1 + p.2) term false p.1
    let s1 : State := { r.2 with mirror := { r.2.mirror with out := r.2.mirror.out ++ [o] } }
    let s2 := s1.onMirrNs ns.nsid fun x => { x with sent := hi, resends := x.resends ++ [hi] }
    (s2.onRein fun q => { q with queue := q.queue ++ fs }).reinPump

/-- CATCH_UP: the primary resends each span listed above the peer's MSEQ, or every span after a full ring or to a peer with no history
(R413). -/
def execCatchUp (nsid : Nat) (env : MediaEnv) (s : State) : Out :=
  s.ends (match s.mirrorDef nsid, s.nsOf nsid with
    | some m, some ns =>
      let x := s.mirrNs nsid
      if !m.primary || s.link != 3 || x.split != 0 || x.peerPrim == some true || x.resends != [] then s
      else
        let due := if x.full then List.range ns.spans
          else ((x.backlog.filter fun b => x.peerMseq < b.2).map fun b => b.1).eraseDups
        (due.foldl (fun (s : State) sp => s.resendSpan ns env sp) s).mirrSettle
    | _, _ => s)

end Sys2Proof.Machine
end

