-- ==== Sys2Proof/Machine/Identity.lean ====
section
/-! DEFINITION. Machine/Identity.lean: certificates, ownership, firmware images and slots, debug unlock (chapter 16). -/

namespace Sys2Proof.Machine

open Sys2Proof

/-! ### Keys and digests (R349, R352) -/

/-- The 32-byte digest of a public key. -/
def keyDigest (pub : List Byte) : List Byte := shake256 pub 32

/-- The public key of the owner entry in use, and the entry's number. -/
def State.ownerEntry (s : State) : Option (Nat × List Byte) :=
  s.fuses.owners.zipIdx.findSome? fun e => match e.1 with
    | .inUse k => some (e.2, k)
    | _ => none

/-- The number of the next free owner entry. -/
def State.freeOwner (s : State) : Option Nat :=
  s.fuses.owners.zipIdx.findSome? fun e => if e.1 = .free then some e.2 else none

/-- The state with an owner entry written. -/
def State.setOwner (s : State) (i : Nat) (e : OwnerEntry) : State :=
  { s with fuses := { s.fuses with owners := setAt s.fuses.owners i e } }

/-! ### Images (Table 16.1, R349) -/

/-- MAGIC to the unused bytes of the header area in range (step 1 of R349). -/
def imageFields (m : List Byte) : Bool :=
  let nsec := at1 m 7
  let plen := leAt m 16 4
  leAt m 0 4 == 0x5746544C && at1 m 4 == 1 && at1 m 5 ≤ 1 && at1 m 6 ≤ 128 && 1 ≤ nsec && nsec ≤ 8 && leAt m 8 2 < 8 &&
  zeroAt m 10 2 && plen % 4096 == 0 && plen ≤ 8388608 && zeroAt m 20 4 && zeroAt m 224 32 && zeroAt m 3565 19 && zeroAt m 5536 2656 &&
  (List.range 8).all fun i =>
    let o := 96 + 16 * i
    if i < nsec then 1 ≤ at1 m o && at1 m o ≤ 4 && zeroAt m (o + 1) 3 && zeroAt m (o + 12) 4 && leAt m (o + 4) 4 + leAt m (o + 8) 4 ≤ plen
    else zeroAt m o 16

/-- The PARTMASK bit of a part. -/
def Part.bit : Part → Nat
  | .ltr2032 => 0
  | .ltr4064 => 1
  | .ltr8128 => 2

/-- Whether an image's signer is a fuse entry that has not been revoked and KEYID matches (step 4 of R349). -/
def State.signerOk (s : State) (m : List Byte) : Bool :=
  let pub := slice 3584 1952 m
  let known := if at1 m 5 = 0 then s.fuses.fwKeys.any fun k => !k.2 && keyDigest k.1 == keyDigest pub
    else (s.ownerEntry.map fun e => keyDigest e.2 == keyDigest pub).getD false
  known && slice 24 8 m == (keyDigest pub).take 8

/-- The step of R349 at which an image fails; none for a valid one. -/
def State.imageStep (s : State) (m : List Byte) : Option Nat :=
  let plen := leAt m 16 4
  if !imageFields m then some 1
  else if !bitN (leAt m 8 2) s.fuses.part.bit then some 2
  else if at1 m 6 < s.fuses.rollback then some 3
  else if !s.signerOk m then some 4
  else if !Config.mldsaVerify (slice 3584 1952 m) (ascii "LTRFW") (slice 0 256 m) (slice 256 3309 m) then some 5
  else if m.length < 8192 + plen || shake256 (slice 8192 plen m) 64 != slice 32 64 m then some 6
  else none

/-- Whether an image is valid on this part (R349). -/
def State.imageValid (s : State) (m : List Byte) : Bool := (s.imageStep m).isNone

/-- The bytes of an image's sections of a type. -/
def imageSection (m : List Byte) (type : Nat) : List Byte :=
  (List.range (min 8 (at1 m 7))).flatMap fun i =>
    let o := 96 + 16 * i
    if at1 m o = type then slice (8192 + leAt m (o + 4) 4) (leAt m (o + 8) 4) m else []

/-! ### Boot slots (R350) -/

/-- The two copies of a slot: 0 A, 1 B. -/
def State.slotCopies (s : State) (i : Nat) : FwCopy × FwCopy :=
  if i = 0 then (s.ident.a0, s.ident.a1) else (s.ident.b0, s.ident.b1)

/-- The state with a slot's copies written. -/
def State.setSlot (s : State) (i : Nat) (c : FwCopy × FwCopy) : State :=
  { s with ident := if i = 0 then { s.ident with a0 := c.1, a1 := c.2 } else { s.ident with b0 := c.1, b1 := c.2 } }

/-- The rank of a slot: the highest SEQ among its copies whose descriptor checks. -/
def State.slotSeq (s : State) (i : Nat) : Option Nat :=
  match (s.slotCopies i).1.seq, (s.slotCopies i).2.seq with
  | some a, some b => some (max a b)
  | some a, none => some a
  | none, y => y

/-- The first copy of a slot that is valid under R349, FC000 first; a slot without a descriptor that checks has none. -/
def State.slotImage (s : State) (i : Nat) : Option (List Byte) :=
  let c := s.slotCopies i
  if (s.slotSeq i).isNone then none
  else if s.imageValid c.1.image then some c.1.image
  else if s.imageValid c.2.image then some c.2.image
  else none

/-! ### Messages in parts (R354) -/

/-- One part of a request, which opens with TOTAL and OFFSET: the whole once OFFSET plus the part's bytes equals TOTAL. An answer ends
the request: SUCCESS for a part before the last, or the failure (R354). -/
def State.takePart (s : State) (q : Req) : Except Answer (List Byte × State) :=
  let p := q.body
  if p.length < 8 then .error (refuse s 3)
  else
    let total := leAt p 0 4
    let off := leAt p 4 4
    let bytes := p.drop 8
    let mine (a : Assembly) : Bool := a.car.same q.car
    let old := s.lmcs.parts.find? mine
    let clear : State := { s with lmcs := { s.lmcs with parts := s.lmcs.parts.filter fun a => !mine a } }
    let goes := match old with
      | some a => a.op == q.msg.opcode.toNat && a.total == total && a.bytes.length == off
      | none => false
    if total < off + bytes.length then .error (refuse clear 2)
    else if !goes && off != 0 then .error (refuse clear 2)
    else
      let all := (if goes then (old.map fun a => a.bytes).getD [] else []) ++ bytes
      if all.length = total then .ok (all, clear)
      else .error (done { clear with lmcs := { clear.lmcs with
        parts := clear.lmcs.parts ++ [⟨q.car, q.msg.opcode.toNat, total, all, s.now⟩] } })

/-- The whole payload of an 08xxh request of `n` bytes: at once when the carrier takes it, otherwise assembled from parts (R354). -/
def State.assemble (s : State) (q : Req) (n : Nat) : Except Answer (List Byte × State) :=
  if n ≤ q.car.limit then
    if q.body.length = n then .ok (q.body, s) else .error (refuse s 3)
  else match s.takePart q with
    | .error a => .error a
    | .ok (p, s1) => if p.length = n then .ok (p, s1) else .error (refuse s1 3)

/-- A message that may come in parts: its action once the payload is whole. -/
def State.whole (s : State) (q : Req) (n : Nat) (act : List Byte → State → Answer) : Answer :=
  match s.assemble q n with
  | .error a => a
  | .ok (p, s1) => act p s1

/-! ### Certificates and ownership (R348, R352, R353) -/

/-- CERT_GET: bytes of the certificate chain (R348). -/
def execCertGet (q : Req) (s : State) : Out :=
  s.ends (s.lmcsRun q 0x0801 fun _ s => done s ((s.fuses.chain.drop (leAt q.body 0 4)).take (leAt q.body 4 4)))

/-- CARRIER of a carrier instance (R353). -/
def carrierIdent : Carrier → List Byte
  | .mailbox f m => leBytes 1 0 ++ leBytes 1 f.port.val ++ leBytes 1 f.num.val ++ leBytes 1 m.val
  | .admin f _ => leBytes 1 1 ++ leBytes 1 f.port.val ++ leBytes 1 f.num.val ++ leBytes 1 0
  | .mctp e => leBytes 1 0xFF ++ [e] ++ zeros 2

/-- OWNER_CHALLENGE: a fresh nonce, which replaces the instance's previous one (R353). -/
def execOwnerChallenge (q : Req) (s : State) : Out :=
  s.ends (s.lmcsRun q 0x0810 fun _ s =>
    let d := s.drawBytes 32
    let s1 := d.2
    done { s1 with lmcs := { s1.lmcs with
      nonces := s1.lmcs.nonces.filter (fun x => !x.1.same q.car) ++ [(q.car, d.1, s.now)] } } d.1)

/-- OWNER_PROVE: the owner's signature over nonce, UID and CARRIER grants the role to the instance; the nonce is consumed (R353). -/
def execOwnerProve (q : Req) (s : State) : Out :=
  s.ends (s.lmcsRun q 0x0811 fun _ s => s.whole q 3309 fun sig s =>
    let nonce := (s.lmcs.nonces.find? fun x => x.1.same q.car).map fun x => x.2.1
    let s1 : State := { s with lmcs := { s.lmcs with nonces := s.lmcs.nonces.filter fun x => !x.1.same q.car } }
    match s.ownerEntry, nonce with
    | none, _ => refuse s1 4
    | _, none => refuse s1 0x8003
    | some (_, k), some n =>
      if Config.mldsaVerify k (ascii "LTROWN") (n ++ fit 16 s.fuses.uid ++ carrierIdent q.car) sig then
        done { s1 with lmcs := { s1.lmcs with
          owners := s1.lmcs.owners.filter (fun o => !o.1.same q.car) ++ [(q.car, keyDigest k)] } }
      else refuse s1 0x8002)

/-- OWNER_RELEASE: the instance's role is dropped, with its pending configuration set and its staging area (R52, R353, R355). -/
def execOwnerRelease (q : Req) (s : State) : Out :=
  s.ends (s.lmcsRun q 0x0812 fun _ s =>
    done { s with
      lmcs := { s.lmcs with owners := s.lmcs.owners.filter (fun o => !o.1.same q.car)
                            pending := s.lmcs.pending.filter fun p => !p.1.same q.car }
      ident := { s.ident with staging := s.ident.staging.filter fun g => !g.holder.same q.car } })

/-- OWNER_ENROLL: on a unit with no owner entry in use, from the sideband, the key's digest goes into the next entry (R352). -/
def execOwnerEnroll (q : Req) (fuseOk : Bool) (s : State) : Out :=
  s.ends (s.lmcsRun q 0x0813 fun _ s => s.whole q 1952 fun p s =>
    if s.ownerEntry.isSome then refuse s 0x8004
    else match s.freeOwner with
      | none => refuse s 0x8005
      | some i =>
        if fuseOk then done (s.setOwner i (.inUse p)) else refuse ((s.setOwner i .spent).log 2 0 2 8 0 i) 0x8007)

/-- OWNER_TRANSFER: signed by the current owner key over "LTRXFR", UID and the new digest; the current entry is revoked and the new
digest blown into the next (R352). -/
def execOwnerTransfer (q : Req) (fuseOk : Bool) (s : State) : Out :=
  s.ends (s.lmcsRun q 0x0814 fun _ s => s.whole q 5261 fun p s =>
    let pub := slice 0 1952 p
    match s.ownerEntry, s.freeOwner with
    | none, none => refuse s 0x8005
    | none, some _ => refuse s 4
    | some _, none => refuse s 0x8005
    | some (i, k), some j =>
      if !Config.mldsaVerify k [] (ascii "LTRXFR" ++ fit 16 s.fuses.uid ++ keyDigest pub) (slice 1952 3309 p) then refuse s 0x8002
      else
        let s1 := s.setOwner i .spent
        if fuseOk then done (s1.setOwner j (.inUse pub)) else refuse ((s1.setOwner j .spent).log 2 0 2 8 0 j) 0x8007)

/-- OWNER_NONCE_EXPIRY: the nonce of an instance is stale from 60 s after its issue (R353). -/
def execOwnerNonceExpiry (c : Carrier) (s : State) : Out :=
  s.ends { s with lmcs := { s.lmcs with nonces := s.lmcs.nonces.filter fun x => !x.1.same c } }

/-! ### Firmware messages (R351, R355) -/

/-- The size of the staging area (R355). -/
def stagingSize : Nat := 8396800

/-- Image bytes written to the staging area for an instance: the status and the state (R355). -/
def State.fwStage (s : State) (car : Carrier) (off : Nat) (bytes : List Byte) : Nat × State :=
  match s.ident.staging with
  | some g =>
    if !g.holder.same car then (5, s)
    else if stagingSize < off + bytes.length then (2, s)
    else (0, { s with ident := { s.ident with staging := some { g with
      bytes := patch (fit (max g.bytes.length off) g.bytes) off bytes, parts := g.parts ++ [(off, off + bytes.length)], last := s.now } } })
  | none =>
    if stagingSize < off + bytes.length then (2, s)
    else (0, { s with ident := { s.ident with staging := some ⟨car, zeros off ++ bytes, [(off, off + bytes.length)], s.now⟩ } })

/-- FW_STAGE (R355). -/
def execFwStage (q : Req) (s : State) : Out :=
  s.ends (s.lmcsRun q 0x0820 fun _ s =>
    if !zeroAt q.body 4 4 then refuse s 2
    else
      let r := s.fwStage q.car (leAt q.body 0 4) (q.body.drop 8)
      (some (r.1, []), r.2))

/-- How far from byte 0 the written ranges of a staging area reach without a gap. -/
def coveredTo (parts : List (Nat × Nat)) : Nat :=
  (sortBy (fun (a b : Nat × Nat) => a.1 < b.1) parts).foldl (fun (e : Nat) r => if r.1 ≤ e then max e r.2 else e) 0

/-- The whole staged image of an instance. -/
def State.stagedImage (s : State) (car : Carrier) : Option (List Byte) :=
  match s.ident.staging with
  | none => none
  | some g =>
    let n := 8192 + leAt g.bytes 16 4
    if g.holder.same car && n ≤ coveredTo g.parts then some (g.bytes.take n) else none

/-- The major version of an image. -/
def imageMajor (m : List Byte) : Nat := at1 m 15

/-- FIRMWARE_ACTIVATION: the stewards restart on a new image (R355). Fetching stops and resumes within it; commands outstanding keep
their state. -/
def State.activate (s : State) (m : List Byte) (slot : Nat) : State :=
  let s1 := s.raise 2 1 3
  { s1 with ident := { s1.ident with image := m, slot := some slot, nextReset := false } }

/-- FW_COMMIT: the staged image verified, written to the slot that is not running, its descriptors programmed, FC000 first, with the
running SEQ + 1, and activated as asked. In recovery the image runs from SRAM once it verifies. The answer of a bad image carries the
step of R349 (R350, R355, R379). -/
def State.fwCommit (s : State) (car : Carrier) (activate : Nat) : (Nat × List Byte) × State :=
  match s.stagedImage car with
  | none => ((if (s.ident.staging.map fun g => !g.holder.same car).getD false then 5 else 0x8006, []), s)
  | some m =>
    let s0 : State := { s with ident := { s.ident with staging := none } }
    match s.imageStep m with
    | some k => ((0x8001, leBytes 1 k), s0)
    | none =>
      if s.boot.recovery then
        ((0, []), { s0 with
          ident := { s0.ident with image := m, slot := none, signing := !bitN (s.rd .sec 0x044) 5 }
          boot := { s0.boot with image := true, recovery := false } })
      else
        let run := s.ident.slot.getD 1
        let seq := (s.slotSeq run).getD 0 + 1
        let s1 := s0.setSlot (1 - run) (⟨m, some seq⟩, ⟨m, some seq⟩)
        if activate = 2 ∧ imageMajor m = imageMajor s.ident.image then ((0, []), s1.activate m (1 - run))
        else ((0, []), { s1 with ident := { s1.ident with nextReset := activate != 0 } })

/-- FW_COMMIT (R355). -/
def execFwCommit (q : Req) (s : State) : Out :=
  s.ends (s.lmcsRun q 0x0821 fun _ s =>
    if 2 < at1 q.body 0 ∨ !zeroAt q.body 1 7 then refuse s 2
    else
      let r := s.fwCommit q.car (at1 q.body 0)
      (some r.1, r.2))

/-- VERSION, SVN, SIGNER, SEQ and valid of a slot. -/
def State.slotReport (s : State) (i : Nat) : List Byte :=
  let m := (s.slotImage i).getD (s.slotCopies i).1.image
  leBytes 4 (leAt m 12 4) ++ leBytes 1 (at1 m 6) ++ leBytes 1 (at1 m 5) ++ leBytes 4 ((s.slotSeq i).getD 0) ++
    leBytes 1 (b2n (s.slotImage i).isSome)

/-- FW_QUERY (Table 16.3). The running slot reads 0 for A, 1 for B, and 0xFF for an image run from SRAM. -/
def execFwQuery (q : Req) (s : State) : Out :=
  s.ends (s.lmcsRun q 0x0822 fun _ s =>
    done s (s.slotReport 0 ++ s.slotReport 1 ++ leBytes 1 s.fuses.rollback ++ leBytes 1 (s.ident.slot.getD 0xFF)))

/-- FW_ADVANCE: F raised to the SVN of the running image, one step at a time; a step that does not verify stops it (R351). -/
def execFwAdvance (q : Req) (fuseOk : Bool) (s : State) : Out :=
  s.ends (s.lmcsRun q 0x0823 fun _ s =>
    let svn := min 128 (at1 s.ident.image 6)
    if svn ≤ s.fuses.rollback then done s
    else if fuseOk then done { s with fuses := { s.fuses with rollback := svn } }
    else refuse (s.log 2 0 2 8 0 (s.fuses.rollback + 1)) 0x8007)

/-- FW_STAGING_TIMEOUT: the staging area is released after 10 minutes without a write (R355). -/
def execFwStagingTimeout (s : State) : Out := s.ends { s with ident := { s.ident with staging := none } }

/-! ### Debug unlock (R358) -/

/-- DEBUG_NONCE (R358). -/
def execDebugNonce (q : Req) (s : State) : Out :=
  s.ends (s.lmcsRun q 0x0840 fun _ s =>
    let d := s.drawBytes 32
    let s1 := d.2
    done { s1 with lmcs := { s1.lmcs with
      debugNonces := s1.lmcs.debugNonces.filter (fun x => !x.1.same q.car) ++ [(q.car, d.1, s.now)] } } d.1)

/-- DEBUG_UNLOCK: the token names this unit and the nonce and carries a release key's or the owner key's signature; scope bit 2 needs a
release key. The key store is zeroed and locked as by an alarm, and the scopes open until PWROK (R358). -/
def execDebugUnlock (q : Req) (s : State) : Out :=
  s.ends (s.lmcsRun q 0x0841 fun _ s => s.whole q 3373 fun p s =>
    let tok := slice 0 64 p
    let sig := slice 64 3309 p
    let scope := at1 p 5
    let nonce := (s.lmcs.debugNonces.find? fun x => x.1.same q.car).map fun x => x.2.1
    let s1 : State := { s with lmcs := { s.lmcs with debugNonces := s.lmcs.debugNonces.filter fun x => !x.1.same q.car } }
    let keys := if at1 p 4 = 0 then (s.fuses.fwKeys.filter fun k => !k.2).map fun k => k.1
      else (s.ownerEntry.map fun e => e.2).toList
    if leAt p 0 4 ≠ 0x4742444C ∨ 1 < at1 p 4 ∨ 8 ≤ scope ∨ !zeroAt p 6 10 ∨ (bitN scope 2 ∧ at1 p 4 = 1) then refuse s 2
    else if slice 16 16 p ≠ fit 16 s.fuses.uid then refuse s1 0x8002
    else if nonce ≠ some (slice 32 32 p) then refuse s1 0x8003
    else if keys.any fun k => Config.mldsaVerify k (ascii "LTRDBG") tok sig then
      let s2 := s1.zeroSecrets
      done { s2 with ident := { s2.ident with debug := s2.ident.debug ||| scope } }
    else refuse s1 0x8002)

/-- DEBUG_NONCE_EXPIRY: a debug nonce is valid for 60 s (R358). -/
def execDebugNonceExpiry (c : Carrier) (s : State) : Out :=
  s.ends { s with lmcs := { s.lmcs with debugNonces := s.lmcs.debugNonces.filter fun x => !x.1.same c } }

end Sys2Proof.Machine
end

