-- ==== Sys2Proof/Machine/Spdm.lean ====
section
/-! DEFINITION. Machine/Spdm.lean: attestation by SPDM 1.3 (R357, Table 16.5). The byte layouts of SPDM messages are those of
DSP0274 (Assumption 14). On MCTP a request stands for a message of type 05h, and its payload is the SPDM message. -/

namespace Sys2Proof.Machine

open Sys2Proof

/-- The SPDM connection of a carrier instance. -/
def State.spdmOf (s : State) (c : Carrier) : Spdm := (s.ident.spdm.find? fun x => x.car.same c).getD { car := c }

/-- The state with a connection written. -/
def State.setSpdm (s : State) (x : Spdm) : State :=
  { s with ident := { s.ident with spdm := s.ident.spdm.filter (fun y => !y.car.same x.car) ++ [x] } }

/-- ERROR with a code. -/
def spdmError (code : Nat) : List Byte := leBytes 1 0x13 ++ leBytes 1 0x7F ++ leBytes 1 code ++ leBytes 1 0

/-- A response as its carrier takes it: one longer than the transfer size is fetched in chunks, and the answer is ERROR
LargeResponse with a handle (CHUNK_CAP). -/
def State.spdmAnswer (s : State) (x : Spdm) (resp : List Byte) : Answer :=
  let room := min x.car.respLimit (if x.dts = 0 then x.car.respLimit else x.dts)
  if resp.length ≤ room then done (s.setSpdm { x with large := none }) resp
  else
    let h := (x.handle + 1) % 256
    done (s.setSpdm { x with handle := h, large := some (h, resp, 0) }) (leBytes 1 0x13 ++ leBytes 1 0x7F ++ leBytes 1 0x0F ++ leBytes 1 0 ++ leBytes 1 h)

/-- An SPDM request of one code: its version, its place in the connection and its least length are checked, and then it is answered. A
request other than GET_MEASUREMENTS empties the measurement transcript. -/
def State.spdmRun (s : State) (q : Req) (code stage len : Nat) (act : Spdm → List Byte → State → Answer) : State :=
  if at1 q.body 1 ≠ code then s
  else s.lmcsRun q 0x0830 fun _ s =>
    let p := q.body
    let x := s.spdmOf q.car
    if at1 p 0 ≠ (if code = 0x84 then 0x10 else 0x13) then done s (spdmError 0x41)
    else if x.stage < stage then done s (spdmError 0x04)
    else if p.length < len then done s (spdmError 0x01)
    else act (if code = 0xE0 ∨ code = 0x86 then x else { x with msgL := [] }) p s

/-- GET_VERSION: VERSION lists 1.3 only; it opens a new connection (R357). -/
def execGetVersion (q : Req) (s : State) : Out :=
  s.ends (s.spdmRun q 0x84 0 4 fun x p s =>
    let r := leBytes 1 0x10 ++ leBytes 1 0x04 ++ zeros 2 ++ zeros 1 ++ leBytes 1 1 ++ leBytes 2 0x1300
    s.spdmAnswer { car := x.car, handle := x.handle, stage := 1, msgA := p ++ r } r)

/-- GET_CAPABILITIES: CERT_CAP, CHAL_CAP, MEAS_CAP 10b, MEAS_FRESH_CAP and CHUNK_CAP (R357). -/
def execGetCapabilities (q : Req) (s : State) : Out :=
  s.ends (s.spdmRun q 0xE1 1 20 fun x p s =>
    let r := leBytes 1 0x13 ++ leBytes 1 0x61 ++ zeros 2 ++ zeros 4 ++ leBytes 4 0x20036 ++ leBytes 4 x.car.respLimit ++ leBytes 4 16384
    s.spdmAnswer { x with stage := 2, dts := leAt p 12 4, msgA := x.msgA ++ p ++ r } r)

/-- NEGOTIATE_ALGORITHMS: SHA3-512 for both hashes, DMTF measurements, ML-DSA-65 as the one extended algorithm (R357). -/
def execNegotiateAlgorithms (q : Req) (s : State) : Out :=
  s.ends (s.spdmRun q 0xE3 2 32 fun x p s =>
    let r := leBytes 1 0x13 ++ leBytes 1 0x63 ++ zeros 2 ++ leBytes 2 40 ++ leBytes 1 1 ++ zeros 1 ++ leBytes 4 0x40 ++ zeros 4 ++
      leBytes 4 0x20 ++ zeros 12 ++ leBytes 1 1 ++ zeros 1 ++ zeros 2 ++ leBytes 1 3 ++ zeros 1 ++ leBytes 2 1
    s.spdmAnswer { x with stage := 3, msgA := x.msgA ++ p ++ r } r)

/-- GET_DIGESTS: the digest of the chain in slot 0, the only slot (R348, R357). -/
def execGetDigests (q : Req) (s : State) : Out :=
  s.ends (s.spdmRun q 0x81 3 4 fun x p s =>
    let r := leBytes 1 0x13 ++ leBytes 1 0x01 ++ leBytes 1 1 ++ leBytes 1 1 ++ sha3_512 s.fuses.chain
    s.spdmAnswer { x with msgB := x.msgB ++ p ++ r } r)

/-- GET_CERTIFICATE: bytes of slot 0 (R357). -/
def execGetCertificate (q : Req) (s : State) : Out :=
  s.ends (s.spdmRun q 0x82 3 8 fun x p s =>
    let off := leAt p 4 2
    let chain := s.fuses.chain
    if at1 p 2 % 16 ≠ 0 ∨ chain.length ≤ off then done s (spdmError 0x01)
    else
      let part := (chain.drop off).take (leAt p 6 2)
      let r := leBytes 1 0x13 ++ leBytes 1 0x02 ++ zeros 2 ++ leBytes 2 part.length ++ leBytes 2 (chain.length - off - part.length) ++ part
      s.spdmAnswer { x with msgB := x.msgB ++ p ++ r } r)

/-- The SPDM signing message: the prefix of DSP0274 over a transcript, with SHA3-512. -/
def spdmSigned (context : String) (transcript : List Byte) : List Byte :=
  let c := ascii context
  (List.replicate 4 (ascii "dmtf-spdm-v1.3.*")).flatten ++ zeros (36 - c.length) ++ c ++ sha3_512 transcript

/-- A measurement block: index, DMTF type, value. -/
def measBlock (index type : Nat) (v : List Byte) : List Byte :=
  leBytes 1 index ++ leBytes 1 1 ++ leBytes 2 (v.length + 3) ++ leBytes 1 type ++ leBytes 2 v.length ++ v

/-- The measurement list (Table 16.5). The bytes of the configuration store copy are not laid down, so the digest of measurement 5 is a
free value. -/
def State.measurements (s : State) : List (List Byte) × State :=
  let m := s.ident.image
  let d := s.drawBytes 64
  let slot := s.ident.slot
  let owner := s.ownerEntry
  ([measBlock 1 0 (sha3_512 s.fuses.rom), measBlock 2 1 (sha3_512 (imageSection m 1)), measBlock 3 1 (sha3_512 (imageSection m 2)),
    measBlock 4 3 (sha3_512 (imageSection m 3)), measBlock 5 2 d.1,
    measBlock 6 0x86 (leBytes 4 (leAt m 12 4) ++ leBytes 1 (at1 m 5) ++ leBytes 1 (slot.getD 0xFF) ++
      leBytes 4 ((slot.bind s.slotSeq).getD 0)),
    measBlock 7 0x87 (leBytes 1 (at1 m 6) ++ leBytes 1 s.fuses.rollback),
    measBlock 8 0x84 (leBytes 4 s.ltid.toNat ++ fit 16 s.fuses.uid ++ leBytes 1 ((owner.map fun e => e.1).getD 0xFF) ++
      ((owner.map fun e => keyDigest e.2).getD (zeros 32))),
    measBlock 9 0x85 (leBytes 1 s.ident.debug ++ leBytes 4 (s.rd .sec 0x044))], d.2)

/-- The measurement summary hash of CHALLENGE: none, the ROM alone, or all. -/
def measSummary (ms : List (List Byte)) (type : Nat) : List Byte :=
  if type = 0 then [] else if type = 1 then sha3_512 ((ms.take 1).flatten) else sha3_512 ms.flatten

/-- CHALLENGE: CHALLENGE_AUTH, signed over messages A, B and C (R357); ERROR Unspecified while the key is cleared (R347). -/
def execChallenge (q : Req) (s : State) : Out :=
  s.ends (s.spdmRun q 0x83 3 44 fun x p s =>
    if at1 p 2 ≠ 0 then done s (spdmError 0x01)
    else
      let ms := s.measurements
      let d := ms.2.drawBytes 32
      let r := leBytes 1 0x13 ++ leBytes 1 0x03 ++ leBytes 1 0 ++ leBytes 1 1 ++ sha3_512 s.fuses.chain ++ d.1 ++
        measSummary ms.1 (at1 p 3) ++ leBytes 2 0 ++ slice 36 8 p
      match d.2.sign [] (spdmSigned "responder-challenge_auth signing" (x.msgA ++ x.msgB ++ p ++ r)) with
      | none => done s (spdmError 0x05)
      | some (g, s1) => s1.spdmAnswer { x with msgB := [] } (r ++ g))

/-- GET_MEASUREMENTS: the count, one block or all of them, signed when asked (R357, Table 16.5). -/
def execGetMeasurements (q : Req) (s : State) : Out :=
  s.ends (s.spdmRun q 0xE0 3 4 fun x p s =>
    let signed := bitN (at1 p 2) 0
    let op := at1 p 3
    let ms := s.measurements
    let blocks := if op = 0 then [] else if op = 0xFF then ms.1 else (ms.1.drop (op - 1)).take 1
    let ctx := if signed then slice 37 8 p else slice 4 8 p
    if (signed ∧ p.length < 45) ∨ (0 < op ∧ op ≠ 0xFF ∧ 9 < op) then done s (spdmError 0x01)
    else
      let d := ms.2.drawBytes 32
      let r := leBytes 1 0x13 ++ leBytes 1 0x60 ++ leBytes 1 (if op = 0 then 9 else 0) ++ leBytes 1 0 ++ leBytes 1 blocks.length ++
        leBytes 3 blocks.flatten.length ++ blocks.flatten ++ d.1 ++ leBytes 2 0 ++ ctx
      if !signed then d.2.spdmAnswer { x with msgL := x.msgL ++ p ++ r } r
      else match d.2.sign [] (spdmSigned "responder-measurements signing" (x.msgA ++ x.msgL ++ p ++ r)) with
        | none => done s (spdmError 0x05)
        | some (g, s1) => s1.spdmAnswer { x with msgL := [] } (r ++ g))

/-- CHUNK_GET: the next chunk of a large response (R357). -/
def execChunkGet (q : Req) (s : State) : Out :=
  s.ends (s.spdmRun q 0x86 3 6 fun x p s =>
    match x.large with
    | none => done s (spdmError 0x04)
    | some (h, b, n) =>
      if at1 p 3 ≠ h ∨ leAt p 4 2 ≠ n then done s (spdmError 0x01)
      else
        let room := min x.car.respLimit (if x.dts = 0 then x.car.respLimit else x.dts)
        let size := if n = 0 then room - 16 else room - 12
        let part := b.take size
        let rest := b.drop size
        let r := leBytes 1 0x13 ++ leBytes 1 0x06 ++ leBytes 1 (b2n (rest == [])) ++ leBytes 1 h ++ leBytes 2 n ++ zeros 2 ++
          leBytes 4 part.length ++ (if n = 0 then leBytes 4 b.length else []) ++ part
        done (s.setSpdm { x with large := if rest == [] then none else some (h, rest, n + 1) }) r)

/-- RESPOND_IF_READY: the deferred response (R357). -/
def execRespondIfReady (q : Req) (s : State) : Out :=
  s.ends (s.spdmRun q 0xFF 3 4 fun x p s =>
    match x.deferred with
    | some (code, tok, r) =>
      if code = at1 p 2 ∧ tok = at1 p 3 then s.spdmAnswer { x with deferred := none } r else done s (spdmError 0x01)
    | none => done s (spdmError 0x04))

/-- The request codes that the device supports (R357). -/
def spdmKnown : List Nat := [0x84, 0xE1, 0xE3, 0x81, 0x82, 0x83, 0xE0, 0x86, 0xFF]

/-- SPDM_UNSUPPORTED_REQUEST: ERROR UnsupportedRequest, 07h (R357). -/
def execSpdmUnsupportedRequest (q : Req) (s : State) : Out :=
  s.ends (if spdmKnown.contains (at1 q.body 1) then s else s.lmcsRun q 0x0830 fun _ s => done s (spdmError 0x07))

end Sys2Proof.Machine
end

