-- ==== Sys2Proof/Machine/Configure.lean ====
section
/-! DEFINITION. Machine/Configure.lean: mailboxes, identity and inventory, configuration messages and the parameters of the
configuration store (chapter 2). -/

namespace Sys2Proof

/-- The bytes of a configuration store body: its layout belongs to Blustite (chapter 18). Assumption 15. -/
opaque Config.storeBytes : Machine.StoreBody → List Byte

/-- The body that store bytes hold. Assumption 15. -/
opaque Config.storeRead : List Byte → Machine.StoreBody

end Sys2Proof

namespace Sys2Proof.Machine

open Sys2Proof

/-! ### Mailboxes (R28 to R31, R392, R465) -/

/-- Whether BAR2 is open: from step 11, and not in recovery or after a failed start; the PF has 16 mailboxes and a VF 2 (Table 2.1). -/
def State.boxOpen (s : State) (f : FnId) (m : Nat) : Bool :=
  s.boot.reached11 && !s.inRecovery && (s.host.ctrl f).isSome && (f.num.val == 0 || m < 2)

/-- A request accepted from its carrier. One that fails R464 is answered at once, because no opcode's own row takes it. -/
def State.accept (s : State) (q : Req) : State :=
  let s1 : State := { s with lmcs := { s.lmcs with inFlight := s.lmcs.inFlight ++ [q] } }
  match s1.admission q with
  | .error st => s1.respond q st []
  | .ok _ => s1

/-- MB_DOORBELL: a sequence number written with a request in the area (R28 to R30). -/
def execMbDoorbell (f : FnId) (m : Fin 16) (seq : BitVec 16) (msg : LmcsMsg) (s : State) : Out :=
  s.ends (
    if !s.boxOpen f m.val then s
    else
      let b := s.mailbox f m.val
      if b.state = 1 then s.onBox f m.val fun b => { b with ovr := true }
      else if seq ≠ b.curSeq + 1 then s.onBox f m.val fun b => { b with doorbell := seq, curSeq := seq, state := 3 }
      else
        (s.onBox f m.val fun b => { b with doorbell := seq, curSeq := seq, state := 1, abort := false }).accept ⟨.mailbox f m, msg⟩)

/-- MB_CTRL_ABORT: the host writes the control words MB_STATUS (a 1 clears OVR) and MB_CTRL (IEN, ABORT, VEC). ABORT acts only on the
request in progress, and a 0 written to it changes nothing (R31). Assumption 115. -/
def execMbCtrlAbort (f : FnId) (m : Fin 16) (stat ctrl : Word) (s : State) : Out :=
  s.ends (
    if !s.boxOpen f m.val then s
    else s.onBox f m.val fun b => { b with ovr := b.ovr && !stat.getLsbD 2, ien := ctrl.getLsbD 0, vec := ctrl.extractLsb' 8 8
                                           abort := b.abort || (ctrl.getLsbD 1 && b.state == 1) })

/-- LMCS_RESPONSE_POST: the response area, then MB_SEQ, then STATE done, and the interrupt when IEN is 1 (R29, R31). -/
def execLmcsResponsePost (f : FnId) (m : Fin 16) (s : State) : Out :=
  s.ends (match s.lmcs.done.find? fun r => r.req.car == .mailbox f m with
    | none => s
    | some r =>
      let b := s.mailbox f m.val
      if b.state ≠ 1 then s
      else
        let s1 : State := { s with lmcs := { s.lmcs with done := s.lmcs.done.erase r } }
        let s2 := s1.onBox f m.val fun b => { b with resp := respBytes r.req r.status r.payload r.req.car.respLimit
                                                     doneSeq := b.curSeq, state := 2, abort := false }
        if b.ien then { s2 with host := { s2.host with msix := s2.host.msix ++ [(f, b.vec.toNat)] } } else s2)

/-! ### Identity and inventory (R51, Tables 2.13 to 2.15) -/

/-- IDENTIFY. -/
def execIdentify (q : Req) (s : State) : Out :=
  s.ends (s.lmcsRun q 0x0101 fun _ s =>
    let live := !s.inRecovery
    done s (leBytes 4 s.ltid.toNat ++ zeros 4 ++ fit 16 s.fuses.uid ++ leBytes 4 (if live then s.imageVersion else 0) ++
      leBytes 1 (at1 s.ident.image 6) ++ leBytes 1 (s.ident.slot.getD 0xFF) ++ leBytes 1 s.fuses.rollback ++ leBytes 1 s.host.portMode ++
      leBytes 4 (s.rd .glb 0x20C) ++ leBytes 4 (s.rd .glb 0x300) ++ leBytes 4 (s.rd .glb 0x304) ++ leBytes 1 (b2n s.ownerEntry.isSome) ++
      leBytes 1 (s.boot.bootSel.toNat + b2n s.boot.pairEn * 4) ++ leBytes 2 (if live then s.cfg.body.namespaces.length else 0) ++ zeros 16))

/-- STATE of a tile in INVENTORY: 0 ready, 1 starting, 2 failed, 3 not on this part (R51). -/
def State.tileState (s : State) (t : Nat) : Nat :=
  if !s.hasTile t then 3 else if s.boot.failed.contains t then 2
  else if s.boot.startFailed || (s.tileAt t).ftl.recovered < 3 then 1 else 0

/-- The mean and the spread of the erase counts of a tile's in-service quads (R125). -/
def State.eraseStats (s : State) (t : Nat) : Nat × Nat :=
  let x := s.tileAt t
  let up := x.ftl.wear.filter fun w => x.lunUp w.1.chan w.1.lun && !(x.ftl.retQuads.any fun r => r.1 == w.1)
  let n := s.qs t
  let hi := up.foldl (fun m w => max m w.2) 0
  let lo := if up.length < n then 0 else up.foldl (fun m w => min m w.2) hi
  (sumOf (up.map fun w => w.2) / max 1 n, hi - lo)

/-- INVENTORY. -/
def execInventory (q : Req) (s : State) : Out :=
  s.ends (s.lmcsRun q 0x0102 fun _ s =>
    let t := at1 q.body 0
    if 8 ≤ t ∨ !zeroAt q.body 1 7 then refuse s 2
    else if !s.hasTile t then done s (leBytes 1 t ++ leBytes 1 3 ++ zeros 126)
    else
      let x := s.tileAt t
      let live := !s.inRecovery
      let keep (n v : Nat) : List Byte := leBytes n (if live then v else 0)
      let up (i : Nat) (r : Option Nat) : Nat := if r.isNone then 2 ^ i else 0
      let eng := up 0 x.comp.retired + up 1 x.siftA.retired + up 2 x.siftB.retired + up 3 x.xtsA.retired + up 4 x.xtsB.retired +
        up 5 x.idx.retired + up 6 x.cqe.retired + up 7 x.dge.retired
      let e := s.eraseStats t
      let luns := (List.range 16).flatMap fun c =>
        keep 2 (s.rdField (.fch t c) 0x018 15 0)
      done s (leBytes 1 t ++ leBytes 1 (s.tileState t) ++ leBytes 2 (sumOf (x.channels.map fun c => 2 ^ c)) ++
        leBytes 4 (s.rd (.mem t) 0x04C) ++ leBytes 4 (s.rd (.mem t) 0x050) ++ keep 1 eng ++ leBytes 1 (s.rdField (.mem t) 0x008 3 0) ++
        leBytes 2 (s.rd (.pwr t) 0x018) ++ luns ++ keep 4 x.ftl.q0 ++ keep 4 (s.qs t) ++ keep 4 (s.fq t) ++ keep 4 x.ftl.rsv ++
        keep 8 (s.uc t) ++ keep 8 (s.charged t) ++ keep 2 e.1 ++ keep 2 e.2 ++ keep 2 (s.rd (.pwr t) 0x01C) ++ zeros 42))

/-! ### Parameters (Table 2.17) -/

/-- The parameter of a PID, its range judged on a value (Tables 2.17, 5.5 and 19.9). -/
def State.paramSpec (s : State) (pid v : Nat) : Option ParamSpec :=
  let between (lo hi : Nat) : Bool := lo ≤ v && v ≤ hi
  let one (len moment dflt : Nat) (ok : Bool) : Option ParamSpec := some ⟨0, 0, len, moment, dflt, ok⟩
  match pid with
  | 0x0001 => one 1 2 0 (v ≤ if s.fuses.part = .ltr2032 then 0 else 1)
  | 0x0002 => one 1 0 0 (v ≤ 1)
  | 0x0003 => one 1 1 0 (v ≤ 1)
  | 0x0004 => one 2 0 s.fuses.part.capTop (between s.fuses.part.capLow s.fuses.part.capTop)
  | 0x0005 => one 1 1 3 (v ≤ 7)
  | 0x0006 => one 4 0 0x01020408 ((List.range 4).all fun i => v / 256 ^ i % 256 != 0)
  | 0x0007 => one 1 0 75 (between 50 95)
  | 0x0008 => one 1 0 0xC1 (v % 16 ≤ 1 && v ≤ 255)
  | 0x0009 => some ⟨1, 7, 1, 0, 0, v ≤ 5⟩
  | 0x000A => one 4 1 0 (v == 0 || match s.nsOf v with
      | some ns => ns.grain16 && ns.blocks * ns.blockSize ≤ 2147483648 * s.n
      | none => false)
  | 0x0010 => one 4 0 300 (between 100 1000)
  | 0x0011 => one 4 0 5 (between 1 20)
  | 0x0012 => one 4 0 512 (between 256 4096)
  | 0x0013 => one 4 0 768 (between 384 8192)
  | 0x0014 => one 4 0 50 (between 10 90)
  | 0x0015 => one 4 0 10 (between 1 60)
  | 0x0016 => one 4 0 3000 (between 500 100000)
  | 0x0020 => one 4 0 10 (between 1 1000)
  | 0x0021 => one 4 0 2000 (between 10 10000)
  | 0x0022 => one 4 0 50 (between 10 90)
  | 0x0023 => one 4 0 75 (between 50 95)
  | 0x0024 => one 4 0 40 (between 10 50)
  | 0x0025 => one 4 0 28 (v == 7 || v == 14 || v == 28)
  | 0x0030 => some ⟨0, 4095, 1, 0, 4, v ≤ 12⟩
  | 0x0031 => some ⟨0, 4095, 8, 0, 0, true⟩
  | _ => (Config.otherParam pid).map fun p => { p with ok := Config.otherParamOk pid v }

/-- The PIDs that the release lists, ascending: those of Table 2.17 and the others that it holds (Table 2.16). -/
def State.paramPids (s : State) : List Nat := (List.range 65536).filter fun p => (s.paramSpec p 0).isSome

/-- A list of parameter values with one of them set. -/
def setParam (ps : List (Nat × Nat × Nat)) (p : Nat × Nat × Nat) : List (Nat × Nat × Nat) :=
  ps.filter (fun x => !(x.1 == p.1 && x.2.1 == p.2.1)) ++ [p]

/-- The values in force staged in the RWS registers, and in GPIO_FUNC, which is not RWS (R49, R53, R444). -/
def State.stageParams (s : State) : State :=
  let s1 := s.setReg 0x20000200 (BitVec.ofNat 32 (s.param 4 0 s.fuses.part.capTop))
  let s2 := s1.tileIds.foldl (fun (s : State) t =>
    let a := ((s.wr (.core t) 0x104 (s.param 6 0 0x01020408)).wr (.idx t) 0x018 (s.param 7 0 75)).wr (.mem t) 0x00C (s.param 8 0 0xC1)
    (s.cfg.body.params.filter fun p => p.1 == 0x30).foldl (fun (s : State) p =>
      s.setReg (regAddr (.cmp t) 0x014 + p.2.1 * 2 ^ 32) (BitVec.ofNat 32 p.2.2)) a) s1
  s2.wr .sbg 0x010 (sumOf ((List.range 8).map fun i => if i = 0 then 0 else s2.param 9 i 0 * 16 ^ i))

/-! ### Configuration messages (R52 to R54) -/

/-- CFG_GET: the value in force or pending. -/
def execCfgGet (q : Req) (s : State) : Out :=
  s.ends (s.lmcsRun q 0x0901 fun _ s =>
    let b := q.body
    let pid := leAt b 0 2
    let idx := leAt b 2 2
    match s.paramSpec pid 0 with
    | none => refuse s 0x8001 (zeros 8)
    | some d =>
      if idx < d.lo ∨ d.hi < idx ∨ 1 < at1 b 4 ∨ !zeroAt b 5 3 then refuse s 2
      else
        let now := s.param pid idx d.dflt
        let mine := s.lmcs.pending.find? fun p => p.1.same q.car && p.2.1 == pid && p.2.2.1 == idx
        let v := if at1 b 4 = 1 then (mine.map fun p => p.2.2.2).getD now else now
        done s (leBytes 2 pid ++ leBytes 2 idx ++ leBytes 2 d.len ++ zeros 2 ++ leBytes d.len v))

/-- The entries of a CFG_STAGE payload: PID, INDEX, LEN, value, and whether the reserved bytes and the padding are zero; none where the
payload does not hold them. -/
def stageEntries : Nat → List Byte → Option (List (Nat × Nat × Nat × Nat × Bool))
  | 0, b => if b = [] then some [] else none
  | n + 1, b =>
    let len := leAt b 4 2
    let whole := ceilDiv (8 + len) 8 * 8
    if b.length < 8 ∨ b.length < whole then none
    else (stageEntries n (b.drop whole)).map fun r =>
      (leAt b 0 2, leAt b 2 2, len, leAt b 8 len, zeroAt b 6 2 && zeroAt b (8 + len) (whole - 8 - len)) :: r

/-- The first faulty entry of a CFG_STAGE, with its status (R52). -/
def State.stageFault (s : State) : Nat → List (Nat × Nat × Nat × Nat × Bool) → Option (Nat × Nat)
  | _, [] => none
  | i, (pid, idx, len, v, z) :: r =>
    match s.paramSpec pid v with
    | none => some (i, 0x8001)
    | some d => if !z || idx < d.lo || d.hi < idx || len != d.len || !d.ok then some (i, 2) else s.stageFault (i + 1) r

/-- CFG_STAGE: every entry checked before any is staged; a later entry for the same PID and INDEX replaces the earlier one (R52). -/
def execCfgStage (q : Req) (s : State) : Out :=
  s.ends (s.lmcsRun q 0x0902 fun _ s =>
    match stageEntries (leAt q.body 0 2) (q.body.drop 8) with
    | none => refuse s 3
    | some es =>
      if !zeroAt q.body 2 6 then refuse s 2
      else match s.stageFault 0 es with
        | some (i, st) => refuse s st (leBytes 2 i ++ zeros 6)
        | none =>
          let ps := es.foldl (fun (ps : List (Carrier × Nat × Nat × Nat)) e =>
            ps.filter (fun p => !(p.1.same q.car && p.2.1 == e.1 && p.2.2.1 == e.2.1)) ++ [(q.car, e.1, e.2.1, e.2.2.2.1)])
            s.lmcs.pending
          done { s with lmcs := { s.lmcs with pending := ps } })

/-- A body with values applied: those whose WHEN is CINCH are in force at the cinch, the others at the next start or PERST_N (R53). -/
def State.applyParams (s : State) (b : StoreBody) (ps : List (Nat × Nat × Nat)) : StoreBody :=
  ps.foldl (fun (b : StoreBody) p =>
    if ((s.paramSpec p.1 0).map fun d => d.moment == 0).getD true then { b with params := setParam b.params p }
    else { b with later := setParam b.later p }) b

/-- CFG_COMMIT (R53): the relations, the store, then the staged registers and GO; the response follows all-ones MASK (R49). In
configuration-loss state an imported body is written in place of the values in force (R54). -/
def execCfgCommit (q : Req) (storeOk : Bool) (s : State) : Out :=
  s.ends (s.lmcsRun q 0x0903 fun _ s =>
    let mine := (s.lmcs.pending.filter fun p => p.1.same q.car).map fun p => p.2
    let seq0 := (if s.cfg.inForce1 then s.cfg.copy1 else s.cfg.copy0).seq
    if !zeroAt q.body 0 8 then refuse s 2
    else if mine = [] ∧ s.cfg.imported.isNone then done s (leBytes 8 seq0 ++ leBytes 2 s.cinch.cur.toNat ++ zeros 6)
    else if s.cinch.pending || s.cinch.retained then refuse s 7
    else
      let base := s.cfg.imported.getD s.cfg.body
      let body := s.applyParams base mine
      let value (pid dflt : Nat) : Nat := ((body.params.find? fun p => p.1 == pid).map fun p => p.2.2).getD dflt
      if value 0x13 768 < value 0x12 512 + 128 then refuse s 2 (leBytes 2 0x13 ++ zeros 6)
      else match s.storeWrite storeOk body with
        | none => refuse (s.log 2 0 2 8 0 0) 0x8002
        | some s1 =>
          let old := s.pairDigest
          let keep := if s.cfg.imported.isSome then s.cfg.body else body
          let s2 : State := { s1 with
            cfg := { s1.cfg with body := keep, imported := none, commit := some (q, s1.cfg.copy0.seq) }
            lmcs := { s1.lmcs with pending := s1.lmcs.pending.filter fun p => !p.1.same q.car } }
          (none, (s2.stageParams.cinchGo).pairSync old))

/-- CFG_DISCARD (R52). -/
def execCfgDiscard (q : Req) (s : State) : Out :=
  s.ends (s.lmcsRun q 0x0904 fun _ s =>
    if !zeroAt q.body 0 8 then refuse s 2
    else done { s with lmcs := { s.lmcs with pending := s.lmcs.pending.filter fun p => !p.1.same q.car } })

/-- CFG_LIST (Table 2.16). -/
def execCfgList (q : Req) (s : State) : Out :=
  s.ends (s.lmcsRun q 0x0905 fun _ s =>
    if !zeroAt q.body 2 6 then refuse s 2
    else
      let es := (s.paramPids.filter fun p => leAt q.body 0 2 ≤ p).take 200
      done s (leBytes 2 es.length ++ zeros 6 ++ es.flatMap fun p => match s.paramSpec p 0 with
        | some d => leBytes 2 p ++ leBytes 2 (d.hi + 1 - d.lo) ++ leBytes 1 d.len ++ leBytes 1 d.moment ++ zeros 2
        | none => []))

/-- CINCH_QUERY (Table 2.16). -/
def execCinchQuery (q : Req) (s : State) : Out :=
  s.ends (s.lmcsRun q 0x0906 fun _ s =>
    done s ((List.range 3).flatMap (fun i => leBytes 4 (s.cinch.word i)) ++ zeros 4))

/-- The bytes of a store copy: the header of Table 18.3, then the body. -/
def StoreCopy.bytes (c : StoreCopy) (which : Nat) : List Byte :=
  let body := Config.storeBytes c.body
  let h := leBytes 4 0x47464E43 ++ leBytes 1 1 ++ leBytes 1 which ++ leBytes 1 c.portMode ++ zeros 1 ++ leBytes 8 c.seq ++
    leBytes 4 body.length ++ zeros 8
  let h1 := h ++ leBytes 4 (crc32c h).toNat
  h1 ++ shake256 (h1 ++ body) 32 ++ body

/-- The copy in force. -/
def State.storeCopy (s : State) : List Byte :=
  if s.cfg.inForce1 then s.cfg.copy1.bytes 1 else s.cfg.copy0.bytes 0

/-- CFG_EXPORT: bytes of the copy in force (R54). -/
def execCfgExport (q : Req) (s : State) : Out :=
  s.ends (s.lmcsRun q 0x0907 fun _ s =>
    let b := s.storeCopy
    let n := min (leAt q.body 4 4) (q.car.respLimit - 8)
    done s (leBytes 4 b.length ++ zeros 4 ++ (b.drop (leAt q.body 0 4)).take n))

/-- Whether the HCRC and DIGEST of an assembled copy check (Table 18.3). -/
def copyChecks (b : List Byte) : Bool :=
  leAt b 0 4 == 0x47464E43 && at1 b 4 == 1 && leAt b 28 4 == (crc32c (b.take 28)).toNat && b.length == 64 + leAt b 16 4 &&
  slice 32 32 b == shake256 (b.take 32 ++ b.drop 64) 32

/-- CFG_IMPORT: in configuration-loss state, a whole copy replaces the pending set (R54). -/
def execCfgImport (q : Req) (s : State) : Out :=
  s.ends (s.lmcsRun q 0x0908 fun _ s =>
    if !s.cfg.loss then refuse s 0x8003
    else match s.takePart q with
      | .error a => a
      | .ok (b, s1) =>
        if copyChecks b then done { s1 with
          cfg := { s1.cfg with imported := some (Config.storeRead (b.drop 64)) }
          lmcs := { s1.lmcs with pending := s1.lmcs.pending.filter fun p => !p.1.same q.car } }
        else refuse s1 0x8003)

end Sys2Proof.Machine
end

