-- ==== Sys2Proof/Machine/Runtime.lean ====
section
/-! DEFINITION. Machine/Runtime.lean: RUN, the 04xxh messages, the quantum, and the services of sachets (chapter 13). -/

namespace Sys2Proof.Machine

open Sys2Proof

/-! ### Staging and sealing (R277 to R279, Table 13.2) -/

/-- The largest image (R278). -/
def stageMax : Nat := 524416

/-- The session's staging area: the bytes up to the end of the last that was staged. -/
def State.stagedOf (s : State) (snum : Nat) : Option (List Byte) :=
  (s.cores.staged.find? fun x => x.1 == snum).map fun x => x.2

/-- STAGE. -/
def execStage (q : Req) (s : State) : Out :=
  s.ends (s.sessRun q 0x0401 fun x s =>
    let b := q.body
    let o := leAt b 0 4
    let img := b.drop 8
    if !zeroAt b 4 4 || stageMax < o + img.length then refuse s 2
    else
      let old := (s.stagedOf x.snum).getD []
      let new := patch (old ++ zeros (o - old.length)) o img
      done { s with cores := { s.cores with staged := s.cores.staged.filter (fun y => y.1 != x.snum) ++ [(x.snum, new)] } })

/-- The offset of the first faulty byte of a sachet image, none for one that R277 accepts. -/
def sachetFault (m : List Byte) : Option Nat :=
  let ne := sachetEntries m
  let code := sachetCode m
  let data := sachetData m
  let bss := sachetBss m
  let sp := sachetSpill m
  let sh := sachetShared m
  let rm := sachetRunMax m
  let magic : List (Nat × Nat) := [(0, 0x53), (1, 0x41), (2, 0x43), (3, 0x48)]
  let whole := 128 + code + data
  firstFault <| (magic.map fun p => (p.1, at1 m p.1 == p.2)) ++
    [(4, at1 m 4 == 1), (5, decide (at1 m 5 < 2)), (6, decide (1 ≤ ne ∧ ne ≤ 16)), (7, at1 m 7 == 0xFF || decide (at1 m 7 < ne)),
     (8, code % 64 == 0 && decide (64 ≤ code ∧ code ≤ 262144)), (12, data % 64 == 0 && decide (data ≤ 262144)),
     (16, bss % 64 == 0 && decide (data + bss ≤ 262144)), (20, sp % 64 == 0 && decide (4096 ≤ sp ∧ sp ≤ 65536)),
     (24, sh % 64 == 0 && decide (sh ≤ 524288)), (28, decide (50 ≤ rm ∧ rm ≤ 60000000))] ++
    ((List.range 16).map fun i =>
      let e := sachetEntry m i
      (64 + 4 * i, if i < ne then e % 4 == 0 && decide (e < code) else e == 0)) ++
    [(min m.length whole, m.length == whole)]

/-- The pool of every tile holds an image's code and shared area: places by tile. -/
def State.placeImage (s : State) (m : List Byte) (snum : Nat) : Option (List (Nat × Nat) × List (Nat × Nat) × State) :=
  s.tileIds.foldl (fun (a : Option (List (Nat × Nat) × List (Nat × Nat) × State)) t =>
    match a with
    | none => none
    | some (cs, ss, s) => match s.poolTake t (sachetCode m) snum with
      | none => none
      | some (c, s1) => match s1.poolTake t (sachetShared m) snum with
        | none => none
        | some (h, s2) =>
          let s3 := (s2.writeMem t c (slice 128 (sachetCode m) m)).zeroRange t h (sachetShared m)
          some (kvSet t c cs, kvSet t h ss, s3)) (some ([], [], s))

/-- SEAL (R278). -/
def execSeal (q : Req) (s : State) : Out :=
  s.ends (s.sessRun q 0x0402 fun x s =>
    if !zeroAt q.body 0 8 then refuse s 2
    else if (s.sachetOf x.snum).isSome then refuse s 0x8003
    else match s.stagedOf x.snum with
      | none => refuse s 0x8004
      | some m => match sachetFault m with
        | some o => refuse s 0x8001 (leBytes 4 o)
        | none =>
          if sachetDigest m ≠ slice 32 32 m then refuse s 0x8002
          else match leastFree 255 (s.cores.sachets.map fun c => c.slot), s.placeImage m x.snum with
            | some slot, some (cs, hs, s1) =>
              let tag := s1.sealTag m x.handle
              let c : Sachet := { slot := slot, snum := x.snum, handle := x.handle, image := m
                                  tags := s1.tileIds.map fun t => (t, tag), code := cs, shared := hs }
              let s2 : State := { s1 with cores := { s1.cores with sachets := s1.cores.sachets ++ [c] } }
              done ((s2.sesGrant x.snum 2).onSession x.snum fun y => { y with sslot := some slot })
                (leBytes 1 slot ++ zeros 7 ++ slice 32 16 m)
            | _, _ => refuse s 0x8005)

/-- UNLOAD (R279). -/
def execUnload (q : Req) (s : State) : Out :=
  s.ends (s.sessRun q 0x0403 fun x s =>
    if !zeroAt q.body 0 8 then refuse s 2
    else if (s.sachetOf x.snum).isNone then refuse s 0x8004
    else if x.outst ≠ 0 then refuse s 0x8006
    else
      let s1 : State := { s with cores := { s.cores with
        sachets := s.cores.sachets.filter fun y => y.snum != x.snum
        staged := s.cores.staged.filter fun y => y.1 != x.snum
        areas := s.cores.areas.filter fun y => y.snum != x.snum
        pool := s.cores.pool.filter fun y => y.snum != x.snum } }
      done ((s1.sesGrant x.snum 2).onSession x.snum fun y => { y with sslot := none }))

/-- SACHET_QUERY: QUERY of 04xxh (Table 13.2). -/
def execSachetQuery (q : Req) (s : State) : Out :=
  s.ends (s.sessRun q 0x0404 fun x s =>
    match s.sachetOf x.snum with
    | none => refuse s 0x8004
    | some c => done s (c.image.take 128 ++ leBytes 1 c.slot ++ zeros 3 ++ leBytes 8 c.invocations ++ leBytes 4 c.faults ++ zeros 4))

/-! ### RUN (R70, R291) -/

/-- The checks of a RUN in the order of R70, then its place in the queue of the session's home tile. -/
def State.startRun (s : State) (t : Track) (h : ThrId) : State :=
  let e := t.sqe
  let k := t.key
  let nsid := e.nsid.toNat
  if !e.vendorForm then s.fail k .invalidField
  else if e.dptr.prpOffsetBad && !e.dptr.sgl then s.fail k .invalidPrpOffset
  else match s.vendorSession t (if nsid = 0 then [] else [(nsid, 1)]) with
    | none => (s.logSession k.fn 1 0 e.cdw2.toNat).fail k .sessionInvalid
    | some x =>
      match (if nsid = 0 then NvmeStatus.success else s.vendorNs nsid) with
      | .success =>
        if !s.outFits x.qbi then s.failQuota k x
        else match s.sachetOf x.snum with
          | none => s.fail k .invalidField
          | some c =>
            if sachetEntries c.image ≤ e.cdw10.toNat % 256 then s.fail k .invalidField
            else if e.dptr.transferError then s.fail k .dataTransferError
            else
              let tile := x.snum / 32768
              ((s.vendorStart k x).enqueue ⟨tile, x.snum, x.cls, .run k⟩).scheduleAt tile [h]
      | st => s.fail k st

/-- RUN: checked and queued when it is new; a queued one is offered the thread again. -/
def execRun (k : CmdKey) (h : ThrId) (s : State) : Out :=
  s.ends (s.withTrack k 0x8F fun t => if t.ses.isNone then s.startRun t h else s.scheduleAt h.tile [h])

/-! ### Quanta (R231, R233, R291) -/

/-- QUANTUM_END: the thread's invocation is preempted; while it is in the runtime the interrupt stays pending, and a thread without an
invocation has its QUANTUM interrupt pending too (R250). -/
def execQuantumEnd (h : ThrId) (heldUs : Nat) (s : State) : Out :=
  s.ends (match s.thr h with
    | none => s.scheduleAt h.tile [h]
    | some x => match x.job with
      | some j =>
        if x.steward then s.setThr { x with irqQuantum := true }
        else s.quantumEnd { x with irqQuantum := false } j heldUs
      | none =>
        if !x.running || x.stop.isSome then s
        else if x.steward then s.setThr { x with irqQuantum := true, waiting := false }
        else s.takePending { x with irqQuantum := true, waiting := false })

/-- RUNMAX_EXPIRY: an invocation has held its core for RUNMAX: C8h with 82h (R291). -/
def execRunmaxExpiry (inv : Nat) (s : State) : Out :=
  s.ends (match s.findInv inv with
    | some (x, j, parked) =>
      let s1 := if parked then s else s.giveUp x.id.tile j (s.now - j.since)
      (s1.endC8 j 0x82).scheduleAt x.id.tile []
    | none => s)

/-! ### Services (R284 to R290, Tables 13.6 and 13.7) -/

/-- The size of a window (R285, Table 13.4). -/
def windowSize (c : Sachet) (w : Nat) : Nat :=
  match w with
  | 0 | 1 => 65536
  | 2 => 16384
  | 3 => sachetData c.image + sachetBss c.image
  | 4 => sachetShared c.image
  | _ => 0

/-- The address of a window. -/
def windowBase (c : Sachet) (a : ThrArea) (w : Nat) : Nat :=
  match w with
  | 0 => a.inW
  | 1 => a.outW
  | 2 => a.hold
  | 3 => a.priv
  | _ => (kvGet a.tile c.shared).getD 0

/-- The address that a window reference names when `n` bytes from it lie in one window (R285). -/
def windowAt (c : Sachet) (a : ThrArea) (ref n : Nat) : Option Nat :=
  let w := ref / 2 ^ 28
  let o := ref % 2 ^ 28
  if w ≤ 4 ∧ windowSize c w ≠ 0 ∧ o + n ≤ windowSize c w then some (windowBase c a w + o) else none

/-- A source range: the HOLD window is one only while it is readable (R289). -/
def sourceAt (c : Sachet) (a : ThrArea) (j : Job) (ref n : Nat) : Option Nat :=
  if ref / 2 ^ 28 = 2 ∧ j.holdOk = false then none else windowAt c a ref n

/-- What a service call finds: its thread, invocation, session snapshot, sachet and areas, and w1 to w6. -/
structure Call where
  x    : Thread
  j    : Job
  k    : Track
  ses  : SesSnap
  c    : Sachet
  a    : ThrArea
  w    : Nat → Nat

/-- The tile of a call. -/
def Call.tile (c : Call) : Nat := c.x.id.tile.val

/-- A service taken up: no effect unless the thread has called service `n`. -/
def State.service (s : State) (h : ThrId) (n : Nat) (f : Call → State → State) : Out :=
  s.ends (match s.thr h with
    | none => s
    | some x => match x.job with
      | none => s
      | some j =>
        if j.svc ≠ some n ∨ !s.executes x then s
        else match s.track j.key, s.sachetOf j.snum, s.areaOf h.tile j with
          | some k, some c, some a => match k.ses with
            | some ses => f ⟨x, j, k, ses, c, a, fun i => x.userReg i⟩ s
            | none => s
          | _, _, _ => s)

/-- A service that returns at once: results in w1 to w6. A quantum that ended meanwhile ends now. -/
def State.answer (s : State) (c : Call) (rs : List (Nat × Nat)) : State :=
  let s1 := s.svcReturn { c.x with job := some c.j } rs
  match s1.thr c.x.id with
  | some y => match y.job with
    | some j => if y.irqQuantum && !y.steward then s1.quantumEnd { y with irqQuantum := false } j (s1.now - j.since) else s1
    | none => s1
  | none => s1

/-- A service that waits: the thread gives up its core, and takes its results at SERVICE_COMPLETION (R284). -/
def State.await (s : State) (c : Call) (rs : List (Nat × Nat)) : State :=
  let held := s.now - c.j.since
  let j : Job := { c.j with svc := none, wait := some ⟨rs⟩, cpu := c.j.cpu + held }
  ((s.giveUp c.tile c.j held).park { c.x with irqQuantum := false } j false).scheduleAt c.tile []

/-- A status alone. -/
def State.status (s : State) (c : Call) (st : Nat) : State := s.answer c [(1, st)]

/-- SERVICE_COMPLETION: the I/O or engine request of a waiting invocation has ended. Its results go to its registers and it may be given
a thread again; that of a DRAINING session ends instead (R284, R290). -/
def execServiceCompletion (inv : Nat) (s : State) : Out :=
  s.ends (match s.parkedJob inv with
    | none => s
    | some (t, x, j) => match j.wait with
      | none => s
      | some w =>
        if s.mirrWaits (.inv inv) then s
        else
          let s0 : State := { s with cores := { s.cores with
            parked := s.cores.parked.filter fun p => (p.2.job.map fun z => z.inv != inv).getD true } }
          let y : Thread := { x.setResults w.regs with job := some { j with wait := none, svc := none } }
          match s0.eret y with
          | .error (c, s1) => (s1.jobFault t j c y.epc.toNat y.badaddr.toNat).scheduleAt t []
          | .ok (z, s1) =>
            if (s1.sessionAt j.snum).any fun v => v.state == 3 then
              ((s1.park z { j with wait := none, svc := none } false).endC8 j (s1.drainCode j.snum)).scheduleAt t []
            else (s1.park z { j with wait := none, svc := none } true).scheduleAt t [])

/-- YIELD: ends the quantum. -/
def execYieldSvc (h : ThrId) (s : State) : Out :=
  s.service h 0x0001 fun c s =>
    let s1 := s.svcReturn { c.x with job := some c.j } [(1, 0)]
    match s1.thr h with
    | some y => match y.job with
      | some j => s1.quantumEnd { y with irqQuantum := false } j (s1.now - j.since)
      | none => s1
    | none => s1

/-- CLOCK: µs since PWROK. -/
def execClock (h : ThrId) (s : State) : Out :=
  s.service h 0x0002 fun c s =>
    let us := s.now - s.boot.since
    s.answer c [(1, 0), (2, us % 2 ^ 32), (3, us / 2 ^ 32)]

/-- IN_NEXT: the next RUN input bytes. -/
def execInNext (h : ThrId) (s : State) : Out :=
  s.service h 0x0010 fun c s =>
    if c.j.esc.isSome then s.status c 14
    else match windowAt c.c c.a (c.w 1) (c.w 2) with
      | none => s.status c 2
      | some a =>
        let all := c.k.sqe.data.take c.k.sqe.cdw12.toNat ++ zeros (c.k.sqe.cdw12.toNat - c.k.sqe.data.length)
        let left := all.drop c.j.inPos
        if left = [] then s.status c 1
        else
          let b := left.take (c.w 2)
          let c1 : Call := { c with j := { c.j with inPos := c.j.inPos + b.length } }
          (s.writeMem c.tile a b).await c1 [(1, 0), (2, b.length)]

/-- The logical bytes of blocks of a namespace, and what reading them meets: none for data that cannot be had. -/
def State.svcRead (s : State) (ns : Namespace) (env : MediaEnv) (lba n : Nat) : Option (List Byte) × State :=
  let g0 := lba * ns.blockSize / ns.grain
  let g1 := ceilDiv ((lba + n) * ns.blockSize) ns.grain
  let r := (List.range (g1 - g0)).foldl (fun (p : Option (List Byte) × State) i =>
    let x := p.2.readGrain ns (g0 + i) env
    (match p.1, x.1 with
      | some b, .zeros => some (b ++ zeros ns.grain)
      | some b, .data d => some (b ++ d.take ns.grain)
      | _, _ => none, x.2)) (some [], s)
  (r.1.map fun b => slice (lba * ns.blockSize - g0 * ns.grain) (n * ns.blockSize) b, r.2)

/-- The blocks of a namespace that NS_READ and NS_WRITE name: the namespace, first block, count and window bytes; none when an
argument is out of range. -/
def State.svcBlocks (s : State) (c : Call) : Option (Namespace × Nat × Nat) :=
  match s.nsOf c.k.sqe.nsid.toNat with
  | none => none
  | some ns =>
    let lba := c.w 1 + c.w 2 * 2 ^ 32
    if c.w 3 = 0 ∨ ns.blocks < lba + c.w 3 then none else some (ns, lba, c.w 3)

/-- NS_READ: needs R, charged to SUSE by the grains that it touches. -/
def execNsRead (h : ThrId) (env : MediaEnv) (s : State) : Out :=
  s.service h 0x0011 fun c s =>
    match s.svcBlocks c with
    | none => s.status c 2
    | some (ns, lba, n) => match windowAt c.c c.a (c.w 4) (n * ns.blockSize) with
      | none => s.status c 2
      | some a =>
        let charge := (ceilDiv ((lba + n) * ns.blockSize) ns.grain - lba * ns.blockSize / ns.grain) * ns.grain
        if c.ses.bits ns.nsid &&& 1 = 0 then s.status c 3
        else if !s.scanFits c.ses.qbi charge then s.status c 4
        else
          let s1 := (s.chargeScan c.ses.qbi charge).quotaGrant (2 + c.tile)
          if (s1.nsRun ns.nsid).keyLost then s1.await c [(1, 8)]
          else if !(s1.nsRun ns.nsid).ready then s1.await c [(1, 6)]
          else match s1.svcRead ns env lba n with
            | (some b, s2) => (s2.writeMem c.tile a b).await c [(1, 0), (2, b.length)]
            | (none, s2) => s2.await c [(1, 6)]

/-- The service status of a write that could not be staged. -/
def writeStatus : NvmeStatus → Nat
  | .peerUnavailable => 13
  | .capacityExceeded => 5
  | .keyLost => 8
  | _ => 2

/-- Blocks staged grain by grain. -/
def State.writeBlocks (s : State) (ns : Namespace) (who : MirrWho) (epoch : Nat) : Nat → Nat → List Byte → Except NvmeStatus State
  | 0, _, _ => .ok s
  | fuel + 1, start, b =>
    if b = [] then .ok s
    else
      let n := min b.length (ns.grain - start % ns.grain)
      match s.stageBytes ns start (b.take n) epoch who false with
      | .error e => .error e
      | .ok s1 => s1.writeBlocks ns who epoch fuel (start + n) (b.drop n)

/-- NS_WRITE: needs W, charged to WUSE; answers when staged, and on a mirrored namespace when the peer has acknowledged (R62, R399). -/
def execNsWrite (h : ThrId) (s : State) : Out :=
  s.service h 0x0012 fun c s =>
    match s.svcBlocks c with
    | none => s.status c 2
    | some (ns, lba, n) => match sourceAt c.c c.a c.j (c.w 4) (n * ns.blockSize) with
      | none => s.status c 2
      | some a =>
        let len := n * ns.blockSize
        if c.ses.bits ns.nsid &&& 2 = 0 then s.status c 3
        else if !s.writeFits c.ses.qbi len then s.status c 4
        else if (s.nsRun ns.nsid).keyLost then s.await c [(1, 8)]
        else match s.writeBlocks ns (.inv c.j.inv) c.k.epoch.toNat (len + 1) (lba * ns.blockSize) (s.readMem c.tile a len) with
          | .error e => s.await c [(1, writeStatus e)]
          | .ok s1 => ((s1.chargeWrite c.ses.qbi len).quotaGrant (2 + c.tile)).await c [(1, 0)]

/-- The first waiting record of a command on a tile. -/
def State.nextEsc (s : State) (t : Nat) (k : CmdKey) : Option (Waiting × Nat × Nat) :=
  s.cores.queue.findSome? fun w => match w.what with
    | .esc k' g i => if w.tile = t ∧ k' = k then some (w, g, i) else none
    | _ => none

/-- A waiting record loaded into IN of an invocation that has finished its own. -/
def State.takeEsc (s : State) (c : Call) (w : Waiting) (g i : Nat) : State :=
  match s.escRec c.j.key g i with
  | none => s.answer { c with j := { c.j with escDone := true } } [(1, 1)]
  | some (r, q) =>
    let s1 := ((s.dequeue w).onEsc c.j.key g i fun z => { z with phase := 1 }).writeMem c.tile c.a.inW q.bytes
    let c1 : Call := { c with j := { c.j with esc := some (g, i), out := [], escDone := false } }
    s1.answer c1 ((1, 0) :: ((escRegs c.j.key g i q.reason r.len).zipIdx.map fun p => (p.2 + 2, p.1)))

/-- ESC_NEXT: finishes the record and takes the command's next waiting one. When none waits the command goes on as far as it can; when
that would end it, it ends with the invocation. -/
def execEscNext (h : ThrId) (s : State) : Out :=
  s.service h 0x0020 fun c s =>
    match c.j.esc with
    | none => s.status c 14
    | some (g, i) =>
      let k := c.j.key
      let s1 := if c.j.escDone then s
        else s.onEsc k g i fun e => { e with phase := 2, keep := c.w 1 == 1, out := c.j.out }
      match s1.nextEsc c.tile k with
      | some (w, g1, i1) => s1.takeEsc c w g1 i1
      | none =>
        let s2 := (s1.driveRaw k).queueEsc k
        let c1 : Call := { c with j := { c.j with escDone := true } }
        match s2.runOf k with
        | none => s1.answer c1 [(1, 1)]
        | some _ => match s2.nextEsc c.tile k with
          | some (w, g1, i1) => s2.takeEsc c w g1 i1
          | none => s2.answer c1 [(1, 1)]

/-- The space that a record's output finds left: the output bytes so far, with the SACHET block of its grain (R185, R288). -/
def ScanRun.sachetFits (r : ScanRun) (g i n : Nat) : Bool :=
  match r.cur with
  | some c =>
    let others := sumOf ((c.recs.filter fun x => x.ridx < i).map fun x => ((x.esc.map fun e => e.out.length).getD 0))
    c.gidx != g || decide (r.out.length + blockLen (others + n) ≤ r.space)
  | none => true

/-- OUT_PUT (R288). -/
def execOutPut (h : ThrId) (s : State) : Out :=
  s.service h 0x0030 fun c s =>
    let n := c.w 2
    match sourceAt c.c c.a c.j (c.w 1) n with
    | none => s.status c 2
    | some a =>
      let b := s.readMem c.tile a n
      let c1 : Call := { c with j := { c.j with out := c.j.out ++ b } }
      if 65536 < n ∨ (c.j.esc.isSome ∧ c.j.escDone) then s.status c 2
      else match c.j.esc with
        | none =>
          if c.k.sqe.outBytes - c.k.sqe.cdw12.toNat < c.j.out.length + n then s.status c 5 else s.await c1 [(1, 0)]
        | some (g, i) => match s.runOf c.j.key with
          | none => s.status c 5
          | some r =>
            if r.sachetFits g i (c.j.out.length + n) && r.mat.isNone then s.await c1 [(1, 0)]
            else (s.setRun { r with cur := r.cur.map fun x => { x with stopAt := some i } }).status c 5

/-! ### CQ (R289, R333) -/

/-- The slot of a key handle, or the status that refuses it: at or beyond KCNT or an empty slot; erased by an alarm; not of the
session's. -/
def State.svcKey (s : State) (c : Call) (handle : Nat) (uses : List Nat) : Except Nat Nat :=
  let slot := c.ses.kbase + handle
  if c.ses.kcnt ≤ handle then .error 7
  else if s.keysLocked then .error 8
  else if s.keyCheck slot (2 + c.ses.snum * 4) uses = 0 then .ok slot else .error 7

/-- The hold of an invocation on its HOLD window. -/
def State.holdOf (s : State) (c : Call) : Option Hold := (s.tileAt c.tile).cqe.holds.find? fun h => h.base == c.a.hold

/-- The thread of a call with its HOLD window readable or not: region 6 (R289). -/
def Call.withHold (s : State) (c : Call) (ok : Bool) : Call :=
  { c with j := { c.j with holdOk := ok }, x := { c.x with rgns := s.regionsOf c.c c.a ok } }

/-- The operands of a block request of CQ: source, destination and AUX addresses. -/
def cqOperands (c : Call) (xor : Bool) : Option (Nat × Nat × Option Nat) :=
  let n := c.w 3
  match sourceAt c.c c.a c.j (c.w 2) n, windowAt c.c c.a (c.w 4) n with
  | some src, some dst =>
    let bad (x y : Nat) : Bool := partOverlap x y n
    if n = 0 ∨ n % 16 ≠ 0 ∨ 65536 < n ∨ src % 16 ≠ 0 ∨ bad src dst then none
    else if xor then match sourceAt c.c c.a c.j (c.w 6) n with
      | some aux => if aux % 16 ≠ 0 ∨ bad src aux ∨ bad dst aux then none else some (src, dst, some aux)
      | none => none
    else some (src, dst, none)
  | _, _ => none

/-- ENC_BLOCKS and DEC_BLOCKS of CQ. -/
def State.cqBlocks (s : State) (c : Call) (enc xor : Bool) : State :=
  match cqOperands c xor with
  | none => s.status c 2
  | some (src, dst, aux) =>
    if c.w 4 / 2 ^ 28 = 2 then s.status c 2
    else match s.svcKey c (c.w 1 / 256 % 64) [if enc then 2 else 3] with
      | .error e => s.status c e
      | .ok slot =>
        let s1 := s.takeKey c.tile slot
        let out := cipherBlocks enc (s1.keySlot slot).key (s1.readMem c.tile src (c.w 3)) (aux.map fun a => s1.readMem c.tile a (c.w 3))
        ((s1.writeMem c.tile dst out).count (.cqe c.tile) 0x080 (c.w 3 / 16)).await c [(1, 0)]

/-- DEC_HOLD of CQ: into the HOLD window, which becomes invalid (R289, R330). -/
def State.cqHold (s : State) (c : Call) (fwd xor : Bool) : State :=
  match cqOperands c xor with
  | none => s.status c 2
  | some (src, dst, aux) =>
    if c.w 4 / 2 ^ 28 ≠ 2 then s.status c 2
    else
      let close (s : State) : State := match s.holdOf c with
        | some h => s.dropHold c.tile h.hid
        | none => s
      match s.svcKey c (c.w 1 / 256 % 64) [if fwd then 2 else 3] with
      | .error e => (close s).status (c.withHold s false) e
      | .ok slot =>
        let hid := ((s.holdOf c).map fun h => h.hid).orElse fun _ => leastFree 16 ((s.tileAt c.tile).cqe.holds.map fun h => h.hid)
        match hid with
        | none => s.status c 2
        | some i =>
          let s1 := s.takeKey c.tile slot
          let out := cipherBlocks fwd (s1.keySlot slot).key (s1.rawRead c.tile src (c.w 3))
            (aux.map fun a => s1.rawRead c.tile a (c.w 3))
          let h : Hold := ⟨i, c.a.hold, slot, 2 + c.ses.snum * 4⟩
          let s2 := (s1.onCqe c.tile fun x => { x with holds := x.holds.filter (fun y => y.hid != i) ++ [h] }).cqeStat c.tile
          ((s2.rawWrite c.tile dst out).count (.cqe c.tile) 0x080 (c.w 3 / 16)).await (c.withHold s2 false) [(1, 0)]

/-- TAGCHECK of CQ: a match makes the HOLD window readable, a mismatch zeroes it (R289, R331, R333). -/
def State.cqTag (s : State) (c : Call) (dgsrc : Bool) : State :=
  let got : Option (List Byte) := if dgsrc then some (fit 16 c.j.dgLast)
    else (sourceAt c.c c.a c.j (c.w 2) 16).map fun a => s.readMem c.tile a 16
  match got, sourceAt c.c c.a c.j (c.w 5) 16, windowAt c.c c.a (c.w 4) 0 with
  | some tag, some ex, some _ =>
    if c.w 4 / 2 ^ 28 ≠ 2 ∨ c.w 3 ≠ 16 then s.status c 2
    else if c.ses.kcnt ≤ c.w 1 / 256 % 64 then s.status c 7
    else match s.holdOf c with
      | none => s.status c 7
      | some h =>
        if h.kslot ≠ c.ses.kbase + c.w 1 / 256 % 64 ∨ h.owner ≠ 2 + c.ses.snum * 4 then s.status c 7
        else if tag = s.readMem c.tile ex 16 then
          let s1 := (s.onCqe c.tile fun x => { x with holds := x.holds.filter fun y => y.hid != h.hid }).cqeStat c.tile
          s1.await (c.withHold s1 true) [(1, 0)]
        else
          let s1 := ((s.dropHold c.tile h.hid).count (.cqe c.tile) 0x084 1).flag (.cqe c.tile) 0x028 1
          s1.await (c.withHold s1 false) [(1, 9)]
  | _, _, _ => s.status c 2

/-- NONCE of CQ: the counter in memory and in w2 to w4 (R332). -/
def State.cqNonce (s : State) (c : Call) : State :=
  match windowAt c.c c.a (c.w 4) 16 with
  | none => s.status c 2
  | some a =>
    match s.svcKey c (c.w 1 / 256 % 64) [2, 3] with
    | .error e => s.status c e
    | .ok slot => match s.takeNonce c.tile slot with
      | (none, s1) => s1.await c [(1, 10)]
      | (some n, s1) =>
        (s1.writeMem c.tile a (leBytes 12 n ++ zeros 4)).await c
          [(1, 0), (2, n % 2 ^ 32), (3, n / 2 ^ 32 % 2 ^ 32), (4, n / 2 ^ 64)]

/-- CQ: requests 1 to 5; FWD only with DEC_HOLD or, as DGSRC, TAGCHECK, XOR only with blocks; other bits of w1 are zero. -/
def execCq (h : ThrId) (s : State) : Out :=
  s.service h 0x0040 fun c s =>
    let w1 := c.w 1
    let fwd := bitN w1 14
    let xor := bitN w1 15
    if 65536 ≤ w1 ∨ c.w 3 % 16 ≠ 0 then s.status c 2
    else match w1 % 256 with
      | 1 => if fwd then s.status c 2 else s.cqBlocks c true xor
      | 2 => if fwd then s.status c 2 else s.cqBlocks c false xor
      | 3 => s.cqHold c fwd xor
      | 4 => if xor then s.status c 2 else s.cqTag c fwd
      | 5 => if fwd ∨ xor then s.status c 2 else s.cqNonce c
      | _ => s.status c 2

/-! ### DIGEST, ZJOB and LOG -/

/-- The attributes of a key that TOKEY makes for a session: LOADED, of the session, and with uses that the manual does not state
(Table 15.2): a free value among ENC, DEC and KMACK. -/
def tokeyAttr (snum uses : Nat) (long : Bool) : Nat :=
  2 + uses % 4 * 4 + uses / 4 % 2 * 32 + b2n long * 128 + 2 * 256 + snum * 1024

/-- The end of a DIGEST call with LAST: TOKEY, the output, and the verdict of COMPARE (Table 13.6, R337). -/
def State.digestLast (s : State) (c : Call) (r : List Byte) : State :=
  let w1 := c.w 1
  let n := r.length
  let ex := if bitN w1 7 then (sourceAt c.c c.a c.j (c.w 5) n).map fun a => s.readMem c.tile a n else some []
  let c1 : Call := { c with j := { c.j with digest := none, dgLast := r.take 16 } }
  match ex with
  | none => s.status c 2
  | some e =>
    let verdict : List (Nat × Nat) := if bitN w1 7 then [(2, b2n (e == r))] else []
    if bitN w1 6 then
      let handle := c.w 4 % 64
      let slot := c.ses.kbase + handle
      if c.ses.kcnt ≤ handle then s.status c 7
      else if s.keysLocked then s.status c 8
      else if (s.keySlot slot).state ≠ 0 then s.status c 2
      else
        let d := s.draw
        let k : KeySlot := ⟨slot, tokeyAttr c.ses.snum d.1 (n == 64), r, 0⟩
        ((d.2.putSlot k).keyGrant c.tile).await c1 ((1, 0) :: verdict)
    else match windowAt c.c c.a (c.w 4) n with
      | none => s.status c 2
      | some a => (s.writeMem c.tile a r).await c1 ((1, 0) :: verdict)

/-- DIGEST: one context for each invocation. SHAKE results are 64 bytes; the KMAC algorithms have no argument for their key. -/
def execDigest (h : ThrId) (s : State) : Out :=
  s.service h 0x0050 fun c s =>
    let w1 := c.w 1
    let alg := w1 % 16
    if 256 ≤ w1 ∨ alg = 0 ∨ 4 < alg then s.status c 2
    else match sourceAt c.c c.a c.j (c.w 2) (c.w 3) with
      | none => s.status c 2
      | some a =>
        let src := s.readMem c.tile a (c.w 3)
        let old : Option DgCall := if bitN w1 4 then some ⟨alg, []⟩ else c.j.digest
        match old with
        | none => s.status c 2
        | some d =>
          if d.alg ≠ alg then s.status c 2
          else
            let d1 : DgCall := { d with data := d.data ++ src }
            if bitN w1 5 then
              let m : DgMsg := { alg := alg, decl := false, tokey := false, cmp := false, key := [], cust := [], data := d1.data }
              s.digestLast c (m.result 64)
            else s.await { c with j := { c.j with digest := some d1 } } [(1, 0)]

/-- COMPRESS of ZJOB (R160, R161, R171): MORE when the space filled. -/
def State.zCompress (s : State) (c : Call) (z : StreamCtx) (first last : Bool) (src : List Byte) (dst space : Nat) : State :=
  let level := min z.level s.power.govcap
  let hist := newest 32768 z.input
  let whole := z.input ++ src
  let out := (if first then wrapOpen z.fmt level else []) ++ Config.deflate level hist src last ++
    (if last then wrapClose z.fmt whole else [])
  let put (c : Call) (z : Option StreamCtx) : Call := { c with j := { c.j with stream := z } }
  if out.length ≤ space then
    (s.writeMem c.tile dst out).await (put c (if last then none else some { z with input := whole, output := z.output ++ out }))
      [(1, 0), (2, src.length), (3, out.length)]
  else
    let d := s.draw
    let used := d.1 % max 1 src.length
    (d.2.writeMem c.tile dst (out.take space)).await
      (put c (some { z with input := z.input ++ src.take used, output := z.output ++ out.take space }))
      [(1, 12), (2, used), (3, space)]

/-- DECOMPRESS of ZJOB (R160, R171): FORMAT for a stream that does not check or ends early. -/
def State.zDecompress (s : State) (c : Call) (z : StreamCtx) (last : Bool) (src : List Byte) (dst space : Nat) : State :=
  let given := z.output.length
  let whole := z.input ++ src
  let r := inflateStream z.fmt (some (given + space)) whole
  let out := r.out.drop given
  let used := ceilDiv r.used 8 - z.input.length
  let z' : StreamCtx := { z with input := whole.take (z.input.length + used), output := r.out }
  let fin (st : Nat) (z : Option StreamCtx) : State :=
    (s.writeMem c.tile dst out).await { c with j := { c.j with stream := z } } [(1, st), (2, used), (3, out.length)]
  match r.stop with
  | .done => fin 0 (if last then none else some z')
  | .more => if last then fin 11 none else fin 0 (some z')
  | .format | .check => fin 11 none
  | .full => fin 12 (some z')

/-- ZJOB: one stream context for each invocation, kept by the runtime (R170). -/
def execZjob (h : ThrId) (s : State) : Out :=
  s.service h 0x0060 fun c s =>
    let w1 := c.w 1
    let op := w1 % 4 + 1
    let fmt := w1 / 4 % 4
    let level := w1 / 16 % 16
    let first := bitN w1 8
    let last := bitN w1 9
    match sourceAt c.c c.a c.j (c.w 2) (c.w 3), windowAt c.c c.a (c.w 4) (c.w 5) with
    | some a, some dst =>
      if 1024 ≤ w1 ∨ !(op = 2 ∨ op = 3) ∨ 2 < fmt ∨ 12 < level ∨ (op = 3 ∧ level ≠ 0) then s.status c 2
      else
        let z : Option StreamCtx := if first then some ⟨0, op, fmt, level, [], []⟩ else c.j.stream
        match z with
        | none => s.status c 2
        | some z =>
          if z.op ≠ op ∨ z.fmt ≠ fmt then s.status c 2
          else
            let src := s.readMem c.tile a (c.w 3)
            if op = 2 then s.zCompress c z first last src dst (c.w 5) else s.zDecompress c z last src dst (c.w 5)
    | _, _ => s.status c 2

/-- LOG: an entry in the function's log; beyond 100 a second for a session, entries are dropped and counted. -/
def execLog (h : ThrId) (s : State) : Out :=
  s.service h 0x0070 fun c s =>
    match sourceAt c.c c.a c.j (c.w 1) (c.w 2) with
    | none => s.status c 2
    | some a =>
      if 64 < c.w 2 ∨ 3 < c.w 3 then s.status c 2
      else
        let sec := s.now / 1000000
        let cur := match s.cores.logRate.find? fun r => r.1 == c.j.snum with
          | some r => if r.2.1 = sec then r else (c.j.snum, sec, 0, r.2.2.2)
          | none => (c.j.snum, sec, 0, 0)
        let full := decide (100 ≤ cur.2.2.1)
        let new := (c.j.snum, sec, cur.2.2.1 + b2n (!full), cur.2.2.2 + b2n full)
        let s1 : State := { s with cores := { s.cores with
          logRate := s.cores.logRate.filter (fun r => r.1 != c.j.snum) ++ [new] } }
        let s2 := if full then s1 else s1.logFunc c.j.key.fn 1 0 c.ses.handle (leBytes 1 (c.w 3) ++ s.readMem c.tile a (c.w 2))
        s2.status c 0

end Sys2Proof.Machine
end

