-- ==== Sys2Proof/Machine/Resets.lean ====
section
/-! DEFINITION. Machine/Resets.lean: what each reset takes away: a controller's or function's reset, PERST_N, the reset of PWROK, and
the failure of the device (chapters 1 to 3, 18 and 21). -/

namespace Sys2Proof.Machine

open Sys2Proof

/-! ### Resets of a function (R33, R58, R83, R226, R423) -/

/-- An outstanding command ended by a reset, without a completion: before its commit point nothing of it stays, and after it, or once
it is forwarded to the peer, the device carries it through alone. -/
def State.endTrack (s : State) (t : Track) : State :=
  let own (g : Staged) : Staged := if g.cmd == some t.key then { g with cmd := none } else g
  let gone (w : MirrWho) : MirrWho := if w == .cmd t.key || w == .run t.key then .resend else w
  let s1 := if t.committed || t.mseq.isSome then s else s.discard t.key
  let s2 : State := { s1 with
    tiles := s1.tiles.map fun x => { x with ftl := { x.ftl with staged := x.ftl.staged.map own } }
    mirror := { s1.mirror with
      out := s1.mirror.out.map fun o => { o with who := gone o.who }
      voids := s1.mirror.voids.map fun v => { v with who := gone v.who } } }
  ((s2.vendorDone t).untrack t.key).releaseEpoch

/-- What carrier instances hold, dropped at their reset: mailboxes, requests and responses (R33), roles and nonces (R353, R358), the
pending set (R52), objects in assembly (R354), the staging area (R355) and the SPDM connection (R357). -/
def State.dropCarriers (s : State) (p : Carrier → Bool) : State :=
  let l := s.lmcs
  { s with
    lmcs := { l with
      boxes := l.boxes.filter fun b => !p (.mailbox b.fn (Fin.ofNat 16 b.num))
      inFlight := l.inFlight.filter fun q => !p q.car
      started := l.started.filter fun q => !p q.car
      done := l.done.filter fun r => !p r.req.car
      receives := l.receives.filter fun r => !p (.admin r.1 r.2.1)
      owners := l.owners.filter fun o => !p o.1
      nonces := l.nonces.filter fun o => !p o.1
      debugNonces := l.debugNonces.filter fun o => !p o.1
      pending := l.pending.filter fun o => !p o.1
      parts := l.parts.filter fun a => !p a.car }
    ident := { s.ident with
      staging := s.ident.staging.filter fun g => !p g.holder
      spdm := s.ident.spdm.filter fun c => !p c.car } }

/-- The host memory buffer withdrawn (R83): every access stops; the sequence that a lockout waits for has begun (R98). -/
def State.withdrawBag (s : State) : State :=
  { s with host := { s.host with hmb := { s.host.hmb with enabled := false, state := 0, chunks := [], lockout := false } } }

/-- A controller after a reset at a time: disabled, its queues gone and their pairs back in the pool (R58), its features at their
defaults. -/
def Controller.afterReset (c : Controller) (now : Nat) : Controller :=
  { fn := c.fn, cfs := c.cfs, online := c.online, vq := c.vq, vi := c.vi, feat := { stampAt := now } }

/-- The PF of port A, which alone offers a host memory buffer (R80). -/
def pfA : FnId := ⟨0, 0⟩

/-- A reset of the controller of a function (R33, R58, R83, R226, R423). -/
def State.resetFn (s : State) (f : FnId) : State :=
  let s1 := (s.host.tracks.filter fun t => t.key.fn == f).foldl State.endTrack s
  let s2 := ((s1.dropCarriers fun c => c.fn == some f).clearFuncLog f).drainFn f
  let s3 := if f == pfA then s2.withdrawBag else s2
  s3.onCtrl f fun c => c.afterReset s.now

/-- CONTROLLER_RESET: the host clears CC.EN. -/
def execControllerReset (f : FnId) (s : State) : Out :=
  s.ends (if (s.host.ctrl f).isSome then s.resetFn f else s)

/-- FUNCTION_LEVEL_RESET. -/
def execFunctionLevelReset (f : FnId) (s : State) : Out :=
  s.ends (if (s.host.ctrl f).isSome then s.resetFn f else s)

/-- The admin queue pair of an enabled controller, of the largest size (R58), with interrupt vector 0. -/
def Controller.withAdmin (c : Controller) : Controller :=
  if (c.sq 0).isSome then c
  else { c with sqs := ⟨0, 4096, 0, 0, 0, 0⟩ :: c.sqs, cqs := ⟨0, 4096, 0, 0, some 0⟩ :: c.cqs }

/-- CC_EN: the host sets CC.EN once configuration completes normally; CSTS.RDY follows when step 11 is past, and never on a device that
has failed (R377, R392, R25). -/
def execCcEn (f : FnId) (s : State) : Out :=
  s.ends (if !s.host.configured then s
    else s.onCtrl f fun c => if !c.online then c
      else { c.withAdmin with en := true, rdy := s.boot.reached11 && !c.cfs })

/-! ### PERST_N (R44, R57, R83, R226) -/

/-- PORTMODE as the configuration store headers give it: that of the header with the higher SEQ; x16 where neither is written (R381). -/
def State.headerMode (s : State) : Nat :=
  let a := s.cfg.copy0
  let b := s.cfg.copy1
  if b.present && (!a.present || a.seq < b.seq) then b.portMode else if a.present then a.portMode else 0

/-- The controllers of the functions that a port mode presents: one PF with 127 VFs on port A, and in dual x8 mode on port B too. A
VF starts offline (R57). -/
def State.portCtrls (s : State) : List Controller :=
  let ports : List (Fin 2) := if s.host.portMode = 1 && s.fuses.part != .ltr2032 then [0, 1] else [0]
  ports.flatMap fun p => (List.range 128).map fun k =>
    { fn := ⟨p, Fin.ofNat 128 k⟩, online := k == 0, cfs := s.boot.startFailed || s.boot.failed != [] }

/-- PERST_N asserted: the host ports, controllers, functions and mailboxes are reset and every session drains; the port mode is
latched. No tile block is reset, and nothing staged or journalled is lost (R44, R57, R226). -/
def execPerstN (s : State) : Out :=
  s.ends (
    let s1 := s.host.tracks.foldl State.endTrack s
    let s2 := s1.dropCarriers fun c => c.fn.isSome
    let s3 := s2.ses.sessions.foldl (fun (s : State) x => if x.state = 3 then s else (s.drain x none).schedule) s2
    let due := s3.cfg.body.later.filter fun p => p.1 == 1
    let body := { s3.cfg.body with
      params := due.foldl setParam s3.cfg.body.params
      later := s3.cfg.body.later.filter fun p => p.1 != 1 }
    let s4 : State := { s3 with
      cfg := { s3.cfg with body := body }
      logs := { s3.logs with funcs := [] }
      pins := { s3.pins with perst := true } }
    let mode := if s4.boot.storeRead && !s4.cfg.loss then s4.param 1 0 0 else s4.headerMode
    let s5 : State := { s4 with host := { s4.host with
      portMode := mode, fetchPtr := (0, 0), linkUp := false, linkTraining := false } }
    let s6 : State := { s5 with host := { s5.host with ctrls := if s5.host.configured then s5.portCtrls else [] } }
    s6.withdrawBag)

/-! ### The reset of PWROK (R43, R441, chapter 18) -/

/-- The records of the journal that reached flash or a complete dump. -/
def Ftl.kept_ (f : Ftl) (seq : Nat) : Bool :=
  seq < f.durSeq || f.dumps.any fun d => d.complete && d.tail.any fun j => j.seq == seq

/-- Superblocks whose OPEN record, or runs whose ADD record, a cut has lost. -/
def Ftl.lostSbs (f : Ftl) : List Nat :=
  f.journal.filterMap fun j => match j.body with
    | .sblk 1 n _ _ _ _ _ => if f.kept_ j.seq then none else some n
    | _ => none

/-- Run numbers whose ADD record a cut has lost. -/
def Ftl.lostRuns (f : Ftl) : List Nat :=
  f.journal.filterMap fun j => match j.body with
    | .irun 1 _ n _ => if f.kept_ j.seq then none else some n
    | _ => none

/-- What a tile's flash holds over a cut of its power: the programmed pages, the journal and the root copies that they carry, and
retirements. A superblock that was open is closed after the start (R117). -/
def Tile.cold (x : Tile) : Tile :=
  let f := x.ftl
  let lost := f.lostSbs
  let quads := (f.sbs.filter fun b => lost.contains b.sbn).flatMap fun b => b.members.map fun m => m.1
  let keepPage (k : Nat) : Bool := !(quads.any fun q => k / 2 ^ 28 == q.chan * 16 + q.lun && k / 2 ^ 12 % 2 ^ 14 == q.block)
  let sbs := (f.sbs.filter fun b => !lost.contains b.sbn).map fun b =>
    if b.closed && !f.kept_ b.closeSeq && f.durSeq ≤ b.closeSeq then { b with closed := false } else b
  { flash := { pages := x.flash.pages.filter (fun p => keepPage p.1), features := []
               retLuns := x.flash.retLuns, retChans := x.flash.retChans, checked := x.flash.checked }
    comp := { retired := x.comp.retired }
    siftA := { retired := x.siftA.retired }
    siftB := { retired := x.siftB.retired }
    idx := { runs := x.idx.runs.filter (fun r => !f.lostRuns.contains r.num), nextRun := x.idx.nextRun, retired := x.idx.retired,
             regenAll := x.idx.regenAll }
    cqe := { retired := x.cqe.retired }
    dge := { retired := x.dge.retired }
    xtsA := { retired := x.xtsA.retired }
    xtsB := { retired := x.xtsB.retired }
    ftl := { journal := f.journal.filter (fun j => j.seq < f.durSeq), nextSeq := f.durSeq, durSeq := f.durSeq
             rootA := f.rootA, rootB := f.rootB, lastB := f.lastB
             stored := f.stored.filter (fun g => g.done && !lost.contains g.sbn), sbs := sbs
             wear := f.wear, retQuads := f.retQuads, doomed := f.doomed, dumpQuads := f.dumpQuads, oldQuads := f.oldQuads
             dumpErased := f.dumpErased, dumps := f.dumps, pfseq := f.pfseq, q0 := f.q0, rsv := f.rsv, roots := f.roots
             metaPages := f.metaPages.filter fun m => !lost.contains m.sbn && !(m.id.1 == 3 && f.lostRuns.contains m.id.2.1)
             metaKept := f.metaKept.filter fun m => !lost.contains m.sbn
             toClose := (sbs.filter fun b => !b.closed).map fun b => b.sbn } }

/-- A dump cut short: the device lost its supply in Protected mode between the failure and the end of the tile's dump, which the next
start finds incomplete (R374). -/
def Tile.cutDump (x : Tile) : Tile :=
  { x with ftl := { x.ftl with
      dumps := x.ftl.dumps ++ [⟨x.ftl.pfseq + 1, x.ftl.durSeq, x.ftl.root.number, [], [], [], false, false⟩]
      pfseq := x.ftl.pfseq + 1, dumpErased := false } }

/-- The device after a reset of PWROK: fuses, what the NAND holds, the board's pins and host memory stay, and all else is at its reset
values (R8, R43). -/
def State.powerCycle (s : State) (powered : Bool) (bootSel : BitVec 2) (pairEn : Bool) : State :=
  let cut (t : Nat) (x : Tile) : Tile :=
    if s.protected_ && 4 ≤ s.power.step && !s.power.parked && !s.power.dumped.contains t then x.cutDump else x
  { fuses := s.fuses
    tiles := s.tiles.mapIdx fun i x => (cut i x).cold
    mem := { host := s.mem.host }
    cfg := { copy0 := s.cfg.copy0, copy1 := s.cfg.copy1 }
    pins := { s.pins with act := false, vset := 8, tap := .idcode }
    ident := { a0 := s.ident.a0, a1 := s.ident.a1, b0 := s.ident.b0, b1 := s.ident.b1 }
    boot := { powered := powered, readOnly := s.boot.readOnly, bootSel := bootSel, pairEn := pairEn, since := s.now }
    logs := { persist := s.logs.persist, nextSeq := s.logs.nextSeq, retired := s.logs.retired
              mediaErrors := s.logs.mediaErrors, critical := s.logs.critical &&& 9 }
    now := s.now
    free := s.free
    pending := s.pending }

/-- MEM.STAT.INIT: the hardware has invalidated the L2, the L1s, the victim buffers and the near pool tags of every tile (R306). -/
def State.invalidated (s : State) : State := s.tileIds.foldl (fun (s : State) t => s.flag (.mem t) 0x004 3) s

/-- PWROK_RISE: the straps are sampled, caches are invalidated and the start begins (R377, R440, R306). -/
def execPwrokRise (s : State) : Out :=
  s.ends (if s.boot.powered then s
    else ({ s with boot := { s.boot with
      powered := true, bootSel := s.pins.bootSel, pairEn := s.pins.pairEn, since := s.now } } : State).invalidated)

/-- PWROK_FALL: a low of 1 µs or more is a full reset, and a shorter one is ignored (R441). -/
def execPwrokFall (lowNs : Nat) (s : State) : Out :=
  s.ends (if lowNs < 1000 then s else s.powerCycle false s.boot.bootSel s.boot.pairEn)

/-- SUPPLY_COLLAPSE: VDD_CORE or VDD_AON below 0.64 V for 1 µs or more acts as a fall of PWROK; for less it is a VOLT alarm (R454). -/
def execSupplyCollapse (lowNs : Nat) (s : State) : Out :=
  s.ends (if !s.boot.powered then s
    else if lowNs < 1000 then s.alarm .voltage
    else s.powerCycle false s.boot.bootSel s.boot.pairEn)

/-- SUPPLY_DIP: a dip that stays at or above 0.64 V is logged as INFO, with its depth in mV (R454). -/
def execSupplyDip (millivolts : Nat) (s : State) : Out :=
  s.ends (if s.boot.powered && 640 ≤ millivolts then s.log 0 0 5 8 0 millivolts else s)

/-- PARK_RESTART: PFAIL_N has been high for 10 ms after the park while PWROK stayed high: the device restarts as after PWROK, with the
straps as they were sampled (R374, R440). -/
def execParkRestart (s : State) : Out :=
  s.ends (if !s.power.parked then s
    else
      let s1 : State := { s with pins := { s.pins with gpio := setAt s.pins.gpio 0 true } }
      (s1.powerCycle true s.boot.bootSel s.boot.pairEn).invalidated)

/-! ### Failure of the device (R25, R378) -/

/-- TILE_FAILURE: a tile loses its core supply (R25): before step 11 the start fails. -/
def execTileFailure (t : TileId) (s : State) : Out :=
  s.ends (if !s.hasTile t || s.boot.failed.contains t.val then s
    else s.tileFails t)

end Sys2Proof.Machine
end

