-- ==== Sys2Proof/Machine/Startup.lean ====
section
/-! DEFINITION. Machine/Startup.lean: the start, from the self-test to the second sweep, and the recovery of the map (chapter 18). -/

namespace Sys2Proof.Machine

open Sys2Proof

/-! ### Progress (R394) -/

/-- PHASE of STARTUP_STAT; in configuration-loss state it stays CFGLOSS (R382). -/
def State.phase (s : State) (p : Nat) : State := if s.cfg.loss then s else s.wrField .glb 0x300 3 0 p

/-- The start goes on: PWROK is high, and neither recovery nor a failure has ended it. -/
def State.starting (s : State) : Bool := s.boot.powered && !s.inRecovery

/-- Milliseconds since PWROK, as 16 bits (R394). -/
def State.startMs (s : State) : Nat := min 65535 ((s.now - s.boot.since) / 1000)

/-- Domains switched on by the boot ROM or Blustite. -/
def State.switchOn (s : State) (ds : List (Nat × Nat)) : State :=
  ds.foldl (fun (s : State) d =>
    if !s.domainMay d.1 d.2 || s.power.on.contains d then s
    else
      let s1 : State := { s with power := { s.power with
        on := s.power.on ++ [d], changing := s.power.changing.filter fun y => y != d } }
      (s1.wrField (.pwr d.1) 0x000 d.2 d.2 1).pdStat d.1) s

/-- A channel enabled at an interface and rate, its LUNs in service mapped (R142, R144, CTRL). -/
def State.enableChan (s : State) (t c iface rate : Nat) : State :=
  let x := s.tileAt t
  if !x.chanUp c then s.fchStat t c
  else
    let map := sumOf (((List.range (min 16 s.fuses.luns)).filter fun l => x.lunUp c l).map fun l => 2 ^ l)
    let s1 := (s.wrField (.fch t c) 0x000 4 0 (1 + iface * 2 + rate * 8)).wrField (.fch t c) 0x018 15 0 map
    s1.fchStat t c

/-! ### Self-test, links and the boot image (R316, R377, R350) -/

/-- SELF_TEST_COMPLETE: failed banks are retired; a failed checker, or another array that failed, fails the tile and with it the
start (R316, R314, R378). -/
def execSelfTestComplete (t : TileId) (failedBanks : List (Fin 48)) (checkerOk : Bool) (s : State) : Out :=
  s.ends (if !s.starting || !s.hasTile t || s.boot.tested.contains t.val || s.boot.image then s
    else
      let s1 := ((s.flag (.mem t) 0x004 3).wrField (.mem t) 0x004 1 0 (if failedBanks = [] then 2 else 3)).phase 1
      let s2 := failedBanks.foldl (fun (s : State) (b : Fin 48) => s.retireBank t b.val 0xA3) s1
      let s3 : State := { s2 with boot := { s2.boot with tested := s2.boot.tested ++ [t.val] } }
      if checkerOk then s3 else (s3.flag (.mem t) 0x004 2).failTile t)

/-- The PCIe PHY powered and link training started, in the port mode of the store headers (R377, R381). -/
def State.trainLink (s : State) : State :=
  let mode := if s.boot.storeRead then s.host.portMode else s.headerMode
  let s1 := s.switchOn [(0, 4), (1, 4)]
  { s1 with host := { s1.host with linkTraining := true, linkUp := true, portMode := mode } }

/-- LINK_TRAINING_START: 25 ms after PWROK, unless PERST_N still is asserted (R377, R441). -/
def execLinkTrainingStart (s : State) : Out :=
  s.ends (if !s.starting || s.pins.perst || s.host.linkTraining then s else s.trainLink)

/-- PERST_N_DEASSERTION: later than 25 ms after PWROK, training starts at once (R441, Table 21.3). -/
def execPerstNDeassertion (s : State) : Out :=
  s.ends (
    let s1 : State := { s with pins := { s.pins with perst := false } }
    if !s1.starting || s1.host.linkTraining || s1.now < s1.boot.since + 25000 || s1.power.parked then s1 else s1.trainLink)

/-- Recovery: link training stops, and no flash other than the boot blocks is read or written (R350, R379). -/
def State.enterRecovery (s : State) : State :=
  let s1 : State := { s with
    boot := { s.boot with recovery := true }
    host := { s.host with linkTraining := false, linkUp := false } }
  s1.wrField .glb 0x300 3 0 8

/-- The copies of a slot on the boot channels that yield a boot profile record (R159). -/
def State.bootCopies (s : State) (i : Nat) (c0 c1 : Bool) : FwCopy × FwCopy :=
  let c := s.slotCopies i
  (if c0 then c.1 else {}, if c1 then c.2 else {})

/-- The slot and image that BOOT_SEL gives (R350): the slots whose rank is known, in the order in which they are tried. -/
def State.bootPick (s : State) (c0 c1 : Bool) : Option (Nat × List Byte) :=
  let s1 := (s.setSlot 0 (s.bootCopies 0 c0 c1)).setSlot 1 (s.bootCopies 1 c0 c1)
  let ranked := sortBy (fun (a b : Nat × Nat) => b.2 < a.2)
    ([0, 1].filterMap fun i => (s1.slotSeq i).map fun q => (i, q))
  let order := if s.boot.bootSel = 1 then ranked.reverse else ranked
  order.findSome? fun r => (s1.slotImage r.1).map fun m => (r.1, m)

/-- BOOT_SELECT: the boot profiles are read and FC000 and FC016 trained at their boot rate; an image is chosen, verified and started, or
the device enters recovery (R144, R159, R349, R350, R379). A boot channel that cannot be read at all fails the start (R433). The
unit's private key is rebuilt with the image (R347). -/
def execBootSelect (fc000 fc016 : BootRead) (s : State) : Out :=
  s.ends (if !s.starting || s.boot.image || !s.tileIds.all s.boot.tested.contains then s
    else if fc000 = .dead ∨ fc016 = .dead then s.failStart
    else
      let s0 := s.switchOn [(0, 0), (1, 0)]
      let s1 := if fc000 = .ok then s0.enableChan 0 0 2 0 else s0
      let s2 := if fc016 = .ok then s1.enableChan 1 0 2 0 else s1
      if s.boot.bootSel = 2 ∨ (fc000 ≠ .ok ∧ fc016 ≠ .ok) then s2.enterRecovery
      else match s.bootPick (fc000 = .ok) (fc016 = .ok) with
        | none => s2.enterRecovery
        | some (i, m) =>
          let s3 : State := { s2 with
            boot := { s2.boot with image := true }
            ident := { s2.ident with image := m, slot := some i, signing := !s2.keysLocked } }
          (s3.wrField .glb 0x300 6 6 i).phase 2)

/-! ### The configuration store (R380 to R382, R326, R99) -/

/-- A device key put into a slot: attributes and value (Table 15.1). -/
def State.deviceKey (s : State) (slot attr : Nat) (key : List Byte) : State := s.putSlot ⟨slot, attr, key, 0⟩

/-- A fresh device key drawn into a slot. -/
def State.drawKey (s : State) (slot attr n : Nat) : State :=
  let d := s.drawBytes n
  d.2.deviceKey slot attr d.1

/-- The lowest free slot of the shared pool (R326). -/
def State.poolSlot (s : State) : Option Nat := s.keyRun 1

/-- A namespace's media key unwrapped into the lowest free pool slot; a blob that fails leaves the namespace without its key and is
logged (R326). -/
def State.unwrapMedia (s : State) (ns : Namespace) : State :=
  match keyUnwrap (s.slotKey 10) ns.blob, s.poolSlot with
  | some b, some k => s.deviceKey k (leAt b 64 4) (b.take 64)
  | _, _ => (s.log 2 0 3 8 0 ns.nsid).onNs ns.nsid fun x => { x with keyLost := true }

/-- The KEK derived from the unit secret, the media keys unwrapped, and the seal, token, sachet and metadata keys (R326, R99, R191,
Table 15.1). -/
def State.loadKeys (s : State) : State :=
  if s.keysLocked then s
  else
    let s1 := s.deviceKey 10 0x42 (kmac256 (fit 32 s.fuses.unitSecret) (ascii "LTRKEK") [] 32)
    let s2 := s1.cfg.body.namespaces.foldl State.unwrapMedia s1
    let s3 := s2.tileIds.foldl (fun (s : State) t => (s.drawKey t 0x22 32).drawKey (16 + t) 0x92 64) s2
    (s3.drawKey 8 0x22 32).drawKey 9 0x22 32

/-- A quota block as the store holds it (Table 10.8). -/
def quotaOf (qbi : Nat) (b : List Byte) : Quota :=
  ⟨qbi, leAt b 0 8, leAt b 8 8, leAt b 16 8, leAt b 24 2, leAt b 28 4, 0, 0, 0, 0⟩

/-- The banks whose bit the self-test of this start has set. -/
def State.banksSet (s : State) : List (Nat × Nat) :=
  s.tileIds.flatMap fun t => ((List.range 48).filter fun b =>
    bitN (s.rd (.mem t) (if b < 32 then 0x04C else 0x050)) (b % 32)).map fun b => (t, b)

/-- The recorded bits of retired banks set before the fill (R314). -/
def State.setBanks (s : State) : State :=
  s.cfg.body.banks.foldl (fun (s : State) p => s.flag (.mem p.1) (if p.2 < 32 then 0x04C else 0x050) (p.2 % 32)) s

/-- SCR as Blustite sets it, with the replacements of the retired banks of a tile in use: the near pool for the first, two slices of
scratch for each other; with none left the tile fails (R299, R314). -/
def State.replaceBanks (s : State) (t : Nat) : State :=
  let k := (s.banksSet.filter fun p => p.1 == t).length
  let s1 := s.wr (.mem t) 0x008 (min 12 (8 + 2 * (k - 1)))
  let s2 := if k = 0 then s1 else s1.flag (.mem t) 0x004 6
  if 3 < k then s2.failTile t else s2

/-- Step 6 of Table 18.1 but for the choice of the copy: retired banks, fill, keys, channels, functions, quotas and the log. -/
def State.configure (s : State) : State :=
  let s1 := s.setBanks
  let s2 : State := { s1 with mem := { host := s1.mem.host, lines := [], pool := [], remap := [] } }
  let s3 := (s2.loadKeys).deriveSeals
  let s4 := s3.switchOn (s3.tileIds.flatMap fun t => [(t, 0), (t, 1), (t, 3)])
  let rate := s4.param 5 0 3
  let s5 := s4.tileIds.foldl (fun (s : State) t =>
    let a := (List.range 16).foldl (fun (s : State) c => s.enableChan t c (if bitN rate 2 then 1 else 2) (rate % 4)) s
    (a.replaceBanks t).wr (.core t) 0x100 1) s4
  { s5 with
    ses := { s5.ses with quotas := s5.cfg.body.quotas.map fun q => quotaOf q.1 q.2 }
    host := { s5.host with configured := true, ctrls := s5.portCtrls }
    logs := { s5.logs with events := newest 4096 (s5.logs.persist ++ s5.logs.events) }
    boot := { s5.boot with storeRead := true } }

/-- CONFIG_STORE_LOAD: both copies are read and `checks` tells which of them check; the one in force has the higher SEQ. With none the
device starts in configuration-loss state. Stored values that waited for a start take effect, and a PORTMODE that differs from the
one latched waits for PERST_N and is logged (R380 to R382, R53). -/
def execConfigStoreLoad (checks : Bool × Bool) (s : State) : Out :=
  s.ends (if !s.starting || !s.boot.image || s.boot.storeRead then s
    else
      let c0 := s.cfg.copy0
      let c1 := s.cfg.copy1
      let ok0 := c0.present && checks.1
      let ok1 := c1.present && checks.2
      let mode := if s.host.linkTraining then s.host.portMode else s.headerMode
      let s0 : State := { s with host := { s.host with portMode := mode } }
      if !ok0 && !ok1 then
        let s1 : State := { s0 with cfg := { s0.cfg with loss := true } }
        ((s1.configure).flag .glb 0x300 5).wrField .glb 0x300 3 0 10
      else
        let one := ok1 && (!ok0 || c0.seq < c1.seq)
        let b := if one then c1.body else c0.body
        let params := (b.later.filter fun p => p.1 != 1).foldl setParam b.params
        let want := (((b.later ++ params).find? fun p => p.1 == 1).map fun p => p.2.2).getD 0
        let params1 := setParam (params.filter fun p => p.1 != 1) (1, 0, mode)
        let body := { b with params := if mode = 0 then params.filter (fun p => p.1 != 1) else params1
                             later := if want = mode then [] else [(1, 0, want)]
                             banks := (b.banks ++ s0.banksSet).eraseDups }
        let s1 : State := { s0 with cfg := { s0.cfg with inForce1 := one, body := body } }
        let s2 := ((s1.configure).wrField .glb 0x300 4 4 (b2n one)).phase 3
        if want = mode then s2 else s2.log 0 0 5 8 0 want)

/-! ### Map recovery (R105, R107, R383 to R388) -/

/-- GROUP of a change record. -/
def JRec.group : JRec → Nat
  | .map g _ _ | .zrange g _ _ _ => g
  | _ => 0

/-- Whether a record changes a grain other than by moving it. -/
def JRec.changes (b : JRec) (k : GKey) : Bool :=
  match b with
  | .map _ x _ => x == k
  | .zrange _ x _ n => x.nsx == k.nsx && x.lg ≤ k.lg && k.lg < x.lg + n
  | _ => false

/-- Groups that have records in a journal. -/
def Ftl.journalGroups (f : Ftl) : List Nat := ((f.journal.map fun j => j.body.group).filter fun g => g != 0).eraseDups

/-- One complete dump consumed: its tail continues the journal, its fragments go into staging and the index half into the sort area
(R383). A fragment of a group waits for the group, and one that had not committed is dropped (R103, R371). Consumed again after a cut,
its tail already stands in the journal (R384). -/
def Tile.consume (x : Tile) (d : Dump) : Tile :=
  let f := x.ftl
  let dend := d.jseq + d.tail.length
  let back (g : Staged) : Staged := { g with cmd := none, dend := some dend, commit := g.group == 0 }
  let f1 : Ftl := if d.consumed then f else { f with journal := f.journal ++ d.tail, nextSeq := dend, durSeq := dend }
  { x with
    ftl := { f1 with
      staged := f1.staged ++ (d.frags.filter fun g => g.commit || g.group != 0).map back
      dumps := f1.dumps.map fun y => if y == d then { y with consumed := true } else y }
    idx := { x.idx with half0 := x.idx.half0 ++ d.half } }

/-- Whether a dump is complete where it is met: its header checks, and its JSEQ follows the last valid journal page, or it was consumed
before (R383, R384). -/
def Ftl.dumpOk (f : Ftl) (d : Dump) : Bool := d.complete && (d.consumed || d.jseq == f.nextSeq)

/-- The dumps of a tile consumed in ascending PFSEQ: the tile, and whether any and whether the newest was complete. -/
def Tile.consumeAll (x : Tile) : Tile × Bool × Bool :=
  (sortBy (fun (a b : Dump) => a.pfseq < b.pfseq) x.ftl.dumps).foldl (fun (r : Tile × Bool × Bool) d =>
    if r.1.ftl.dumpOk d then (r.1.consume d, true, true) else (r.1, r.2.1, false)) (x, false, true)

/-- MAP_RECOVERY_READ: the newest root copy whose pages check is taken, the journal read to its end, and the complete dumps consumed. A
tile with no good root copy fails the start. The newest dump incomplete is a hold-up failure (R105, R107, R374, R383). In
configuration-loss state no dump is consumed (R382). -/
def execMapRecoveryRead (t : TileId) (rootOk : Bool × Bool) (s : State) : Out :=
  s.ends (if !s.starting || !s.hasTile t || !s.boot.storeRead || (s.tileAt t).ftl.recovered ≠ 0 then s
    else if !rootOk.1 && !rootOk.2 then s.failTile t
    else
      let f := (s.tileAt t).ftl
      let useB := rootOk.2 && (!rootOk.1 || f.rootA.number < f.rootB.number)
      let root := if useB then f.rootB else f.rootA
      let s1 := s.onTile t fun x => { x with ftl := { x.ftl with lastB := useB, leaves := root.leaves, recovered := 1 } }
      if s.cfg.loss then s1
      else
        let r := (s1.tileAt t).consumeAll
        let s2 := s1.onTile t fun _ => { r.1 with ftl := { r.1.ftl with groupsLive := r.1.ftl.journalGroups } }
        let s3 := if r.2.1 then s2.flag .glb 0x300 (8 + t) else s2
        let s4 := if r.2.2 then s3 else (s3.flag .glb 0x300 (24 + t)).log 3 0xB1 2 t 0 0
        s4.phase 4)

/-- The records of some namespaces applied in journal order from the replay start, those of groups only when their group is in `gs`; a
restored grain that a later change replaces is dropped (R101, R384, R385). -/
def Ftl.replay (f : Ftl) (pick : Nat → Bool) (gs : List Nat) : Ftl :=
  let mine (j : JEntry) : Bool := f.root.start ≤ j.seq && (j.body.nsx.map pick).getD false &&
    (j.body.group == 0 || gs.contains j.body.group)
  let recs := f.journal.filter mine
  let f1 := recs.foldl Ftl.apply { f with
    overlay := f.overlay.filter fun o => !pick o.key.nsx
    groupsDone := (f.groupsDone ++ gs).eraseDups }
  let stale (g : Staged) : Bool := pick g.key.nsx && match g.dend with
    | some d => recs.any fun j => d ≤ j.seq && j.body.changes g.key
    | none => false
  { f1 with staged := f1.staged.filter fun g => !stale g
            changes := (f.journal.filter fun j => f.root.start ≤ j.seq && j.body.isChange).length }

/-- Durable records and restored fragments of a group on a tile, from a sequence on (R107, R387). -/
def Ftl.groupCount (f : Ftl) (g start : Nat) : Nat :=
  (f.journal.filter fun j => start ≤ j.seq && j.body.group == g).length +
    (f.staged.filter fun y => y.group == g && y.dend.isSome).length

/-- Whether a tile meets its count of a group: over the records of the replay, or over every record still on flash (R106, R107). -/
def State.groupMet (s : State) (t g c : Nat) : Bool :=
  let f := (s.tileAt t).ftl
  f.groupCount g f.root.start == c || f.groupCount g 0 == c

/-- The namespaces (NSX) that the records and fragments of a group touch. -/
def State.groupNsx (s : State) (g : Nat) : List Nat :=
  s.tiles.toList.flatMap fun x => (x.ftl.journal.filterMap fun j => if j.body.group = g then j.body.nsx else none) ++
    (x.ftl.staged.filter fun y => y.group == g && y.dend.isSome).map fun y => y.key.nsx

/-- The groups of some namespaces that T0 applies: a durable GCOMMIT, every count met, and for a mirrored namespace a durable MIRR
CHANGE (R107, R387, R411). -/
def State.groupsApplied (s : State) (pick : Nat → Bool) : List Nat :=
  let j0 := (s.tileAt 0).ftl.journal
  (j0.filterMap fun j => match j.body with
    | .gcommit g a ca b cb =>
      let nsx := s.groupNsx g
      let mirrored := nsx.any fun n => (s.mirrorDef (n + 1)).isSome
      let change := j0.any fun k => match k.body with
        | .mirr 1 h _ _ _ _ => h == g
        | _ => false
      if nsx.any pick && s.groupMet a g ca && (b == a || s.groupMet b g cb) && (!mirrored || change) then some g else none
    | _ => none).eraseDups

/-- GROUP_RESOLUTION: the groups of some namespaces applied or discarded on every tile, with the restored fragments that they hold
(R387). A fragment of an applied group is then like a write within one tile. -/
def State.resolve (s : State) (pick : Nat → Bool) : State :=
  let gs := s.groupsApplied pick
  let settle (g : Staged) : Option Staged :=
    if !pick g.key.nsx || g.dend.isNone || g.group == 0 then some g
    else if gs.contains g.group then some { g with group := 0, commit := true } else none
  { s with tiles := s.tiles.map fun x =>
    let f := x.ftl.replay pick gs
    { x with ftl := Ftl.settleZero s.pinNsx { f with staged := f.staged.filterMap settle } } }

/-- The records that the first sweep takes: those of the pinned namespace. -/
def State.isPinned (s : State) (nsx : Nat) : Bool := s.pinned == nsx + 1

/-- FIRST_SWEEP: the pinned namespace's records applied and its map pages loaded into the cache; after the last tile T0 resolves the
groups of the pinned namespace (R93, R385, R387). -/
def execFirstSweep (t : TileId) (s : State) : Out :=
  s.ends (if !s.starting || !s.hasTile t || (s.tileAt t).ftl.recovered ≠ 1 then s
    else
      let s1 := s.onTile t fun x =>
        let f := x.ftl.replay s.isPinned []
        { x with ftl := { f with recovered := 2, cache := (f.cache ++ f.pinnedPages s.isPinned).eraseDups } }
      if s1.tileIds.all fun u => 2 ≤ (s1.tileAt u).ftl.recovered then s1.resolve s1.isPinned else s1)

/-- STARTUP_DEADLINE: a tile that has not finished step 9 by 900 ms fails the start (R378). -/
def execStartupDeadline (t : TileId) (s : State) : Out :=
  s.ends (if !s.starting || !s.hasTile t || 2 ≤ (s.tileAt t).ftl.recovered then s else s.failTile t)

/-! ### Mode, CSTS.RDY and the second sweep (R369, R370, R377, R385, R390) -/

/-- The dump quads of a tile designated: erased ones that hold no dump are kept, and each in-service channel without one takes an erased
free quad, with an SBLK OPEN record of SBN 0xF_FFFF that is programmed before the mode is selected (R370, R390). -/
def State.dumpQuads (s : State) (t : Nat) : State :=
  let s0 := if (s.tileAt t).ftl.dumpErased then s
    else s.onTileAt t fun x => { x with ftl := { x.ftl with oldQuads := x.ftl.oldQuads ++ x.ftl.dumpQuads, dumpQuads := [] } }
  let s1 := ((s0.tileAt t).channels.filter fun c => !(s0.tileAt t).ftl.dumpQuads.any fun q => q.chan == c).foldl (fun (s : State) c =>
    match s.pickQuad t c with
    | none => s
    | some q => s.onTileAt t fun x => { x with ftl :=
        { (x.ftl.append s.pinNsx (.sblk 1 0xFFFFF q.chan q.lun q.block 0 0)) with dumpQuads := x.ftl.dumpQuads ++ [q] } }) s0
  s1.onTileAt t fun x => { x with ftl := { x.ftl.sync with
    dumpErased := x.channels.all fun c => x.ftl.dumpQuads.any fun q => q.chan == c } }

/-- Why Unprotected mode is chosen: 1 HOLDUP 0, 2 PFAIL_N low, 3 dump quads not ready, 4 profile, and 0 for Protected mode (R369,
R373). -/
def State.modeReason (s : State) (profileMaxUs : Nat) : Nat :=
  if s.cfg.loss || s.param 3 0 0 = 0 then 1
  else if !s.pins.gpio.getD 0 false then 2
  else if !s.tileIds.all fun t => (s.tileAt t).ftl.dumpErased then 3
  else if 10000 < profileMaxUs then 4 else 0

/-- The configuration applied in epoch 1 (R49). -/
def State.epochOne (s : State) : State :=
  let s1 := s.stageParams
  let rws := s1.regs.cells.filter fun x => s1.isRws x.1
  { s1 with
    regs := { s1.regs with eff := rws, effPend := s1.regs.eff }
    cinch := { s1.cinch with cur := 1, pend := 1 } }

/-- MODE_SELECT: new dump quads, the mode, and the configuration in epoch 1 (R49, R369, R373, R390); a choice against the HOLDUP setting is
logged. Protected mode arms the dumps. -/
def execModeSelect (profileMaxUs : Nat) (s : State) : Out :=
  s.ends (if !s.starting || s.boot.modeChosen || !s.boot.storeRead || !s.tileIds.all fun t => 2 ≤ (s.tileAt t).ftl.recovered then s
    else
      let s1 := if s.cfg.loss then s else s.tileIds.foldl State.dumpQuads s
      let why := s1.modeReason profileMaxUs
      let low := !s1.pins.gpio.getD 0 false
      let s2 := s1.wr .glb 0x20C (b2n (why == 0) + b2n (s1.param 3 0 0 == 1) * 2 + b2n low * 4 + why * 16)
      let s3 := if why = 0 then s2.tileIds.foldl (fun (s : State) t => s.wr (.pwr t) 0x058 1) s2
        else if why = 1 then s2 else s2.log 0 0 5 8 0 why
      let s4 : State := { s3 with boot := { s3.boot with modeChosen := true } }
      (s4.epochOne).phase 5)

/-- A missing or failing copy of the running slot restored from the other (R350). -/
def State.restoreCopies (s : State) : State :=
  match s.ident.slot with
  | none => s
  | some i =>
    let c := s.slotCopies i
    let good (x : FwCopy) : Bool := x.seq.isSome && s.imageValid x.image
    let seq := s.slotSeq i
    s.setSlot i (if good c.1 then c.1 else ⟨s.ident.image, seq⟩, if good c.2 then c.2 else ⟨s.ident.image, seq⟩)

/-- CSTS_RDY_SET: step 11: CSTS.RDY on every enabled controller, the pinned namespace ready (R377, R388, R350, R394). -/
def execCstsRdySet (s : State) : Out :=
  s.ends (if !s.starting || !s.boot.modeChosen || s.boot.reached11 then s
    else
      let s1 := s.restoreCopies
      let s2 : State := { s1 with
        boot := { s1.boot with reached11 := true }
        host := { s1.host with ctrls := s1.host.ctrls.map fun c => { c with rdy := c.en && !c.cfs } } }
      let s3 := if s2.pinned = 0 || s2.cfg.loss then s2 else s2.onNs s2.pinned fun x => { x with ready := true }
      (s3.wrField .glb 0x304 15 0 s3.startMs).phase 6)

/-- The mirror state of T0 rebuilt from the root copy and the MIRR records, a CHANGE only with its group (R411). -/
def State.mirrRecover (s : State) : State :=
  let gs := s.groupsApplied fun _ => true
  let s1 := s.onTileAt 0 fun x =>
    let recs := x.ftl.journal.filter fun j => x.ftl.root.start ≤ j.seq && match j.body with
      | .mirr ev g _ _ _ _ => ev == 2 || g == 0 || gs.contains g
      | _ => false
    { x with ftl := recs.foldl Ftl.apply { x.ftl with mirr := x.ftl.root.mirr } }
  s1.cfg.body.mirrors.foldl (fun (s : State) m => s.onMirrNs m.nsid fun x => { x with sent := (s.mirrHist m.nsid).mseq }) s1

/-- Step 13: every group resolved, every namespace ready, and indexed namespaces due for regeneration on every tile (R212, R387, R388,
R394). -/
def State.allReady (s : State) : State :=
  let s1 := (s.resolve fun n => !s.isPinned n).mirrRecover
  let s2 := if s1.cfg.loss then s1
    else s1.cfg.body.namespaces.foldl (fun (s : State) ns => s.onNs ns.nsid fun x => { x with ready := true }) s1
  let due := s2.cfg.body.indexes.map fun d => d.nsid - 1
  let s3 : State := { s2 with tiles := s2.tiles.map fun x => { x with idx := { x.idx with regen := due } } }
  (s3.wrField .glb 0x304 31 16 s3.startMs).phase 7

/-- SECOND_SWEEP: a tile applies every other record; after the last tile T0 resolves the remaining groups and every namespace becomes
ready (R385, R387, R388). -/
def execSecondSweep (t : TileId) (s : State) : Out :=
  s.ends (if !s.starting || !s.hasTile t || !s.boot.reached11 || (s.tileAt t).ftl.recovered ≠ 2 then s
    else
      let s1 := s.onTile t fun x =>
        let f := x.ftl.replay (fun n => !s.isPinned n) []
        { x with ftl := { f with recovered := 3 } }
      let s2 := s1.flag .glb 0x300 (16 + t)
      if s2.tileIds.all fun u => (s2.tileAt u).ftl.recovered == 3 then s2.allReady else s2)

/-! ### Restored fragments (R390) -/

/-- A restored grain compressed at the level of epoch 1 and placed at the frontier of its stream (R390). -/
def State.packRestored (s : State) (t : Nat) (g : Staged) : State :=
  match g.kind, s.nsOf (g.key.nsx + 1) with
  | .data bytes, some ns =>
    let st := storeGrain (s.grainLevel t ns.nsx 1) (bytes.take ns.grain)
    match s.pack t (streamFor ns.alt false) (st.2.length / 256) with
    | none => s
    | some (l, sbn, s1) => s1.onTileAt t fun x => { x with ftl := { x.ftl with stored := x.ftl.stored ++
        [⟨g.key, l, st.2.length / 256, st.1, x.ftl.nextGen g.key, bytes, ns.keyTag, false, sbn, 0, none⟩] } }
  | _, _ => s

/-- The quads of consumed dumps released and erased, with their records (R370, R390). -/
def State.eraseDumps (s : State) (t : Nat) : State :=
  s.onTileAt t fun x =>
    let qs := x.ftl.oldQuads
    if qs = [] then { x with ftl := { x.ftl with dumps := [] } }
    else
      let f0 := (x.ftl.append s.pinNsx (.sblk 3 0xFFFFF 0 0 0 0 0)).sync
      let f1 := qs.foldl (fun (f : Ftl) q =>
        let g := f.bumpWear q
        g.append s.pinNsx (.sblk 4 0xFFFFF q.chan q.lun q.block 0 (g.eraseCount q))) f0
      { x with ftl := { f1 with oldQuads := [], dumps := [] } }

/-- RESTORED_FRAGMENT_PROGRAM: the restored fragments of a tile go through the write path; once every one of them is programmed and
journalled, the quads of the consumed dumps are erased and returned (R390). -/
def execRestoredFragmentProgram (t : TileId) (s : State) : Out :=
  s.ends (if !s.hasTile t || s.cfg.loss || (s.tileAt t).ftl.recovered ≠ 3 then s
    else
      let f := (s.tileAt t).ftl
      let waits := f.staged.filter fun g => g.dend.isSome
      if waits = [] then s.eraseDumps t
      else (waits.filter fun g => g.commit && !(f.stored.any fun y => y.key == g.key && !y.done)).foldl
        (fun (s : State) g => s.packRestored t g) s)

end Sys2Proof.Machine
end

