-- ==== Sys2Proof/Machine/NvmeAdmin.lean ====
section
/-! DEFINITION. Machine/NvmeAdmin.lean: the NVMe admin commands: LMCS Send and Receive, Identify, features, queues, events, Abort
(chapters 2 and 3). Where NVM Express and not the manual fixes a field's place or a code, this file follows NVM Express
(Assumption 16). -/

namespace Sys2Proof.Machine

open Sys2Proof

/-! ### The shape of an admin command -/

/-- The admin commands of the device (Table 3.1, R36). -/
def adminOpcodes : List Nat :=
  [0x00, 0x01, 0x02, 0x04, 0x05, 0x06, 0x08, 0x09, 0x0A, 0x0C, 0x0D, 0x10, 0x11, 0x14, 0x15, 0x1C, 0x80, 0x84, 0xC1, 0xC2]

/-- An admin command completed with a status. -/
def State.ans (s : State) (k : CmdKey) (st : NvmeStatus) (dw0 : Nat := 0) (data : List Byte := []) : State :=
  s.adminDone (Cqe.of k st dw0 0 data)

/-- An admin command of one opcode on the admin queue of a ready controller. One that the device does not support completes with
Invalid Command Opcode (R55). -/
def State.admin (s : State) (k : CmdKey) (e : Sqe) (opc : Nat) (body : Controller → State → State) : State :=
  match s.host.ctrl k.fn with
  | none => s
  | some c =>
    if !c.rdy || k.sq != 0 || s.host.stopped then s
    else
      let s1 : State := { s with pins := { s.pins with act := true } }
      if !adminOpcodes.contains e.opc.toNat then s1.ans k .invalidOpcode
      else if e.opc.toNat ≠ opc then s else body c s1

/-- An admin command that moves `n` bytes through DPTR. -/
def State.moving (s : State) (k : CmdKey) (e : Sqe) (n : Nat) (body : State → State) : State :=
  match dataPtrStatus e.dptr n 0 with
  | .success => body s
  | st => s.ans k st

/-! ### LMCS Send and Receive (R36) -/

/-- An LMCS message as a buffer holds it (Table 2.3). -/
def lmcsOf (b : List Byte) : LmcsMsg :=
  ⟨BitVec.ofNat 16 (leAt b 0 2), BitVec.ofNat 8 (at1 b 2), BitVec.ofNat 8 (at1 b 3), BitVec.ofNat 16 (leAt b 4 2),
   BitVec.ofNat 16 (leAt b 6 2), leAt b 8 4, BitVec.ofNat 32 (leAt b 12 4), b.drop 16⟩

/-- The TAGs in use on a controller: accepted, and their responses not yet received (R36). -/
def State.tagsInUse (s : State) (f : FnId) : List (BitVec 16) :=
  let tag (c : Carrier) : Option (BitVec 16) := match c with
    | .admin g t => if g == f then some t else none
    | _ => none
  ((s.lmcs.inFlight ++ s.lmcs.started ++ s.lmcs.done.map fun r => r.req).filterMap fun q => tag q.car).eraseDups

/-- LMCS_SEND: admin C1h carries one request of CDW10 bytes. -/
def execLmcsSend (k : CmdKey) (e : Sqe) (s : State) : Out :=
  s.ends (s.admin k e 0xC1 fun _ s => s.moving k e e.cdw10.toNat fun s =>
    let m := lmcsOf (fit e.cdw10.toNat e.data)
    let tags := s.tagsInUse k.fn
    if tags.contains m.tag || 16 ≤ tags.length then s.ans k .commandSequenceError
    else (s.ans k .success).accept ⟨.admin k.fn m.tag, m⟩)

/-- LMCS_RECEIVE: admin C2h returns the response to the accepted request with the TAG of CDW11, now or when it exists. -/
def execLmcsReceive (k : CmdKey) (e : Sqe) (s : State) : Out :=
  s.ends (s.admin k e 0xC2 fun _ s => s.moving k e 0 fun s =>
    let tag : BitVec 16 := BitVec.ofNat 16 e.cdw11.toNat
    let room := e.cdw10.toNat
    if !(s.tagsInUse k.fn).contains tag || (s.receiveOf k.fn tag).isSome then s.ans k .commandSequenceError
    else match s.lmcs.done.find? fun r => r.req.car == .admin k.fn tag with
      | some r =>
        let s1 : State := { s with lmcs := { s.lmcs with done := s.lmcs.done.erase r } }
        s1.deliverReceive k room r.req r.status r.payload
      | none => { s with lmcs := { s.lmcs with receives := s.lmcs.receives ++ [(k.fn, tag, k, room)] } })

/-! ### Abort (R75, R76, Table 3.9) -/

/-- A tracked command on which an Abort may still act, ended or on its way to its end; none at or past its commit point. -/
def State.abortTracked (s : State) (t : Track) : Option State :=
  match s.runOf t.key with
  | some r => if r.ending.isSome then none else some (s.stopRun t.key .abortRequested none)
  | none =>
    let entered := s.cores.threads.any (fun h => (h.job.map fun j => j.key == t.key).getD false) ||
      s.cores.parked.any fun p => (p.2.job.map fun j => j.key == t.key).getD false
    if !t.abortable || entered || s.mirror.voids.any (fun v => v.who == .cmd t.key) then none
    else match s.mirror.out.find? fun o => o.who == .cmd t.key with
      | some o => if o.acked then none else some (s.doVoid o .abortRequested)
      | none =>
        let s1 : State := { s with cores := { s.cores with queue := s.cores.queue.filter fun w => w.what != .run t.key } }
        some (s1.abortTrack t.key)

/-- ABORT: names a command by submission queue and identifier. `abortWins` is the verdict of the tracking entry's arbiter. A C2h
Receive is ended before its response is transferred, and the response stays held; any other admin command is left alone. -/
def execAbort (k : CmdKey) (e : Sqe) (abortWins : Bool) (s : State) : Out :=
  s.ends (s.admin k e 0x08 fun _ s =>
    let target : CmdKey := ⟨k.fn, e.cdw10.toNat % 65536, BitVec.ofNat 16 (e.cdw10.toNat / 65536)⟩
    let missed := s.ans k .success 1
    if !abortWins then missed
    else if target.sq = 0 then
      match s.lmcs.receives.find? fun r => r.2.2.1 == target with
      | none => missed
      | some r =>
        let s1 : State := { s with lmcs := { s.lmcs with receives := s.lmcs.receives.erase r } }
        (s1.ans target .abortRequested).ans k .success
    else match s.track target with
      | none => missed
      | some t => match s.abortTracked t with
        | some s1 => s1.ans k .success
        | none => missed)

/-! ### Identify (R55, R56, R61, R80, R356, Tables 3.2 and 3.3) -/

/-- Free bytes with the fields that the manual fixes put over them. -/
def State.page (s : State) (n : Nat) (fields : List (Nat × List Byte)) : List Byte × State :=
  let d := s.drawBytes n
  (fields.foldl (fun (b : List Byte) p => patch b p.1 p.2) d.1, d.2)

/-- HMPRE in bytes: the map leaves of all namespaces, rounded up to 16 MiB and capped at 64 GiB; 0 but on the PF of port A (R80). -/
def State.hmPre (s : State) (f : FnId) : Nat :=
  if f == pfA then min (64 * 2 ^ 30) (ceilDiv (sumOf (s.cfg.body.namespaces.map fun n => n.spans * 4096)) (16 * 2 ^ 20) * (16 * 2 ^ 20))
  else 0

/-- The fields of Identify Controller that the manual decides (Table 3.3, R55, R56, R80, R356). -/
def State.ctrlFields (s : State) (c : Controller) : List (Nat × List Byte) :=
  let hm (v : Nat) : List Byte := leBytes 4 (if c.fn == pfA then v else 0)
  [(77, leBytes 1 9), (78, leBytes 2 (funcByte c.fn)), (80, leBytes 4 0x00020100), (111, leBytes 1 1), (128, leBytes 2 1),
   (130, leBytes 2 5), (132, leBytes 2 30), (256, leBytes 2 0x9E), (258, leBytes 1 15), (259, leBytes 1 15), (260, leBytes 1 0x14),
   (263, leBytes 1 0), (270, leBytes 2 10), (272, leBytes 4 (s.hmPre c.fn / 4096)), (276, hm 16384), (320, leBytes 2 0),
   (328, leBytes 4 1), (332, hm 512), (336, leBytes 2 (if c.fn == pfA then 4096 else 0)), (512, leBytes 1 0x66), (513, leBytes 1 0x44),
   (516, leBytes 4 4096), (520, leBytes 2 0x4D), (525, leBytes 1 (if s.protected_ then 0 else 7)),
   (2048, leBytes 2 (s.param 4 0 s.fuses.part.capTop))]

/-- The LBA formats (Table 3.2): metadata size and LBADS. -/
def lbafFields : List (Nat × List Byte) :=
  [(128, leBytes 2 0 ++ leBytes 1 12), (132, leBytes 2 8 ++ leBytes 1 12), (136, leBytes 2 0 ++ leBytes 1 9),
   (140, leBytes 2 8 ++ leBytes 1 9)]

/-- The fields of Identify Namespace (R61, Tables 3.2 and 4.2). NUSE counts the blocks of used grains, and never more than NSZE. -/
def State.nsFields (s : State) (ns : Namespace) : List (Nat × List Byte) :=
  let unit := if ns.lbaf ≤ 1 then 255 else 2047
  let nuse := min ns.blocks ((s.usedGrains ns.nsid).length * ns.perGrain)
  [(0, leBytes 8 ns.blocks), (8, leBytes 8 ns.blocks), (16, leBytes 8 nuse), (24, leBytes 1 2), (25, leBytes 1 3), (26, leBytes 1 ns.lbaf),
   (29, leBytes 1 (ns.lbaf % 2)), (34, leBytes 2 unit), (36, leBytes 2 unit), (42, leBytes 2 0), (44, leBytes 2 0)] ++ lbafFields

/-- A list of identifiers as Identify returns it. -/
def idList (ids : List Nat) : List Byte := fit 4096 ((ids.take 1024).flatMap (leBytes 4))

/-- A controller list. -/
def ctrlList (ids : List Nat) : List Byte := fit 4096 (leBytes 2 (min 2047 ids.length) ++ (ids.take 2047).flatMap (leBytes 2))

/-- The data of an Identify; none for a CNS or command set that the device does not support. The error is the other side. -/
def State.identifyData (s : State) (c : Controller) (e : Sqe) : Except NvmeStatus (List Byte × State) :=
  let nsid := e.nsid.toNat
  let cns := e.cdw10.toNat % 256
  let from_ := e.cdw10.toNat / 65536
  let all := s.cfg.body.namespaces
  let mine := all.filter fun n => n.attached.contains c.fn
  let list (l : List Namespace) : List Byte × State :=
    (idList (sortBy (fun (a b : Nat) => a < b) ((l.map fun n => n.nsid).filter fun i => nsid < i)), s)
  let ids := s.host.ctrls.map fun x => funcByte x.fn
  let one (l : List Namespace) (f : Namespace → List Byte × State) : Except NvmeStatus (List Byte × State) :=
    if nsid = 0 ∨ 4096 < nsid then .error .invalidNamespace
    else .ok (match l.find? fun n => n.nsid == nsid with
      | some n => f n
      | none => (zeros 4096, s))
  if (cns == 5 || cns == 6 || cns == 7) && e.cdw11.toNat / 2 ^ 24 != 0 then .error .invalidField
  else match cns with
  | 0x00 => if nsid = 0xFFFFFFFF then .ok (s.page 4096 ([(24, leBytes 1 2), (25, leBytes 1 3)] ++ lbafFields))
            else one mine fun n => s.page 4096 (s.nsFields n)
  | 0x01 => .ok (s.page 4096 (s.ctrlFields c))
  | 0x02 | 0x07 => if 0xFFFFFFFE ≤ nsid then .error .invalidNamespace else .ok (list mine)
  | 0x03 | 0x05 | 0x08 => one mine fun _ => s.page 4096 []
  | 0x06 | 0x1C => .ok (s.page 4096 [])
  | 0x10 => if 0xFFFFFFFE ≤ nsid then .error .invalidNamespace else .ok (list all)
  | 0x11 => one all fun n => s.page 4096 (s.nsFields n)
  | 0x12 => one all fun n => (ctrlList ((n.attached.map funcByte).filter fun i => from_ ≤ i), s)
  | 0x13 => .ok (ctrlList (ids.filter fun i => from_ ≤ i), s)
  | 0x14 => .ok (s.page 4096 [(0, leBytes 2 (funcByte c.fn)), (2, leBytes 2 c.fn.port.val), (4, leBytes 1 3)])
  | 0x15 =>
    let vfs := s.host.ctrls.filter fun x => x.fn.port == c.fn.port && x.fn.num.val != 0 && from_ ≤ funcByte x.fn
    .ok (fit 4096 (leBytes 1 (min 127 vfs.length) ++ zeros 31 ++ (vfs.take 127).flatMap fun x =>
      leBytes 2 (funcByte x.fn) ++ leBytes 2 (c.fn.port.val * 128) ++ leBytes 1 (b2n x.online) ++ zeros 3 ++ leBytes 2 x.fn.num.val ++
        leBytes 2 x.vq ++ leBytes 2 x.vi ++ zeros 18), s)
  | _ => .error .invalidField

/-- IDENTIFY_COMMAND. -/
def execIdentifyCommand (k : CmdKey) (e : Sqe) (s : State) : Out :=
  s.ends (s.admin k e 0x06 fun c s => s.moving k e 4096 fun s =>
    match s.identifyData c e with
    | .ok (b, s1) => s1.ans k .success 0 b
    | .error st => s.ans k st)

/-! ### Features (R55, R58, R64, R80 to R83, R460) -/

/-- The queue pairs that other controllers hold. -/
def State.pairsTaken (s : State) (f : FnId) : Nat := sumOf ((s.host.ctrls.filter fun c => c.fn != f).map fun c => c.granted)

/-- Number of Queues: pairs granted from the pool of 16,384, never after a queue exists (R58). A grant of none has no 0's based value:
DW0 is then free. -/
def State.setQueues (s : State) (k : CmdKey) (e : Sqe) (c : Controller) : State :=
  let want := max (e.cdw11.toNat % 65536) (e.cdw11.toNat / 65536)
  if want = 65535 then s.ans k .invalidField
  else if c.sqs.any (fun q => q.qid != 0) || c.cqs.any fun q => q.qid != 0 then s.ans k .commandSequenceError
  else
    let quota := match s.funcDef k.fn with
      | some b => leAt b 2 2
      | none => 64
    let n := min (min (want + 1) 4095) (min quota (16384 - s.pairsTaken k.fn))
    let s1 := s.onCtrl k.fn fun c => { c with granted := n }
    if n = 0 then let d := s1.draw; d.2.ans k .success (d.1 % 2 ^ 32)
    else s1.ans k .success ((n - 1) * 65537)

/-- The descriptor list of Set Features Host Memory Buffer: address and bytes of each entry, in pages of 4 KiB. -/
def hmbEntries (n : Nat) (b : List Byte) : List (Nat × Nat) :=
  (List.range n).map fun i => (leAt b (16 * i) 8, leAt b (16 * i + 8) 4 * 4096)

/-- Host Memory Buffer: granted, left unused when it is too small or badly placed, or withdrawn (R80 to R83, R98). -/
def State.setHmb (s : State) (k : CmdKey) (e : Sqe) : State :=
  let on := bitN e.cdw11.toNat 0
  if k.fn ≠ pfA then s.ans k .invalidField
  else if !on then (s.withdrawBag).ans k .success
  else if s.host.hmb.enabled then s.ans k .commandSequenceError
  else s.moving k e 0 fun s =>
    let n := e.cdw15.toNat
    let es := hmbEntries n e.data
    let mib2 := 2 ^ 21
    let bad := es.any fun x => x.1 % mib2 != 0 || x.2 % mib2 != 0 || x.2 == 0
    let total := sumOf (es.map fun x => x.2)
    let ok := !bad && 64 * 2 ^ 20 ≤ total
    let chunks := (es.flatMap fun x => (List.range (x.2 / mib2)).map fun i => x.1 + i * mib2).take (s.hmPre k.fn / mib2)
    let attrs := leBytes 4 e.cdw12.toNat ++ leBytes 4 e.cdw13.toNat ++ leBytes 4 e.cdw14.toNat ++ leBytes 4 n
    let s1 : State := { s with host := { s.host with hmb :=
      { enabled := true, state := if ok then 1 else 2, attrs := attrs, chunks := if ok then chunks else [] } } }
    let s2 : State := if bitN e.cdw11.toNat 1 then s1
      else { s1 with tiles := s1.tiles.map fun x => { x with ftl := { x.ftl with slots := [] } } }
    s2.ans k .success

/-- Volatile Write Cache: refused in Protected mode (R64). -/
def State.setVwc (s : State) (k : CmdKey) (e : Sqe) : State :=
  if s.protected_ then s.ans k .invalidField
  else (s.onCtrl k.fn fun c => { c with feat := { c.feat with vwc := bitN e.cdw11.toNat 0 } }).ans k .success

/-- Temperature Threshold: TTHR of every tile takes the over temperature threshold, given in kelvin, in eighths of a degree Celsius
(R460). The under temperature threshold is kept. A threshold that TTHR cannot hold is refused. -/
def State.setTemp (s : State) (k : CmdKey) (e : Sqe) : State :=
  let v := e.cdw11.toNat
  let kelvin := v % 65536
  let eighths : Int := ((kelvin : Int) - 273) * 8
  if field v 19 16 ≠ 0 ∧ field v 19 16 ≠ 15 then s.ans k .invalidField
  else if field v 21 20 = 1 then
    (s.onCtrl k.fn fun c => { c with feat := { c.feat with tempUnder := e.cdw11 } }).ans k .success
  else if field v 21 20 ≠ 0 ∨ eighths < -2048 ∨ 2047 < eighths then s.ans k .invalidField
  else
    let s1 := s.tileIds.foldl (fun (s : State) t => s.wr (.pwr t) 0x078 (BitVec.ofInt 12 eighths).toNat) s
    (s1.onCtrl k.fn fun c => { c with feat := { c.feat with tempOver := e.cdw11 } }).ans k .success

/-- Set Features by its feature identifier. Nothing is saved across power, so SV is refused. -/
def State.setFeature (s : State) (k : CmdKey) (e : Sqe) (c : Controller) : State :=
  let feat (g : Features → Features) : State := (s.onCtrl k.fn fun c => { c with feat := g c.feat }).ans k .success
  if bitN e.cdw10.toNat 31 then s.ans k .featureNotSaveable
  else match e.cdw10.toNat % 256 with
  | 0x01 => feat fun f => { f with arbitration := e.cdw11 }
  | 0x02 => if e.cdw11.toNat % 32 = 0 then feat fun f => { f with powerState := e.cdw11 } else s.ans k .invalidField
  | 0x04 => s.setTemp k e
  | 0x05 => feat fun f => { f with errRecovery := e.cdw11 }
  | 0x06 => s.setVwc k e
  | 0x07 => s.setQueues k e c
  | 0x08 => feat fun f => { f with coalescing := e.cdw11 }
  | 0x0B => feat fun f => { f with asyncConfig := e.cdw11 }
  | 0x0D => s.setHmb k e
  | 0x0E => s.moving k e 8 fun s =>
      (s.onCtrl k.fn fun c => { c with feat := { c.feat with timestamp := leAt e.data 0 6, stampSet := true, stampAt := s.now } }).ans k
        .success
  | _ => s.ans k .invalidField

/-- SET_FEATURES: any supported feature. -/
def execSetFeatures (k : CmdKey) (e : Sqe) (s : State) : Out :=
  s.ends (s.admin k e 0x09 fun c s => s.setFeature k e c)

/-- Set Features of one feature, the shape of the rows that follow; another feature is the row SET_FEATURES. -/
def State.oneFeature (s : State) (k : CmdKey) (e : Sqe) (fid : Nat) : State :=
  if e.cdw10.toNat % 256 = fid then s.admin k e 0x09 fun c s => s.setFeature k e c else s

/-- SET_FEATURES_NUMBER_OF_QUEUES (R58). -/
def execSetFeaturesNumberOfQueues (k : CmdKey) (e : Sqe) (s : State) : Out := s.ends (s.oneFeature k e 0x07)

/-- SET_FEATURES_HOST_MEMORY_BUFFER (R80 to R83). -/
def execSetFeaturesHostMemoryBuffer (k : CmdKey) (e : Sqe) (s : State) : Out := s.ends (s.oneFeature k e 0x0D)

/-- SET_FEATURES_VOLATILE_WRITE_CACHE (R64). -/
def execSetFeaturesVolatileWriteCache (k : CmdKey) (e : Sqe) (s : State) : Out := s.ends (s.oneFeature k e 0x06)

/-- SET_FEATURES_TEMPERATURE_THRESHOLD (R460). -/
def execSetFeaturesTemperatureThreshold (k : CmdKey) (e : Sqe) (s : State) : Out := s.ends (s.oneFeature k e 0x04)

/-- The over temperature threshold in kelvin, as TTHR holds it. -/
def State.thresholdKelvin (s : State) : Nat :=
  Int.toNat ((BitVec.ofNat 12 (s.rd (.pwr 0) 0x078)).toInt / 8 + 273)

/-- GET_FEATURES: the current value in DW0, and the data of Host Memory Buffer and Timestamp. -/
def execGetFeatures (k : CmdKey) (e : Sqe) (s : State) : Out :=
  s.ends (s.admin k e 0x0A fun c s =>
    let f := c.feat
    match e.cdw10.toNat % 256 with
    | 0x01 => s.ans k .success f.arbitration.toNat
    | 0x02 => s.ans k .success f.powerState.toNat
    | 0x04 => s.ans k .success (if field e.cdw11.toNat 21 20 = 1 then f.tempUnder.toNat % 65536 else s.thresholdKelvin)
    | 0x05 => s.ans k .success f.errRecovery.toNat
    | 0x06 => if s.protected_ then s.ans k .invalidField else s.ans k .success (b2n f.vwc)
    | 0x07 => if c.granted = 0 then let d := s.draw; d.2.ans k .success (d.1 % 2 ^ 32) else s.ans k .success ((c.granted - 1) * 65537)
    | 0x08 => s.ans k .success f.coalescing.toNat
    | 0x0B => s.ans k .success f.asyncConfig.toNat
    | 0x0D => if k.fn ≠ pfA then s.ans k .invalidField
        else s.moving k e 4096 fun s => s.ans k .success (b2n s.host.hmb.enabled) (fit 4096 s.host.hmb.attrs)
    | 0x0E => s.moving k e 8 fun s =>
        s.ans k .success 0 (leBytes 6 (f.timestamp + (s.now - f.stampAt) / 1000) ++ leBytes 1 (b2n f.stampSet * 2) ++ zeros 1)
    | _ => s.ans k .invalidField)

/-! ### Queues and events (R58, R79) -/

/-- CREATE_IO_COMPLETION_QUEUE: a queue of up to 4,096 entries and one of 256 vectors (R58, Table 2.1). -/
def execCreateIoCompletionQueue (k : CmdKey) (e : Sqe) (s : State) : Out :=
  s.ends (s.admin k e 0x05 fun c s =>
    let qid := e.cdw10.toNat % 65536
    let size := e.cdw10.toNat / 65536 + 1
    let vec := e.cdw11.toNat / 65536
    if qid = 0 ∨ c.granted < qid ∨ c.cqs.any (fun q => q.qid == qid) then s.ans k .invalidQueueIdentifier
    else if size < 2 ∨ 4096 < size then s.ans k .invalidQueueSize
    else if bitN e.cdw11.toNat 1 && 256 ≤ vec then s.ans k .invalidInterruptVector
    else
      let q : ComQueue := ⟨qid, size, 0, 0, if bitN e.cdw11.toNat 1 then some vec else none⟩
      (s.onCtrl k.fn fun c => { c with cqs := c.cqs ++ [q] }).ans k .success)

/-- CREATE_IO_SUBMISSION_QUEUE: a queue of up to 4,096 entries that posts to a completion queue that exists (R58). -/
def execCreateIoSubmissionQueue (k : CmdKey) (e : Sqe) (s : State) : Out :=
  s.ends (s.admin k e 0x01 fun c s =>
    let qid := e.cdw10.toNat % 65536
    let size := e.cdw10.toNat / 65536 + 1
    let cqid := e.cdw11.toNat / 65536
    if qid = 0 ∨ c.granted < qid ∨ c.sqs.any (fun q => q.qid == qid) then s.ans k .invalidQueueIdentifier
    else if size < 2 ∨ 4096 < size then s.ans k .invalidQueueSize
    else if cqid = 0 ∨ c.granted < cqid then s.ans k .invalidQueueIdentifier
    else if !c.cqs.any (fun q => q.qid == cqid) then s.ans k .completionQueueInvalid
    else (s.onCtrl k.fn fun c => { c with sqs := c.sqs ++ [⟨qid, size, cqid, field e.cdw11.toNat 2 1, 0, 0⟩] }).ans k .success)

/-- DELETE_IO_SUBMISSION_QUEUE: its commands before their commit points are aborted, and the queue is gone. -/
def execDeleteIoSubmissionQueue (k : CmdKey) (e : Sqe) (s : State) : Out :=
  s.ends (s.admin k e 0x00 fun c s =>
    let qid := e.cdw10.toNat % 65536
    if qid = 0 ∨ !c.sqs.any (fun q => q.qid == qid) then s.ans k .invalidQueueIdentifier
    else
      let mine := s.host.tracks.filter fun t => t.key.fn == k.fn && t.key.sq == qid
      let s1 := mine.foldl (fun (s : State) t => (s.abortTracked t).getD s) s
      (s1.onCtrl k.fn fun c => { c with sqs := c.sqs.filter fun q => q.qid != qid }).ans k .success)

/-- DELETE_IO_COMPLETION_QUEUE: refused while a submission queue posts to it. -/
def execDeleteIoCompletionQueue (k : CmdKey) (e : Sqe) (s : State) : Out :=
  s.ends (s.admin k e 0x04 fun c s =>
    let qid := e.cdw10.toNat % 65536
    if qid = 0 ∨ !c.cqs.any (fun q => q.qid == qid) then s.ans k .invalidQueueIdentifier
    else if c.sqs.any fun q => q.cqid == qid then s.ans k .invalidQueueDeletion
    else (s.onCtrl k.fn fun c => { c with cqs := c.cqs.filter fun q => q.qid != qid }).ans k .success)

/-- ASYNCHRONOUS_EVENT_REQUEST: the oldest queued event at once, or a request that waits; at most 16 wait (R79, Table 3.3). -/
def execAsynchronousEventRequest (k : CmdKey) (e : Sqe) (s : State) : Out :=
  s.ends (s.admin k e 0x0C fun c s =>
    match c.events with
    | (type, info, page) :: es =>
      (s.onCtrl k.fn fun c => { c with events := es }).ans k .success (type + info * 256 + page * 65536)
    | [] =>
      if 16 ≤ c.aers.length then s.ans k .asyncLimitExceeded
      else s.onCtrl k.fn fun c => { c with aers := c.aers ++ [k] })

/-! ### Firmware, self-test and virtualization (R226, R356) -/

/-- The NVMe status of a firmware message's status. -/
def fwStatus (st : Nat) : NvmeStatus :=
  match st with
  | 0 => .success
  | 2 => .invalidField
  | 5 => .commandSequenceError
  | _ => .invalidFirmwareImage

/-- The carrier of a controller's admin queue. -/
def adminCarrier (f : FnId) : Carrier := .admin f 0

/-- FIRMWARE_IMAGE_DOWNLOAD: image bytes to the staging area, as FW_STAGE, on a queue that holds the owner role (R356). -/
def execFirmwareImageDownload (k : CmdKey) (e : Sqe) (s : State) : Out :=
  s.ends (s.admin k e 0x11 fun _ s =>
    let n := (e.cdw10.toNat + 1) * 4
    if !s.isOwner (adminCarrier k.fn) then s.ans k .operationDenied
    else s.moving k e n fun s =>
      let r := s.fwStage (adminCarrier k.fn) (e.cdw11.toNat * 4) (fit n e.data)
      r.2.ans k (fwStatus r.1))

/-- FIRMWARE_COMMIT: Commit Actions 000b, 001b and 011b are FW_COMMIT to the slot that is not running; 010b raises the named slot's
SEQ above the other's (R356). -/
def execFirmwareCommit (k : CmdKey) (e : Sqe) (s : State) : Out :=
  s.ends (s.admin k e 0x10 fun _ s =>
    let slot := e.cdw10.toNat % 8
    let action := field e.cdw10.toNat 5 3
    let car := adminCarrier k.fn
    let run := s.ident.slot.getD 1
    if !s.isOwner car then s.ans k .operationDenied
    else if 3 < action then s.ans k .invalidField
    else if action = 2 then
      if slot ≠ 1 ∧ slot ≠ 2 then s.ans k .invalidFirmwareSlot
      else match s.slotImage (slot - 1) with
        | none => s.ans k .invalidFirmwareImage
        | some m =>
          let seq := max ((s.slotSeq 0).getD 0) ((s.slotSeq 1).getD 0) + 1
          (s.setSlot (slot - 1) (⟨m, some seq⟩, ⟨m, some seq⟩)).ans k .success
    else if slot ≠ 2 - run then s.ans k .invalidFirmwareSlot
    else
      let major := (s.stagedImage car).map imageMajor
      let r := s.fwCommit car (if action = 3 then 2 else action)
      if r.1.1 = 0 ∧ action = 3 ∧ major ≠ some (imageMajor s.ident.image) then r.2.ans k .firmwareNeedsReset
      else r.2.ans k (fwStatus r.1.1))

/-- DEVICE_SELF_TEST: short, extended or abort. No rule gives it a result. -/
def execDeviceSelfTest (k : CmdKey) (e : Sqe) (s : State) : Out :=
  s.ends (s.admin k e 0x14 fun _ s =>
    let stc := e.cdw10.toNat % 16
    if stc = 1 ∨ stc = 2 ∨ stc = 15 then s.ans k .success else s.ans k .invalidField)

/-- VIRTUALIZATION_MANAGEMENT, of a primary controller: resources of a secondary controller, and its state. Disabling a VF is a reset
of it, which destroys its sessions (R226). -/
def execVirtualizationManagement (k : CmdKey) (e : Sqe) (s : State) : Out :=
  s.ends (s.admin k e 0x1C fun _ s =>
    let id := e.cdw10.toNat / 65536
    let n := e.cdw11.toNat % 65536
    let rt := field e.cdw10.toNat 10 8
    let act := e.cdw10.toNat % 16
    let target := s.host.ctrls.find? fun c => funcByte c.fn == id && c.fn.port == k.fn.port
    let limit := if rt = 0 then 16384 else 256
    let give (f : FnId) : State := (s.onCtrl f fun c => if rt = 0 then { c with vq := n } else { c with vi := n }).ans k .success n
    if k.fn.num ≠ 0 then s.ans k .invalidOpcode
    else match target with
      | none => s.ans k .invalidControllerId
      | some c =>
        match act with
        | 1 => if c.fn ≠ k.fn then s.ans k .invalidControllerId
            else if 1 < rt then s.ans k .invalidField
            else if limit < n then s.ans k .invalidResourceCount else give c.fn
        | 7 => if c.fn = k.fn then s.ans k .invalidControllerId
            else ((s.resetFn c.fn).onCtrl c.fn fun c => { c with online := false, vq := 0, vi := 0 }).ans k .success
        | 8 => if c.fn = k.fn then s.ans k .invalidControllerId
            else if 1 < rt then s.ans k .invalidField
            else if c.online then s.ans k .invalidSecondaryState
            else if limit < n then s.ans k .invalidResourceCount else give c.fn
        | 9 => if c.fn = k.fn then s.ans k .invalidControllerId
            else (s.onCtrl c.fn fun c => { c with online := true }).ans k .success
        | _ => s.ans k .invalidField)

end Sys2Proof.Machine
end

