-- ==== Sys2Proof/Machine/NsAdmin.lean ====
section
/-! DEFINITION. Machine/NsAdmin.lean: namespaces: creation, deletion, attachment, Format and Sanitize (R61, R84, R89, R111, R223,
R326, R382, R397). -/

namespace Sys2Proof.Machine

open Sys2Proof

/-! ### Root ranges and media keys (R89, R326) -/

/-- The first root entry of a free range of `n` on a tile (R89). -/
def Ftl.freeRoot (f : Ftl) (n : Nat) : Option Nat :=
  let free (i : Nat) : Bool := i + n ≤ 65536 && f.roots.all fun r => i + n ≤ r.2.1 || r.2.1 + r.2.2 ≤ i
  ((0 :: f.roots.map fun r => r.2.1 + r.2.2).filter free).foldl (fun (m : Option Nat) i => match m with
    | some j => some (min i j)
    | none => some i) none

/-- Root entries that a namespace takes on each tile (R89). -/
def Namespace.rootLen (ns : Namespace) (n : Nat) : Nat := ceilDiv (ceilDiv ns.spans n) 512

/-- The ranges of a new namespace on every tile, none when some tile has no room (R89). -/
def State.reserveRoots (s : State) (ns : Namespace) : Option State :=
  let n := ns.rootLen s.n
  if s.tileIds.all fun t => ((s.tileAt t).ftl.freeRoot n).isSome then
    some (s.tileIds.foldl (fun (s : State) t => s.onTileAt t fun x => match x.ftl.freeRoot n with
      | some i => { x with ftl := { x.ftl with roots := x.ftl.roots ++ [(ns.nsx, i, n)] } }
      | none => x) s)
  else none

/-- KATTR of a media key: loaded, XTS, KIND 1 and OWNER the NSX (R326, Table 15.2). -/
def mediaAttr (nsx : Nat) : Nat := 2 + 16 + 128 + 256 + nsx * 1024

/-- An identity of a media key that no key has had. -/
def State.freshTag (s : State) : Nat :=
  let used := (s.cfg.body.namespaces.map fun n => n.keyTag) ++ s.tiles.toList.flatMap fun x => x.ftl.stored.map fun g => g.keyTag
  used.foldl max 0 + 1

/-- A media key drawn for a namespace into its slot, else into the lowest free slot of the shared pool, and wrapped under the KEK; none
when no slot is free (R326). -/
def State.rekey (s : State) (ns : Namespace) : Option (Namespace × State) :=
  let slot := match s.nsKeySlot ns.nsid with
    | some k => some k.slot
    | none => s.poolSlot
  slot.map fun i =>
    let d := s.drawBytes 64
    let x : KeySlot := ⟨i, mediaAttr ns.nsx, d.1, 0⟩
    let tag := s.freshTag
    let ns1 : Namespace := { ns with keyTag := tag, blob := x.wrapped (s.keySlot 10).key }
    (ns1, ((d.2.putSlot x).uncacheKey i).onNs ns.nsid fun r => { r with keyLost := false })

/-! ### Content (R326) -/

/-- Every grain of a namespace deallocated on a tile, durably. -/
def Ftl.dropNs (f : Ftl) (pin : Option Nat) (nsx : Nat) : Ftl :=
  let keys := ((f.leaves.map fun x => x.1) ++ f.overlay.map fun o => o.key).eraseDups.filter fun k =>
    k.nsx == nsx && (f.entry k).state != .unmapped
  let f1 := { f with staged := f.staged.filter fun g => g.key.nsx != nsx }
  (keys.foldl (fun (f : Ftl) k => f.commit pin (.zrange 0 k .unmapped 1)) f1).sync

/-- The outstanding commands on a namespace aborted where they are before their commit points. -/
def State.abortNs (s : State) (nsid : Nat) : State :=
  (s.host.tracks.filter fun t => t.sqe.nsid.toNat == nsid).foldl (fun (s : State) t => (s.abortTracked t).getD s) s

/-- Every grain of a namespace deallocated. -/
def State.dropContent (s : State) (nsid : Nat) : State :=
  let s1 := s.abortNs nsid
  { s1 with tiles := s1.tiles.map fun x => { x with ftl := x.ftl.dropNs s1.pinNsx (nsid - 1) } }

/-- The configuration store with other namespaces, or the failure of its program: an event, and an internal error (R53, R221). -/
def State.nsStore (s : State) (k : CmdKey) (ok : Bool) (body : StoreBody) (work : State → State) : State :=
  match s.storeWrite ok body with
  | some s1 => work s1
  | none => (s.log 2 0 2 8 0 0).ans k .internalError

/-- Namespace Attribute Changed, on every controller (Table 3.11). -/
def State.nsChanged (s : State) : State := s.raise 2 0 4

/-- Whether the key store serves a new media key: it is not locked by an alarm, and the KEK is there (R342). -/
def State.keysServe (s : State) : Bool := !s.keysLocked && (s.keySlot 10).state == 2

/-! ### The commands -/

/-- The namespace that a create asks for. The map grain and the stripe group have no place in NVM Express: bytes 1024 and 1025 of the
host's structure give them, 0 for the defaults of R84 and R111 (Assumption 17). -/
def State.newNs (s : State) (nsid : Nat) (b : List Byte) : Namespace :=
  { nsid := nsid, blocks := leAt b 0 8, lbaf := at1 b 26 % 16 + field (at1 b 26) 6 5 * 16, grain16 := at1 b 1024 == 0
    alt := at1 b 1025 == 1, attached := [], keyTag := s.freshTag, blob := [] }

/-- NAMESPACE_MANAGEMENT_CREATE. -/
def execNamespaceManagementCreate (k : CmdKey) (e : Sqe) (storeOk : Bool) (s : State) : Out :=
  s.ends (s.admin k e 0x0D fun _ s =>
    let b := e.data
    let sel := e.cdw10.toNat % 16
    if sel = 1 then s
    else if 1 < sel ∨ e.cdw11.toNat / 2 ^ 24 ≠ 0 then s.ans k .invalidField
    else if s.cfg.loss then s.ans k .operationDenied
    else s.moving k e 4096 fun s =>
      match (List.range 4096).find? fun i => !s.cfg.body.namespaces.any fun n => n.nsid == i + 1 with
      | none => s.ans k .namespaceIdUnavailable
      | some i =>
        let ns := s.newNs (i + 1) b
        if 3 < ns.lbaf ∨ ns.grain < ns.blockSize then s.ans k .invalidFormat
        else if ns.blocks = 0 ∨ 1 < at1 b 1024 ∨ 1 < at1 b 1025 then s.ans k .invalidField
        else if leAt b 8 8 ≠ ns.blocks then s.ans k .thinProvisioning
        else if !s.keysServe then s.ans k .internalError
        else match s.reserveRoots ns with
          | none => s.ans k .insufficientCapacity
          | some s1 => match s1.rekey ns with
            | none => s.ans k .insufficientCapacity
            | some (ns1, s2) =>
              match s2.storeWrite storeOk { s2.cfg.body with namespaces := s2.cfg.body.namespaces ++ [ns1] } with
              | none => (s.log 2 0 2 8 0 0).ans k .internalError
              | some s3 => ((s3.onNs ns.nsid fun x => { x with ready := true }).nsChanged).ans k .success ns.nsid)

/-- A store body without a namespace: with it go its layout, its index and its parameters (chapter 9). -/
def StoreBody.dropNs (b : StoreBody) (nsid : Nat) : StoreBody :=
  { b with
    namespaces := b.namespaces.filter fun n => n.nsid != nsid
    layouts := b.layouts.filter fun l => l.1 != nsid
    indexes := b.indexes.filter fun i => i.nsid != nsid
    params := b.params.filter fun p => !((p.1 == 0x30 || p.1 == 0x31) && p.2.1 == nsid - 1) }

/-- A namespace removed: content, index, root ranges, map pages and media key. -/
def State.removeNs (s : State) (nsid : Nat) : State :=
  let s1 := (s.dropContent nsid).dropIndex (nsid - 1)
  let s2 : State := { s1 with
    tiles := s1.tiles.map fun x => { x with ftl := { x.ftl with
      roots := x.ftl.roots.filter fun r => r.1 + 1 != nsid
      metaPages := x.ftl.metaPages.filter fun m => m.id.1 == 3 || m.id.2.1 + 1 != nsid } }
    ns := s1.ns.filter fun x => x.nsid != nsid }
  match s2.nsKeySlot nsid with
  | some x => s2.eraseSlot x.slot
  | none => s2

/-- The namespaces that a command names: one, or all with FFFF_FFFFh. -/
def State.named (s : State) (nsid : Nat) : List Namespace :=
  s.cfg.body.namespaces.filter fun n => nsid == 0xFFFFFFFF || n.nsid == nsid

/-- NAMESPACE_MANAGEMENT_DELETE: refused for a mirrored namespace (R397). -/
def execNamespaceManagementDelete (k : CmdKey) (e : Sqe) (storeOk : Bool) (s : State) : Out :=
  s.ends (s.admin k e 0x0D fun _ s =>
    let gone := s.named e.nsid.toNat
    if e.cdw10.toNat % 16 ≠ 1 then s
    else if s.cfg.loss then s.ans k .operationDenied
    else if gone = [] ∧ e.nsid.toNat ≠ 0xFFFFFFFF then s.ans k .invalidNamespace
    else if gone.any fun n => (s.mirrorDef n.nsid).isSome then s.ans k .operationDenied
    else
      let body := gone.foldl (fun (b : StoreBody) n => b.dropNs n.nsid) s.cfg.body
      s.nsStore k storeOk body fun s =>
        ((gone.foldl (fun (s : State) n => s.removeNs n.nsid) s).nsChanged).ans k .success)

/-- NAMESPACE_ATTACHMENT: a namespace attached to the controllers of a list, or detached from them; the rights in force follow (R223). -/
def execNamespaceAttachment (k : CmdKey) (e : Sqe) (storeOk : Bool) (s : State) : Out :=
  s.ends (s.admin k e 0x15 fun _ s => s.moving k e 4096 fun s =>
    let sel := e.cdw10.toNat % 16
    let n := leAt e.data 0 2
    let ids := (List.range n).map fun i => leAt e.data (2 + 2 * i) 2
    let fns := ids.filterMap fun i => (s.host.ctrls.find? fun c => funcByte c.fn == i).map fun c => c.fn
    if 1 < sel then s.ans k .invalidField
    else match s.nsOf e.nsid.toNat with
      | none => s.ans k .invalidNamespace
      | some ns =>
        if n = 0 ∨ 2047 < n ∨ fns.length ≠ n then s.ans k .controllerListInvalid
        else if sel = 0 ∧ fns.any ns.attached.contains then s.ans k .namespaceAlreadyAttached
        else if sel = 1 ∧ !fns.all ns.attached.contains then s.ans k .namespaceNotAttached
        else
          let at_ := if sel = 0 then ns.attached ++ fns.eraseDups else ns.attached.filter fun f => !fns.contains f
          let upd (x : Namespace) : Namespace := if x.nsid = ns.nsid then { x with attached := at_ } else x
          s.nsStore k storeOk { s.cfg.body with namespaces := s.cfg.body.namespaces.map upd } fun s => (s.nsChanged).ans k .success)

/-- Namespaces rekeyed in turn; none when a key finds no slot. -/
def State.rekeyAll (s : State) : List Namespace → Option State
  | [] => some s
  | n :: ns =>
    match s.rekey n with
    | none => none
    | some (n1, s1) =>
      let upd (x : Namespace) : Namespace := if x.nsid = n1.nsid then n1 else x
      ({ s1 with cfg := { s1.cfg with body := { s1.cfg.body with namespaces := s1.cfg.body.namespaces.map upd } } } : State).rekeyAll ns

/-- New keys where asked, the store, then every grain deallocated: the shared course of Format and Sanitize (R326). -/
def State.wipe (s : State) (k : CmdKey) (storeOk rekey : Bool) (ns : List Namespace) (upd : Namespace → Namespace) : State :=
  if ns.any fun n => (s.mirrorDef n.nsid).isSome then s.ans k .operationDenied
  else if rekey && !s.keysServe then s.ans k .internalError
  else match if rekey then s.rekeyAll ns else some s with
    | none => s.ans k .internalError
    | some s1 =>
      let hit (x : Namespace) : Namespace := if ns.any fun n => n.nsid == x.nsid then upd x else x
      match s1.storeWrite storeOk { s1.cfg.body with namespaces := s1.cfg.body.namespaces.map hit } with
      | none => (s.log 2 0 2 8 0 0).ans k .internalError
      | some s2 => (ns.foldl (fun (s : State) n => s.dropContent n.nsid) s2).ans k .success

/-- FORMAT_NVM: another LBA format over the same bytes, every grain deallocated, and a new media key under SES 010b (R61, R326, R382). -/
def execFormatNvm (k : CmdKey) (e : Sqe) (storeOk : Bool) (s : State) : Out :=
  s.ends (s.admin k e 0x80 fun _ s =>
    let v := e.cdw10.toNat
    let lbaf := v % 16 + field v 13 12 * 16
    let ses := field v 11 9
    let ns := s.named e.nsid.toNat
    if s.cfg.loss then s.ans k .operationDenied
    else if ns = [] then s.ans k .invalidNamespace
    else if 3 < lbaf ∨ ns.any (fun n => n.grain < (if lbaf ≤ 1 then 4096 else 512)) then s.ans k .invalidFormat
    else if 2 < ses then s.ans k .invalidField
    else s.wipe k storeOk (ses == 2) ns fun n =>
      let n1 : Namespace := { n with lbaf := lbaf }
      { n1 with blocks := n.blocks * n.blockSize / n1.blockSize })

/-- SANITIZE: crypto erase only: new media keys and every grain of every namespace deallocated (R326, R382, Table 3.1). -/
def execSanitize (k : CmdKey) (e : Sqe) (storeOk : Bool) (s : State) : Out :=
  s.ends (s.admin k e 0x84 fun _ s =>
    let act := e.cdw10.toNat % 8
    if s.cfg.loss then s.ans k .operationDenied
    else if act = 1 then s.ans k .success
    else if act ≠ 4 then s.ans k .invalidField
    else s.wipe k storeOk true s.cfg.body.namespaces fun n => n)

end Sys2Proof.Machine
end

