-- ==== Sys2Proof/Machine/Reports.lean ====
section
/-! DEFINITION. Machine/Reports.lean: log pages, LMCS logs and counters, the sideband health poll, the BAR4 snapshot and the temperature
warning (chapters 20 and 22). -/

namespace Sys2Proof

/-- Status code type and status code, as `type * 256 + code`: the vendor codes of Table 3.8 and the codes of NVM Express
(Assumption 16). -/
def NvmeStatus.code : NvmeStatus → Nat
  | .success => 0x00 | .invalidOpcode => 0x01 | .invalidField => 0x02 | .dataTransferError => 0x04 | .internalError => 0x06
  | .abortRequested => 0x07 | .invalidNamespace => 0x0B | .commandSequenceError => 0x0C | .dataSglLengthInvalid => 0x0F
  | .invalidPrpOffset => 0x13 | .operationDenied => 0x15 | .writeProtected => 0x20 | .lbaOutOfRange => 0x80
  | .capacityExceeded => 0x81 | .notReady => 0x82 | .sessionInvalid => 0xC1 | .imageInvalid => 0xC2 | .outputExhausted => 0xC3
  | .compressVerifyFailed => 0xC4 | .indexNotReady => 0xC5 | .peerUnavailable => 0xC6 | .quotaExceeded => 0xC7
  | .sachetFault => 0xC8 | .keyLost => 0xC9 | .unrecoveredRead => 0x281 | .compareFailure => 0x285 | .guardCheck => 0x282
  | .appTagCheck => 0x283 | .refTagCheck => 0x284 | .invalidFormat => 0x10A | .insufficientCapacity => 0x115
  | .namespaceIdUnavailable => 0x116 | .namespaceAlreadyAttached => 0x118 | .namespaceNotAttached => 0x11A
  | .invalidQueueIdentifier => 0x101 | .invalidQueueSize => 0x102 | .completionQueueInvalid => 0x100
  | .invalidQueueDeletion => 0x10C | .asyncLimitExceeded => 0x105 | .invalidInterruptVector => 0x108 | .invalidLogPage => 0x109
  | .featureNotSaveable => 0x10D | .invalidFirmwareSlot => 0x106 | .invalidFirmwareImage => 0x107 | .invalidControllerId => 0x11F
  | .invalidResourceCount => 0x121 | .invalidSecondaryState => 0x120 | .firmwareNeedsReset => 0x10B | .thinProvisioning => 0x11B
  | .controllerListInvalid => 0x11C

end Sys2Proof

namespace Sys2Proof.Machine

open Sys2Proof

/-! ### Entries (R424 to R426) -/

/-- FUNC of a log entry (Table 20.4). -/
def funcWord (f : Option FnId) : Nat :=
  match f with
  | some g => g.port.val * 32768 + g.num.val
  | none => 0xFFFF

/-- A log entry (Table 20.4). -/
def LogEntry.bytes (e : LogEntry) : List Byte :=
  leBytes 8 e.seq ++ leBytes 8 e.time ++ leBytes 1 e.sev ++ leBytes 1 e.cause ++ leBytes 1 e.kind ++ leBytes 1 e.src ++ leBytes 2 e.unit ++
    leBytes 2 (funcWord e.func) ++ leBytes 8 e.detail

/-- An entry of page C0h (Table 20.6). -/
def Retired.bytes (r : Retired) : List Byte :=
  leBytes 1 r.src ++ leBytes 1 r.scope ++ leBytes 2 r.unit ++ leBytes 1 r.cause ++ zeros 3 ++ leBytes 8 r.seq

/-- The package event log, oldest first: the persistent entries that T0's SRAM no longer holds, then those that it holds (R424). -/
def State.eventLog (s : State) : List LogEntry :=
  (s.logs.persist.filter fun e => !s.logs.events.contains e) ++ s.logs.events

/-- The log of a function, oldest first (R423). -/
def State.funcLog (s : State) (f : FnId) : List LogEntry :=
  ((s.logs.funcs.find? fun x => x.1 == f).map fun x => x.2.2).getD []

/-! ### Temperature (R428, R460) -/

/-- TSENS of a tile, in eighths of a degree Celsius. -/
def State.tempOf (s : State) (t : Nat) : Int := (BitVec.ofNat 12 (s.rd (.pwr t) 0x018)).toInt

/-- The composite temperature: the highest TSENS. -/
def State.composite (s : State) : Int := s.tileIds.foldl (fun (m : Int) t => max m (s.tempOf t)) (s.tempOf 0)

/-- The threshold, in eighths of a degree Celsius. -/
def State.tempLimit (s : State) : Int := (BitVec.ofNat 12 (s.rd (.pwr 0) 0x078)).toInt

/-- Critical Warning bit 1 follows the composite temperature: set above the threshold with the temperature event, and cleared 2 °C below it
(R460). -/
def State.judgeTemp (s : State) : State :=
  let hot := bitN s.logs.critical 1
  if s.tempLimit < s.composite && !hot then
    ({ s with logs := { s.logs with critical := s.logs.critical + 2 } } : State).raise 1 1 2
  else if s.composite ≤ s.tempLimit - 16 && hot then { s with logs := { s.logs with critical := s.logs.critical - 2 } }
  else s

/-- TEMPERATURE_THRESHOLD_CROSSED: TSENS of a tile reads another temperature, in eighths of a degree Celsius. -/
def execTemperatureThresholdCrossed (t : TileId) (eighths : BitVec 12) (s : State) : Out :=
  s.ends (if s.hasTile t then (s.wr (.pwr t) 0x018 eighths.toNat).judgeTemp else s)

/-! ### Counters (R427, R429) -/

/-- The counter registers of a block, as their tables name them. -/
def Block.counters : Block → List Nat
  | .fch _ _ => (List.range 5).map fun i => 0x04C + 4 * i
  | .sft _ _ => (List.range 6).map fun i => 0x030 + 4 * i
  | .idx _ => (List.range 8).map fun i => 0x080 + 4 * i
  | .cmp _ => (List.range 5).map fun i => 0x080 + 4 * i
  | .cqe _ => (List.range 4).map fun i => 0x080 + 4 * i
  | .mem _ => [0x06C, 0x070, 0x07C]
  | .pwr _ => (List.range 6).map (fun i => 0x040 + 4 * i) ++ [0x068, 0x06C, 0x07C]
  | .rein => (List.range 8).map (fun i => 0x040 + 4 * i) ++ (List.range 10).flatMap fun i => [0x108 + 0x20 * i, 0x10C + 0x20 * i]
  | _ => []

/-- A counter as it reads: CK_CNT counts clock cycles, whose number is free. -/
def State.counterOf (s : State) (b : Block) (off : Nat) : Word × State :=
  match b with
  | .pwr _ => if off < 0x058 then let d := s.draw; (BitVec.ofNat 32 d.1, d.2) else (s.reg (regAddr b off), s)
  | _ => (s.reg (regAddr b off), s)

/-- The counters of a list of blocks, in offset order. -/
def State.countersOf (s : State) (bs : List Block) : List Word × State :=
  (bs.flatMap fun b => b.counters.map fun o => (b, o)).foldl (fun (r : List Word × State) (p : Block × Nat) =>
    let c := r.2.counterOf p.1 p.2
    (r.1 ++ [c.1], c.2)) ([], s)

/-- The blocks whose counters a source holds: FCH, SFT, IDX, CMP, CQE, MEM and PWR of a tile, or REIN. -/
def counterBlocks (src : Nat) : List Block :=
  if src = 8 then [.rein]
  else (List.range 16).map (Block.fch src) ++ [.sft src 0, .sft src 1, .idx src, .cmp src, .cqe src, .mem src, .pwr src]

/-- COUNTERS (R427). -/
def execCounters (q : Req) (s : State) : Out :=
  s.ends (s.lmcsRun q 0x0702 fun _ s =>
    let src := at1 q.body 0
    if src ≠ 8 ∧ !s.hasTile src then refuse s 2
    else
      let r := s.countersOf (counterBlocks src)
      done r.2 (r.1.flatMap fun w => leBytes 4 w.toNat))

/-- BAR4_SNAPSHOT_REFRESH: while BAR4 is enabled, the counters of tiles 0 to 7 and REIN; those of a tile that the part lacks are zero
(R27, R429). -/
def execBar4SnapshotRefresh (s : State) : Out :=
  s.ends (if s.param 2 0 0 ≠ 1 then s
    else
      let r := (List.range 9).foldl (fun (r : List Word × State) src =>
        if src = 8 ∨ s.hasTile src then
          let c := r.2.countersOf (counterBlocks src)
          (r.1 ++ c.1, c.2)
        else (r.1 ++ (counterBlocks src).flatMap fun b => b.counters.map fun _ => 0, r.2)) ([], s)
      { r.2 with logs := { r.2.logs with snapshot := r.1 } })

/-! ### LOG_READ and the sideband (R427, R428, R465) -/

/-- LOG_READ: up to 60 entries of the event, function or retired log from FROM SEQ. A function reads only its own log; in recovery no
log is loaded, and after a failed start the package steward holds what it holds (R423, R427, R465). -/
def execLogRead (q : Req) (s : State) : Out :=
  s.ends (s.lmcsRun q 0x0701 fun _ s =>
    let b := q.body
    let which := at1 b 0
    let first := leAt b 4 8
    let owner := s.isOwner q.car
    let target := s.host.ctrls.find? fun c => funcWord (some c.fn) == leAt b 1 2
    let own := q.car.fn.isSome && (target.map fun c => c.fn) == q.car.fn
    let entries (es : List LogEntry) : List Byte := ((es.filter fun e => first ≤ e.seq).take 60).flatMap LogEntry.bytes
    if 2 < which ∨ at1 b 3 ≠ 0 then refuse s 2
    else if !owner && (if which = 1 then !own else q.car.fn.isSome) then refuse s 4
    else if s.boot.recovery then done s
    else match which with
      | 0 => done s (entries (if s.boot.startFailed then s.logs.events else s.eventLog))
      | 1 => match target with
        | some c => done s (entries (s.funcLog c.fn))
        | none => refuse s 2
      | _ => done s (((s.logs.retired.filter fun r => first ≤ r.seq).take 60).flatMap Retired.bytes))

/-- NVME_MI_HEALTH_POLL: Critical Warning, the composite temperature in °C, Percentage Used and Available Spare, one byte each
(R428). -/
def execNvmeMiHealthPoll (eid : Byte) (s : State) : Out :=
  s.ends { s with lmcs := { s.lmcs with outbox := s.lmcs.outbox ++
    [(eid, leBytes 1 s.logs.critical ++ leBytes 1 (BitVec.ofInt 8 (s.composite / 8)).toNat ++ leBytes 1 s.percentUsed ++
      leBytes 1 s.availableSpare)] } }

/-! ### Log pages (R426, Tables 4.8 and 20.6) -/

/-- Page 01h: the newest 64 errors of a controller. -/
def State.errorPage (s : State) (f : FnId) : List Byte × State :=
  let es := (s.logs.errors.filter fun e => e.1.fn == f).take 64
  let r := es.foldl (fun (r : List Byte × State) e =>
    let st := e.2.code
    let p := r.2.page 64 [(8, leBytes 2 e.1.sq), (10, leBytes 2 e.1.cid.toNat),
      (12, leBytes 2 (st % 256 * 2 + st / 256 * 512 + (statusCrd e.2).toNat * 4096 + b2n (statusDnr e.2) * 32768))]
    (r.1 ++ p.1, p.2)) ([], s)
  (fit 4096 r.1, r.2)

/-- Page 02h: SMART / Health (R126, R138, R428, Table 20.5). -/
def State.smartPage (s : State) : List Byte × State :=
  s.page 512 [(0, leBytes 1 s.logs.critical), (1, leBytes 2 (Int.toNat (s.composite / 8 + 273))), (3, leBytes 1 s.availableSpare),
    (4, leBytes 1 10), (5, leBytes 1 s.percentUsed), (160, leBytes 16 s.logs.mediaErrors)]

/-- Page 03h: the firmware slots, 1 for A and 2 for B (R356). A slot without a valid image reads zero. -/
def State.slotPage (s : State) : List Byte × State :=
  let run := (s.ident.slot.map fun i => i + 1).getD 0
  let next := if s.ident.nextReset then (if run = 1 then 2 else 1) else 0
  let empty (i : Nat) : List (Nat × List Byte) := if (s.slotImage i).isSome then [] else [(8 + 8 * i, zeros 8)]
  s.page 512 ([(0, leBytes 1 (run + next * 16) ++ zeros 7), (24, zeros 488)] ++ empty 0 ++ empty 1)

/-- Page C1h: the saddlebag (Table 4.8). -/
def State.bagPage (s : State) : List Byte :=
  let h := s.host.hmb
  leBytes 1 h.state ++ leBytes 8 (leAt h.attrs 0 4 * 4096) ++ leBytes 4 (sumOf (s.tileIds.map fun t => (s.tileAt t).ftl.slots.length)) ++
    leBytes 8 h.hits ++ leBytes 8 h.misses ++ leBytes 8 h.stale ++ leBytes 4 h.mismatch ++
    leBytes 1 (h.window.filter fun x => s.now < x + 3600000000).length ++ leBytes 8 h.lastAddr

/-- The namespaces attached to a controller, by NSID. -/
def State.attachedTo (s : State) (f : FnId) : List Namespace :=
  sortBy (fun (a b : Namespace) => a.nsid < b.nsid) (s.cfg.body.namespaces.filter fun n => n.attached.contains f)

/-- A log page, or the status that refuses it. -/
def State.logPage (s : State) (c : Controller) (lid : Nat) : Except NvmeStatus (List Byte × State) :=
  match lid with
  | 0x01 => .ok (s.errorPage c.fn)
  | 0x02 => .ok s.smartPage
  | 0x03 => .ok s.slotPage
  | 0xC0 => .ok (leBytes 4 s.logs.retired.length ++ zeros 4 ++ s.logs.retired.flatMap Retired.bytes, s)
  | 0xC1 => if c.fn = pfA then .ok (s.bagPage, s) else .error .operationDenied
  | 0xC2 => .ok ((s.attachedTo c.fn).flatMap fun n => if (s.indexDecl n.nsid).isSome then s.indexState n.nsx else [], s)
  | 0xC3 => .ok ((s.attachedTo c.fn).flatMap fun n => match s.mirrorDef n.nsid with
      | some m => s.nsState n.nsid m
      | none => [], s)
  | 0xC4 => .ok ((s.funcLog c.fn).flatMap LogEntry.bytes, s)
  | 0xC5 => if s.isOwner (adminCarrier c.fn) then .ok (s.eventLog.reverse.flatMap LogEntry.bytes, s) else .error .operationDenied
  | _ => .error .invalidLogPage

/-- GET_LOG_PAGE: the dwords asked for from the page's offset; bytes past its end are zero. -/
def execGetLogPage (k : CmdKey) (e : Sqe) (s : State) : Out :=
  s.ends (s.admin k e 0x02 fun c s =>
    let n := (e.cdw10.toNat / 65536 + e.cdw11.toNat % 65536 * 65536 + 1) * 4
    let off := e.cdw12.toNat + e.cdw13.toNat * 2 ^ 32
    match s.logPage c (e.cdw10.toNat % 256) with
    | .error st => s.ans k st
    | .ok (b, s1) => s1.moving k e n fun s => s.ans k .success 0 (fit n (b.drop off)))

end Sys2Proof.Machine
end

