-- ==== Sys2Proof/Machine/Faults.lean ====
section
/-! DEFINITION. Machine/Faults.lean: the one retry of an engine and of a die-to-die packet, and the retirement of what fails twice
(R419 to R421, Table 20.2). -/

namespace Sys2Proof.Machine

open Sys2Proof

/-- A descriptor of 32 bytes written at the tail of an engine's queue, when it has room: a job repeated or moved by Blustite. -/
def State.resubmit (s : State) (t : Nat) (b : Block) (q : Nat) (d : List Byte) : State :=
  let r := s.queueRing b q
  if r.count < r.size then (s.writeMem t (r.at r.tail 32) d).wr b (0x04C + 16 * q) (r.next r.tail) else s

/-- The same for the job ring of a sift pipeline. -/
def State.resubmitSift (s : State) (t c : Nat) (d : List Byte) : State :=
  let r := s.siftRing t c
  if r.count < r.size then (s.writeMem t (r.at r.tail 32) d).wr (.sft t c) 0x018 (r.next r.tail) else s

/-- The untaken descriptors of a queue, in ring order. -/
def State.untaken (s : State) (t : Nat) (b : Block) (q : Nat) : List (Nat × List Byte) :=
  let r := s.queueRing b q
  (List.range r.count).map fun i => (q, s.readMem t (r.at (r.head + i) 32) 32)

/-- Work unfinished at an engine's retirement: the job that failed, then the untaken ones of every queue (R420). -/
def State.unfinished (s : State) (t : Nat) (b : Block) (held : Option (Nat × List Byte)) : List (Nat × List Byte) :=
  held.toList ++ (List.range 4).flatMap fun q => s.untaken t b q

/-- Unfinished work resubmitted whole on a stand-in's queues. -/
def State.moveWork (s : State) (u : Nat) (b : Block) (work : List (Nat × List Byte)) : State :=
  work.foldl (fun (s : State) w => s.resubmit u b w.1 w.2) s

/-- The retirement of a sift pipeline: its untaken jobs end, and its work goes to the other cluster's pipeline (R193, Table 20.2). -/
def State.retireSift (s : State) (t c : Nat) : State :=
  let x := (s.tileAt t).sift c
  let r := s.siftRing t c
  let work := x.held.toList ++ (List.range r.count).map fun i => s.readMem t (r.at (r.head + i) 32) 32
  let s1 := (s.siftFlush t c).onSift t c fun y => { y with held := none, retired := some 0xA1 }
  let s2 := (s1.siftStat t c).retireNotice t 3 (1 + c) 0xA1
  if ((s2.tileAt t).sift (1 - c)).retired.isSome then s2
  else work.foldl (fun (s : State) d => s.resubmitSift t (1 - c) d) s2

/-- The retirement of an index builder. -/
def State.retireIdx (s : State) (t : Nat) : State :=
  let b : Block := .idx t
  let work := s.unfinished t b (s.tileAt t).idx.held
  let s1 := (List.range 4).foldl (fun (s : State) q => s.flushQueue t b q 0x01C 0x020 0x024 32 fun d =>
    IdxJob.entry { queue := q, desc := d, status := 4 }) s
  let s2 := (s1.onTileAt t fun x => { x with idx := { x.idx with held := none, retired := some 0xA1 } }).retireNotice t 3 5 0xA1
  match s2.standIn t fun u => s2.idxUp u with
  | some u => s2.moveWork u (.idx u) work
  | none => s2

/-- The retirement of a cipher queue engine: its open holds are zeroed and closed. -/
def State.retireCqe (s : State) (t : Nat) : State :=
  let b : Block := .cqe t
  let work := s.unfinished t b (s.tileAt t).cqe.held
  let s1 := (List.range 4).foldl (fun (s : State) q => s.cqeFlush t q 0x0A) s
  let s2 := (s1.tileAt t).cqe.holds.foldl (fun (s : State) h => s.dropHold t h.hid) s1
  let s3 := ((s2.onCqe t fun x => { x with held := none, retired := some 0xA1 }).cqeStat t).retireNotice t 3 6 0xA1
  match s3.standIn t fun u => (s3.tileAt u).cqe.retired.isNone with
  | some u => s3.moveWork u (.cqe u) work
  | none => s3

/-- The retirement of a digest engine: an open message is lost on it and starts again elsewhere from its first byte (R420). -/
def State.retireDge (s : State) (t : Nat) : State :=
  let s1 := s.onDge t fun x => { x with msg := none, feeding := none, held := false, retired := some 0xA1 }
  ((s1.unflag (.dge t) 0x008 0).wr (.dge t) 0x00C 0).retireNotice t 3 7 0xA1

/-- The retirement of an XTS engine and of its cluster's eight channels; the device then turns read-only under R123 (Table 20.2). -/
def State.retireXts (s : State) (t c : Nat) : State :=
  let set (x : Xts) : Xts := { x with retired := some 0xA1, cache := [] }
  let s1 := s.onTileAt t fun x => if c = 0 then { x with xtsA := set x.xtsA } else { x with xtsB := set x.xtsB }
  let s2 := (s1.wrField (.xts t c) 0x004 1 0 2).retireNotice t 3 (3 + c) 0xA1
  (List.range 8).foldl (fun (s : State) i => s.retireMedia t (8 * c + i) none 0xA1) s2

/-- The job of an engine that ended with PARITY, repeated: the log takes a TRANSIENT (R419, R424). -/
def State.repeated (s : State) (t unit : Nat) : State := s.logTransient 0xA1 t unit

/-- The bytes that an index job reads at its source. -/
def State.idxReads (s : State) (d : List Byte) : Nat :=
  match at1 d 0 with
  | 1 => s.grainOfNsx (leAt d 2 2)
  | 3 => 4 * leAt d 28 4
  | 4 => 65536
  | _ => 0

/-- Whether the unit of work that an engine would repeat reads a poisoned word. Its second read is charged to the memory, never to the
engine (R308). -/
def State.heldPoison (s : State) (t : Nat) (e : Engine) : Bool :=
  let x := s.tileAt t
  match e with
  | .sft c => (x.sift c).held.any fun d => (s.siftArea t d).any fun a => s.anyPoison t (leAt d 12 4) (a.grain + 256)
  | .idx => x.idx.held.any fun w => s.anyPoison t (leAt w.2 8 4) (s.idxReads w.2)
  | .cqe => x.cqe.held.any fun w => s.cqePoison t w.2
  | .dge => x.dge.held && s.anyPoison t (s.rd (.dge t) 0x030) (s.rd (.dge t) 0x034)
  | .cmp | .xts _ => false

/-- The engine gives up the unit of work that it would repeat: its PARITY completion stands. -/
def State.dropHeld (s : State) (t : Nat) (e : Engine) : State :=
  match e with
  | .sft c => s.onSift t c fun y => { y with held := none }
  | .idx => s.onTileAt t fun x => { x with idx := { x.idx with held := none } }
  | .cqe => s.onCqe t fun x => { x with held := none }
  | .dge => s.onDge t fun y => { y with held := false }
  | .cmp | .xts _ => s

/-- ENGINE_PARITY_RETRY: 1 µs after a datapath parity error the unit of work is repeated once; `retryOk` says how that ends. An XTS
engine repeats its data unit, a digest engine its message, and the others the job that they hold. One that reads a poisoned word is given up. The compressor has no such fault: its
blocks are verified (R165). -/
def execEngineParityRetry (t : TileId) (eng : Engine) (retryOk : Bool) (s : State) : Out :=
  s.ends (
    let x := s.tileAt t
    if !s.hasTile t then s
    else match eng with
    | .cmp => s
    | .sft c => match (x.sift c).held with
      | none => s
      | some d =>
        if (x.sift c).running.isSome || (x.sift c).retired.isSome then s
        else if s.heldPoison t eng then s.dropHeld t eng
        else if retryOk then ((s.onSift t c fun y => { y with held := none }).resubmitSift t c d).repeated t (1 + c)
        else s.retireSift t c
    | .idx => match x.idx.held with
      | none => s
      | some w =>
        if x.idx.running.isSome || x.idx.retired.isSome then s
        else if s.heldPoison t eng then s.dropHeld t eng
        else if retryOk then
          ((s.onTileAt t fun x => { x with idx := { x.idx with held := none } }).resubmit t (.idx t) w.1 w.2).repeated t 5
        else s.retireIdx t
    | .cqe => match x.cqe.held with
      | none => s
      | some w =>
        if x.cqe.running.isSome || x.cqe.retired.isSome then s
        else if s.heldPoison t eng then s.dropHeld t eng
        else if retryOk then ((s.onCqe t fun x => { x with held := none }).resubmit t (.cqe t) w.1 w.2).repeated t 6
        else s.retireCqe t
    | .dge =>
      if x.dge.retired.isSome then s
      else if s.heldPoison t eng then s.dropHeld t eng
      else if retryOk then (s.onDge t fun y => { y with held := false }).repeated t 7
      else s.retireDge t
    | .xts c =>
      if (if c.val = 0 then x.xtsA else x.xtsB).retired.isSome then s
      else if retryOk then s.repeated t (3 + c.val) else s.retireXts t c.val)

/-- FABRIC_LINK_REPLAY: a packet with a parity error on the link of two tiles is replayed after 100 ns; when that fails too the link is
retired and the device fails (R25, R419, Table 20.2). -/
def execFabricLinkReplay (a b : TileId) (replayOk : Bool) (s : State) : Out :=
  s.ends (if !s.hasTile a || !s.hasTile b || s.hops a b ≠ 1 then s
    else if replayOk then s.logTransient 0xA5 a b
    else (s.retireNotice a 6 b 0xA5).failDevice 0xA5 a b)

end Sys2Proof.Machine
end

