-- ==== Sys2Proof/Machine/Pins.lean ====
section
/-! DEFINITION. Machine/Pins.lean: GPIO inputs, the ACT output, the test access port and the sideband's endpoint ID (chapters 16 and 21). -/

namespace Sys2Proof.Machine

open Sys2Proof

/-- GPIO_INPUT_EDGE: a pin takes another level. Sampled, an edge that GPIO_EDGE selects sets its bit of GPIO_IRQ_STAT. Pin 0 is PFAIL_N:
MODE_STAT.PFAIL follows it, and the time of its rise counts after a park (R374, R444, R445, Table 17.8). -/
def execGpioInputEdge (pin : Fin 8) (level : Bool) (s : State) : Out :=
  s.ends (
    let old := s.pins.gpio.getD pin.val false
    let s1 : State := { s with pins := { s.pins with gpio := setAt s.pins.gpio pin.val level } }
    let sel := s.rd .sbg 0x020
    let hit := bitN sel (8 + pin.val) || (if bitN sel pin.val then !level else level)
    let s2 := if old != level && bitN (s.rd .sbg 0) 0 && hit then s1.flag .sbg 0x018 pin.val else s1
    if pin.val ≠ 0 || old == level then s2
    else
      let s3 := s2.wrField .glb 0x20C 2 2 (b2n !level)
      if level && s3.power.parked then { s3 with power := { s3.power with pfailHighSince := s3.now } } else s3)

/-- ACT_TIMEOUT: 50 ms after the last host command (R444). -/
def execActTimeout (s : State) : Out := s.ends { s with pins := { s.pins with act := false } }

/-! ### The test access port (R438) -/

/-- The value of the ID register. The manufacturer code is free. -/
def State.idcode (s : State) : Nat × State :=
  let d := s.draw
  (field s.ltid.toNat 15 12 * 2 ^ 28 + field s.ltid.toNat 31 16 * 2 ^ 12 + d.1 % 2 ^ 11 * 2 + 1, d.2)

/-- IDCODE: the ID register is selected and captured. -/
def execIdcode (s : State) : Out :=
  s.ends (let d := s.idcode
    { d.2 with pins := { d.2.pins with tap := .idcode, dr := d.1 } })

/-- The one-bit bypass register selected. -/
def State.tapBypass (s : State) : State := { s with pins := { s.pins with tap := .bypass, dr := 0 } }

/-- BYPASS. -/
def execBypass (s : State) : Out := s.ends s.tapBypass

/-- SAMPLE/PRELOAD: the boundary cells are selected; the pins go on as before. -/
def execSamplePreload (s : State) : Out := s.ends { s with pins := { s.pins with tap := .samplePreload } }

/-- EXTEST: the boundary cells drive the pins in recovery; otherwise it acts as BYPASS (R379, R438). -/
def execExtest (cells : List Bool) (s : State) : Out :=
  s.ends (if s.boot.recovery then { s with pins := { s.pins with tap := .extest, cells := cells } } else s.tapBypass)

/-- CLAMP. -/
def execClamp (s : State) : Out :=
  s.ends (if s.boot.recovery then { s with pins := { s.pins with tap := .clamp, dr := 0 } } else s.tapBypass)

/-- HIGHZ. -/
def execHighz (s : State) : Out :=
  s.ends (if s.boot.recovery then { s with pins := { s.pins with tap := .highz, dr := 0 } } else s.tapBypass)

/-! ### The sideband (R353, R437) -/

/-- ENDPOINT_ID_REASSIGNED: what the endpoint held under its old ID ends: the owner role, nonces and everything in assembly (R353). -/
def execEndpointIdReassigned (old new : Byte) (s : State) : Out :=
  s.ends (if old = new then s else s.dropCarriers fun c => c == .mctp old)

end Sys2Proof.Machine
end

