-- ==== Sys2Proof/Machine/Meanings.lean ====
section
/-! DEFINITION. Machine/Meanings.lean: the meanings of every command, brought together for Machine/Dispatch.lean. -/
end

