-- ==== Sys2Proof/Machine/Dispatch.lean ====
section
/-! DEFINITION. Machine/Dispatch.lean: one arm for each command. -/

namespace Sys2Proof.Machine

open Sys2Proof

def exec (i : Instr) (s : State) : Host.Outcome State Fault Refusal :=
  match i with
  | .pwrokRise => Sys2Proof.Machine.execPwrokRise s
  | .pwrokFall lowNs => Sys2Proof.Machine.execPwrokFall lowNs s
  | .supplyCollapse lowNs => Sys2Proof.Machine.execSupplyCollapse lowNs s
  | .supplyDip millivolts => Sys2Proof.Machine.execSupplyDip millivolts s
  | .perstN => Sys2Proof.Machine.execPerstN s
  | .selfTestComplete t failedBanks checkerOk => Sys2Proof.Machine.execSelfTestComplete t failedBanks checkerOk s
  | .bootSelect fc000 fc016 => Sys2Proof.Machine.execBootSelect fc000 fc016 s
  | .configStoreLoad checks => Sys2Proof.Machine.execConfigStoreLoad checks s
  | .mapRecoveryRead t rootOk => Sys2Proof.Machine.execMapRecoveryRead t rootOk s
  | .firstSweep t => Sys2Proof.Machine.execFirstSweep t s
  | .modeSelect profileMaxUs => Sys2Proof.Machine.execModeSelect profileMaxUs s
  | .cstsRdySet => Sys2Proof.Machine.execCstsRdySet s
  | .secondSweep t => Sys2Proof.Machine.execSecondSweep t s
  | .restoredFragmentProgram t => Sys2Proof.Machine.execRestoredFragmentProgram t s
  | .startupDeadline t => Sys2Proof.Machine.execStartupDeadline t s
  | .tileFailure t => Sys2Proof.Machine.execTileFailure t s
  | .ccEn f => Sys2Proof.Machine.execCcEn f s
  | .controllerReset f => Sys2Proof.Machine.execControllerReset f s
  | .functionLevelReset f => Sys2Proof.Machine.execFunctionLevelReset f s
  | .doorbellWrite f index value => Sys2Proof.Machine.execDoorbellWrite f index value s
  | .commandFetch port ready => Sys2Proof.Machine.execCommandFetch port ready s
  | .fragmentStaged k t => Sys2Proof.Machine.execFragmentStaged k t s
  | .fragmentComplete k t stat => Sys2Proof.Machine.execFragmentComplete k t stat s
  | .read k env => Sys2Proof.Machine.execRead k env s
  | .write k => Sys2Proof.Machine.execWrite k s
  | .flush k => Sys2Proof.Machine.execFlush k s
  | .writeZeroes k => Sys2Proof.Machine.execWriteZeroes k s
  | .datasetManagement k => Sys2Proof.Machine.execDatasetManagement k s
  | .compare k env => Sys2Proof.Machine.execCompare k env s
  | .scan k env => Sys2Proof.Machine.execScan k env s
  | .lookup k env => Sys2Proof.Machine.execLookup k env s
  | .range k env => Sys2Proof.Machine.execRange k env s
  | .materialize k env => Sys2Proof.Machine.execMaterialize k env s
  | .run k h => Sys2Proof.Machine.execRun k h s
  | .abort k e abortWins => Sys2Proof.Machine.execAbort k e abortWins s
  | .lmcsSend k e => Sys2Proof.Machine.execLmcsSend k e s
  | .lmcsReceive k e => Sys2Proof.Machine.execLmcsReceive k e s
  | .identifyCommand k e => Sys2Proof.Machine.execIdentifyCommand k e s
  | .getLogPage k e => Sys2Proof.Machine.execGetLogPage k e s
  | .getFeatures k e => Sys2Proof.Machine.execGetFeatures k e s
  | .setFeatures k e => Sys2Proof.Machine.execSetFeatures k e s
  | .setFeaturesNumberOfQueues k e => Sys2Proof.Machine.execSetFeaturesNumberOfQueues k e s
  | .setFeaturesHostMemoryBuffer k e => Sys2Proof.Machine.execSetFeaturesHostMemoryBuffer k e s
  | .setFeaturesVolatileWriteCache k e => Sys2Proof.Machine.execSetFeaturesVolatileWriteCache k e s
  | .setFeaturesTemperatureThreshold k e => Sys2Proof.Machine.execSetFeaturesTemperatureThreshold k e s
  | .createIoSubmissionQueue k e => Sys2Proof.Machine.execCreateIoSubmissionQueue k e s
  | .createIoCompletionQueue k e => Sys2Proof.Machine.execCreateIoCompletionQueue k e s
  | .deleteIoSubmissionQueue k e => Sys2Proof.Machine.execDeleteIoSubmissionQueue k e s
  | .deleteIoCompletionQueue k e => Sys2Proof.Machine.execDeleteIoCompletionQueue k e s
  | .asynchronousEventRequest k e => Sys2Proof.Machine.execAsynchronousEventRequest k e s
  | .namespaceManagementCreate k e storeOk => Sys2Proof.Machine.execNamespaceManagementCreate k e storeOk s
  | .namespaceManagementDelete k e storeOk => Sys2Proof.Machine.execNamespaceManagementDelete k e storeOk s
  | .namespaceAttachment k e storeOk => Sys2Proof.Machine.execNamespaceAttachment k e storeOk s
  | .formatNvm k e storeOk => Sys2Proof.Machine.execFormatNvm k e storeOk s
  | .sanitize k e storeOk => Sys2Proof.Machine.execSanitize k e storeOk s
  | .firmwareImageDownload k e => Sys2Proof.Machine.execFirmwareImageDownload k e s
  | .firmwareCommit k e => Sys2Proof.Machine.execFirmwareCommit k e s
  | .virtualizationManagement k e => Sys2Proof.Machine.execVirtualizationManagement k e s
  | .deviceSelfTest k e => Sys2Proof.Machine.execDeviceSelfTest k e s
  | .nvmeMiHealthPoll eid => Sys2Proof.Machine.execNvmeMiHealthPoll eid s
  | .mbDoorbell f m seq msg => Sys2Proof.Machine.execMbDoorbell f m seq msg s
  | .mbCtrlAbort f m stat ctrl => Sys2Proof.Machine.execMbCtrlAbort f m stat ctrl s
  | .lmcsResponsePost f m => Sys2Proof.Machine.execLmcsResponsePost f m s
  | .identify q => Sys2Proof.Machine.execIdentify q s
  | .inventory q => Sys2Proof.Machine.execInventory q s
  | .registerWindowRead q => Sys2Proof.Machine.execRegisterWindowRead q s
  | .registerWindowWrite q => Sys2Proof.Machine.execRegisterWindowWrite q s
  | .cfgGet q => Sys2Proof.Machine.execCfgGet q s
  | .cfgStage q => Sys2Proof.Machine.execCfgStage q s
  | .cfgCommit q storeOk => Sys2Proof.Machine.execCfgCommit q storeOk s
  | .cfgDiscard q => Sys2Proof.Machine.execCfgDiscard q s
  | .cfgList q => Sys2Proof.Machine.execCfgList q s
  | .cinchQuery q => Sys2Proof.Machine.execCinchQuery q s
  | .cfgExport q => Sys2Proof.Machine.execCfgExport q s
  | .cfgImport q => Sys2Proof.Machine.execCfgImport q s
  | .cinchGo who => Sys2Proof.Machine.execCinchGo who s
  | .islandAdopt e_i => Sys2Proof.Machine.execIslandAdopt e_i s
  | .cinchStall => Sys2Proof.Machine.execCinchStall s
  | .registerWrite by_ a v => Sys2Proof.Machine.execRegisterWrite by_ a v s
  | .drainOnlyRegisterWrite a v => Sys2Proof.Machine.execDrainOnlyRegisterWrite a v s
  | .undecodedAccess a bytes isWrite => Sys2Proof.Machine.execUndecodedAccess a bytes isWrite s
  | .checkpoint t => Sys2Proof.Machine.execCheckpoint t s
  | .superblockOpen t st collected => Sys2Proof.Machine.execSuperblockOpen t st collected s
  | .rowAgeExpiry t st => Sys2Proof.Machine.execRowAgeExpiry t st s
  | .superblockClosure t st => Sys2Proof.Machine.execSuperblockClosure t st s
  | .collectionStart t => Sys2Proof.Machine.execCollectionStart t s
  | .collectionVictimRelease t sbn eraseFails => Sys2Proof.Machine.execCollectionVictimRelease t sbn eraseFails s
  | .staticLevelling t => Sys2Proof.Machine.execStaticLevelling t s
  | .fchQtail t c v => Sys2Proof.Machine.execFchQtail t c v s
  | .flashRead t c env => Sys2Proof.Machine.execFlashRead t c env s
  | .flashProgram t c failed => Sys2Proof.Machine.execFlashProgram t c failed s
  | .flashErase t c failed => Sys2Proof.Machine.execFlashErase t c failed s
  | .flashReadParam t c page => Sys2Proof.Machine.execFlashReadParam t c page s
  | .flashGetFeatures t c => Sys2Proof.Machine.execFlashGetFeatures t c s
  | .flashSetFeatures t c => Sys2Proof.Machine.execFlashSetFeatures t c s
  | .flashResetLun t c => Sys2Proof.Machine.execFlashResetLun t c s
  | .flashOpComplete t c lun rebuildable => Sys2Proof.Machine.execFlashOpComplete t c lun rebuildable s
  | .interfaceFaultRetry t c lun cls retryOk => Sys2Proof.Machine.execInterfaceFaultRetry t c lun cls retryOk s
  | .readyTimeout t c lun => Sys2Proof.Machine.execReadyTimeout t c lun s
  | .fchQctrlEnClear t c => Sys2Proof.Machine.execFchQctrlEnClear t c s
  | .trainFull t c => Sys2Proof.Machine.execTrainFull t c s
  | .trainZqonly t c => Sys2Proof.Machine.execTrainZqonly t c s
  | .trainingComplete t c res => Sys2Proof.Machine.execTrainingComplete t c res s
  | .cmpQtail t qn v => Sys2Proof.Machine.execCmpQtail t qn v s
  | .grain t verify => Sys2Proof.Machine.execGrain t verify s
  | .compress t verify => Sys2Proof.Machine.execCompress t verify s
  | .decompress t => Sys2Proof.Machine.execDecompress t s
  | .cmpJobComplete t => Sys2Proof.Machine.execCmpJobComplete t s
  | .cmpQctrlEnClear t qn => Sys2Proof.Machine.execCmpQctrlEnClear t qn s
  | .sftQtail t c v => Sys2Proof.Machine.execSftQtail t c v s
  | .siftGrain t c parity => Sys2Proof.Machine.execSiftGrain t c parity s
  | .cont t c parity => Sys2Proof.Machine.execCont t c parity s
  | .sftJobComplete t c => Sys2Proof.Machine.execSftJobComplete t c s
  | .sftQctrlEnClear t c => Sys2Proof.Machine.execSftQctrlEnClear t c s
  | .escalationTimeout k => Sys2Proof.Machine.execEscalationTimeout k s
  | .engineParityRetry t eng retryOk => Sys2Proof.Machine.execEngineParityRetry t eng retryOk s
  | .layoutInstall q => Sys2Proof.Machine.execLayoutInstall q s
  | .layoutAttach q storeOk => Sys2Proof.Machine.execLayoutAttach q storeOk s
  | .layoutDetach q storeOk => Sys2Proof.Machine.execLayoutDetach q storeOk s
  | .imageInstall q => Sys2Proof.Machine.execImageInstall q s
  | .imageRemove q => Sys2Proof.Machine.execImageRemove q s
  | .setInstall q => Sys2Proof.Machine.execSetInstall q s
  | .setRemove q => Sys2Proof.Machine.execSetRemove q s
  | .layoutRemove q => Sys2Proof.Machine.execLayoutRemove q s
  | .siftQuery q => Sys2Proof.Machine.execSiftQuery q s
  | .indexDeclare q storeOk => Sys2Proof.Machine.execIndexDeclare q storeOk s
  | .indexDrop q storeOk => Sys2Proof.Machine.execIndexDrop q storeOk s
  | .indexStatus q => Sys2Proof.Machine.execIndexStatus q s
  | .idxQtail t qn v => Sys2Proof.Machine.execIdxQtail t qn v s
  | .extract t parity => Sys2Proof.Machine.execExtract t parity s
  | .idxSeal t parity => Sys2Proof.Machine.execIdxSeal t parity s
  | .merge t parity => Sys2Proof.Machine.execMerge t parity s
  | .probe t parity => Sys2Proof.Machine.execProbe t parity s
  | .idxJobComplete t => Sys2Proof.Machine.execIdxJobComplete t s
  | .idxQctrlEnClear t qn => Sys2Proof.Machine.execIdxQctrlEnClear t qn s
  | .indexRegeneration t nsx => Sys2Proof.Machine.execIndexRegeneration t nsx s
  | .create q => Sys2Proof.Machine.execCreate q s
  | .destroy q => Sys2Proof.Machine.execDestroy q s
  | .query q => Sys2Proof.Machine.execQuery q s
  | .setRights q => Sys2Proof.Machine.execSetRights q s
  | .setClass q => Sys2Proof.Machine.execSetClass q s
  | .list q => Sys2Proof.Machine.execList q s
  | .funcSet q storeOk => Sys2Proof.Machine.execFuncSet q storeOk s
  | .funcQuery q => Sys2Proof.Machine.execFuncQuery q s
  | .quotaSet q storeOk => Sys2Proof.Machine.execQuotaSet q storeOk s
  | .quotaQuery q => Sys2Proof.Machine.execQuotaQuery q s
  | .suspend q => Sys2Proof.Machine.execSuspend q s
  | .resume q => Sys2Proof.Machine.execResume q s
  | .revoke q => Sys2Proof.Machine.execRevoke q s
  | .sessionRelease snum => Sys2Proof.Machine.execSessionRelease snum s
  | .quotaPeriod qbi => Sys2Proof.Machine.execQuotaPeriod qbi s
  | .quantumEnd h heldUs => Sys2Proof.Machine.execQuantumEnd h heldUs s
  | .threadStart h => Sys2Proof.Machine.execThreadStart h s
  | .threadWake h => Sys2Proof.Machine.execThreadWake h s
  | .interrupt h quantum => Sys2Proof.Machine.execInterrupt h quantum s
  | .undefinedEncoding h w => Sys2Proof.Machine.execUndefinedEncoding h w s
  | .add h rd ra rb => Sys2Proof.Machine.execAdd h rd ra rb s
  | .sub h rd ra rb => Sys2Proof.Machine.execSub h rd ra rb s
  | .andR h rd ra rb => Sys2Proof.Machine.execAndR h rd ra rb s
  | .orR h rd ra rb => Sys2Proof.Machine.execOrR h rd ra rb s
  | .xor h rd ra rb => Sys2Proof.Machine.execXor h rd ra rb s
  | .nor h rd ra rb => Sys2Proof.Machine.execNor h rd ra rb s
  | .sll h rd ra rb => Sys2Proof.Machine.execSll h rd ra rb s
  | .srl h rd ra rb => Sys2Proof.Machine.execSrl h rd ra rb s
  | .sra h rd ra rb => Sys2Proof.Machine.execSra h rd ra rb s
  | .slt h rd ra rb => Sys2Proof.Machine.execSlt h rd ra rb s
  | .sltu h rd ra rb => Sys2Proof.Machine.execSltu h rd ra rb s
  | .mul h rd ra rb => Sys2Proof.Machine.execMul h rd ra rb s
  | .mulh h rd ra rb => Sys2Proof.Machine.execMulh h rd ra rb s
  | .mulhu h rd ra rb => Sys2Proof.Machine.execMulhu h rd ra rb s
  | .div h rd ra rb => Sys2Proof.Machine.execDiv h rd ra rb s
  | .divu h rd ra rb => Sys2Proof.Machine.execDivu h rd ra rb s
  | .rem h rd ra rb => Sys2Proof.Machine.execRem h rd ra rb s
  | .remu h rd ra rb => Sys2Proof.Machine.execRemu h rd ra rb s
  | .adds h rd ra rb => Sys2Proof.Machine.execAdds h rd ra rb s
  | .subs h rd ra rb => Sys2Proof.Machine.execSubs h rd ra rb s
  | .addus h rd ra rb => Sys2Proof.Machine.execAddus h rd ra rb s
  | .subus h rd ra rb => Sys2Proof.Machine.execSubus h rd ra rb s
  | .clz h rd ra => Sys2Proof.Machine.execClz h rd ra s
  | .shuf h rd ra rb => Sys2Proof.Machine.execShuf h rd ra rb s
  | .crcb h rd ra rb => Sys2Proof.Machine.execCrcb h rd ra rb s
  | .crcw h rd ra rb => Sys2Proof.Machine.execCrcw h rd ra rb s
  | .mula h ra rb => Sys2Proof.Machine.execMula h ra rb s
  | .mulau h ra rb => Sys2Proof.Machine.execMulau h ra rb s
  | .mac h ra rb => Sys2Proof.Machine.execMac h ra rb s
  | .macu h ra rb => Sys2Proof.Machine.execMacu h ra rb s
  | .msu h ra rb => Sys2Proof.Machine.execMsu h ra rb s
  | .msuu h ra rb => Sys2Proof.Machine.execMsuu h ra rb s
  | .accrd h rd ra => Sys2Proof.Machine.execAccrd h rd ra s
  | .ftoi h rd ra rb => Sys2Proof.Machine.execFtoi h rd ra rb s
  | .itof h rd ra rb => Sys2Proof.Machine.execItof h rd ra rb s
  | .addi h rd ra imm => Sys2Proof.Machine.execAddi h rd ra imm s
  | .slti h rd ra imm => Sys2Proof.Machine.execSlti h rd ra imm s
  | .sltiu h rd ra imm => Sys2Proof.Machine.execSltiu h rd ra imm s
  | .andi h rd ra imm => Sys2Proof.Machine.execAndi h rd ra imm s
  | .ori h rd ra imm => Sys2Proof.Machine.execOri h rd ra imm s
  | .xori h rd ra imm => Sys2Proof.Machine.execXori h rd ra imm s
  | .slli h rd ra sh => Sys2Proof.Machine.execSlli h rd ra sh s
  | .srli h rd ra sh => Sys2Proof.Machine.execSrli h rd ra sh s
  | .srai h rd ra sh => Sys2Proof.Machine.execSrai h rd ra sh s
  | .lui h rd imm => Sys2Proof.Machine.execLui h rd imm s
  | .adrp h rd imm => Sys2Proof.Machine.execAdrp h rd imm s
  | .lb h rd ra imm ecc => Sys2Proof.Machine.execLb h rd ra imm ecc s
  | .lbu h rd ra imm ecc => Sys2Proof.Machine.execLbu h rd ra imm ecc s
  | .lh h rd ra imm ecc => Sys2Proof.Machine.execLh h rd ra imm ecc s
  | .lhu h rd ra imm ecc => Sys2Proof.Machine.execLhu h rd ra imm ecc s
  | .lw h rd ra imm ecc => Sys2Proof.Machine.execLw h rd ra imm ecc s
  | .sb h rs ra imm => Sys2Proof.Machine.execSb h rs ra imm s
  | .sh h rs ra imm => Sys2Proof.Machine.execSh h rs ra imm s
  | .sw h rs ra imm => Sys2Proof.Machine.execSw h rs ra imm s
  | .ldG h rd g sz sx ecc => Sys2Proof.Machine.execLdG h rd g sz sx ecc s
  | .stG h rs g sz sx => Sys2Proof.Machine.execStG h rs g sz sx s
  | .amoswap h rd ra rb ecc => Sys2Proof.Machine.execAmoswap h rd ra rb ecc s
  | .amoadd h rd ra rb ecc => Sys2Proof.Machine.execAmoadd h rd ra rb ecc s
  | .amoand h rd ra rb ecc => Sys2Proof.Machine.execAmoand h rd ra rb ecc s
  | .amoor h rd ra rb ecc => Sys2Proof.Machine.execAmoor h rd ra rb ecc s
  | .cas h rd ra rb ecc => Sys2Proof.Machine.execCas h rd ra rb ecc s
  | .beq h ra rb off => Sys2Proof.Machine.execBeq h ra rb off s
  | .bne h ra rb off => Sys2Proof.Machine.execBne h ra rb off s
  | .blt h ra rb off => Sys2Proof.Machine.execBlt h ra rb off s
  | .bge h ra rb off => Sys2Proof.Machine.execBge h ra rb off s
  | .bltu h ra rb off => Sys2Proof.Machine.execBltu h ra rb off s
  | .bgeu h ra rb off => Sys2Proof.Machine.execBgeu h ra rb off s
  | .j h off => Sys2Proof.Machine.execJ h off s
  | .call4 h off => Sys2Proof.Machine.execCall4 h off s
  | .call8 h off => Sys2Proof.Machine.execCall8 h off s
  | .call12 h off => Sys2Proof.Machine.execCall12 h off s
  | .call16 h off => Sys2Proof.Machine.execCall16 h off s
  | .jr h ra => Sys2Proof.Machine.execJr h ra s
  | .callr4 h ra => Sys2Proof.Machine.execCallr4 h ra s
  | .callr8 h ra => Sys2Proof.Machine.execCallr8 h ra s
  | .callr12 h ra => Sys2Proof.Machine.execCallr12 h ra s
  | .callr16 h ra => Sys2Proof.Machine.execCallr16 h ra s
  | .ret h => Sys2Proof.Machine.execRet h s
  | .fence h => Sys2Proof.Machine.execFence h s
  | .fenceI h => Sys2Proof.Machine.execFenceI h s
  | .wflush h => Sys2Proof.Machine.execWflush h s
  | .eret h => Sys2Proof.Machine.execEret h s
  | .wait h => Sys2Proof.Machine.execWait h s
  | .mfc h rd crn => Sys2Proof.Machine.execMfc h rd crn s
  | .mtc h ra crn => Sys2Proof.Machine.execMtc h ra crn s
  | .svc h imm => Sys2Proof.Machine.execSvc h imm s
  | .brk h imm => Sys2Proof.Machine.execBrk h imm s
  | .stage q => Sys2Proof.Machine.execStage q s
  | .seal q => Sys2Proof.Machine.execSeal q s
  | .unload q => Sys2Proof.Machine.execUnload q s
  | .sachetQuery q => Sys2Proof.Machine.execSachetQuery q s
  | .yieldSvc h => Sys2Proof.Machine.execYieldSvc h s
  | .clock h => Sys2Proof.Machine.execClock h s
  | .inNext h => Sys2Proof.Machine.execInNext h s
  | .nsRead h env => Sys2Proof.Machine.execNsRead h env s
  | .nsWrite h => Sys2Proof.Machine.execNsWrite h s
  | .escNext h => Sys2Proof.Machine.execEscNext h s
  | .outPut h => Sys2Proof.Machine.execOutPut h s
  | .cq h => Sys2Proof.Machine.execCq h s
  | .digest h => Sys2Proof.Machine.execDigest h s
  | .zjob h => Sys2Proof.Machine.execZjob h s
  | .log h => Sys2Proof.Machine.execLog h s
  | .serviceCompletion inv => Sys2Proof.Machine.execServiceCompletion inv s
  | .runmaxExpiry inv => Sys2Proof.Machine.execRunmaxExpiry inv s
  | .maintInv t => Sys2Proof.Machine.execMaintInv t s
  | .maintClean t => Sys2Proof.Machine.execMaintClean t s
  | .maintFlush t => Sys2Proof.Machine.execMaintFlush t s
  | .maintLock t => Sys2Proof.Machine.execMaintLock t s
  | .maintUnlock t => Sys2Proof.Machine.execMaintUnlock t s
  | .maintDone t => Sys2Proof.Machine.execMaintDone t s
  | .fill t => Sys2Proof.Machine.execFill t s
  | .fillDone t => Sys2Proof.Machine.execFillDone t s
  | .scrub t found => Sys2Proof.Machine.execScrub t found s
  | .scrubDone t => Sys2Proof.Machine.execScrubDone t s
  | .hourlyScrub found => Sys2Proof.Machine.execHourlyScrub found s
  | .l2Ways t v => Sys2Proof.Machine.execL2Ways t v s
  | .bankRet t bank => Sys2Proof.Machine.execBankRet t bank s
  | .memoryErrorRetry t entry clean grains => Sys2Proof.Machine.execMemoryErrorRetry t entry clean grains s
  | .keywWrite e_i v => Sys2Proof.Machine.execKeywWrite e_i v s
  | .commitLo slot => Sys2Proof.Machine.execCommitLo slot s
  | .commitHi slot => Sys2Proof.Machine.execCommitHi slot s
  | .keyStoreErase slot => Sys2Proof.Machine.execKeyStoreErase slot s
  | .unwrap slot => Sys2Proof.Machine.execUnwrap slot s
  | .wrap slot => Sys2Proof.Machine.execWrap slot s
  | .keyLoad q => Sys2Proof.Machine.execKeyLoad q s
  | .keyDerive q => Sys2Proof.Machine.execKeyDerive q s
  | .keyErase q => Sys2Proof.Machine.execKeyErase q s
  | .keyQuery q => Sys2Proof.Machine.execKeyQuery q s
  | .nskeyQuery q => Sys2Proof.Machine.execNskeyQuery q s
  | .alarmQuery q => Sys2Proof.Machine.execAlarmQuery q s
  | .cqeQtail t qn v => Sys2Proof.Machine.execCqeQtail t qn v s
  | .encBlocks t parity => Sys2Proof.Machine.execEncBlocks t parity s
  | .decBlocks t parity => Sys2Proof.Machine.execDecBlocks t parity s
  | .decHold t parity => Sys2Proof.Machine.execDecHold t parity s
  | .tagcheck t parity => Sys2Proof.Machine.execTagcheck t parity s
  | .nonce t parity => Sys2Proof.Machine.execNonce t parity s
  | .cqeRequestComplete t => Sys2Proof.Machine.execCqeRequestComplete t s
  | .cqeQctrlEnClear t qn => Sys2Proof.Machine.execCqeQctrlEnClear t qn s
  | .dgStart t owner cmd => Sys2Proof.Machine.execDgStart t owner cmd s
  | .dgFinish t owner cmd => Sys2Proof.Machine.execDgFinish t owner cmd s
  | .dgSqueeze t owner => Sys2Proof.Machine.execDgSqueeze t owner s
  | .dgAbort t owner => Sys2Proof.Machine.execDgAbort t owner s
  | .dgSave t owner => Sys2Proof.Machine.execDgSave t owner s
  | .dgRestore t owner => Sys2Proof.Machine.execDgRestore t owner s
  | .dgFeed t owner => Sys2Proof.Machine.execDgFeed t owner s
  | .dgFeedDone t => Sys2Proof.Machine.execDgFeedDone t s
  | .dgData t owner v => Sys2Proof.Machine.execDgData t owner v s
  | .dgDatab t owner v => Sys2Proof.Machine.execDgDatab t owner v s
  | .alarm sensor => Sys2Proof.Machine.execAlarm sensor s
  | .certGet q => Sys2Proof.Machine.execCertGet q s
  | .ownerChallenge q => Sys2Proof.Machine.execOwnerChallenge q s
  | .ownerProve q => Sys2Proof.Machine.execOwnerProve q s
  | .ownerRelease q => Sys2Proof.Machine.execOwnerRelease q s
  | .ownerEnroll q fuseOk => Sys2Proof.Machine.execOwnerEnroll q fuseOk s
  | .ownerTransfer q fuseOk => Sys2Proof.Machine.execOwnerTransfer q fuseOk s
  | .ownerNonceExpiry c => Sys2Proof.Machine.execOwnerNonceExpiry c s
  | .fwStage q => Sys2Proof.Machine.execFwStage q s
  | .fwCommit q => Sys2Proof.Machine.execFwCommit q s
  | .fwQuery q => Sys2Proof.Machine.execFwQuery q s
  | .fwAdvance q fuseOk => Sys2Proof.Machine.execFwAdvance q fuseOk s
  | .fwStagingTimeout => Sys2Proof.Machine.execFwStagingTimeout s
  | .getVersion q => Sys2Proof.Machine.execGetVersion q s
  | .getCapabilities q => Sys2Proof.Machine.execGetCapabilities q s
  | .negotiateAlgorithms q => Sys2Proof.Machine.execNegotiateAlgorithms q s
  | .getDigests q => Sys2Proof.Machine.execGetDigests q s
  | .getCertificate q => Sys2Proof.Machine.execGetCertificate q s
  | .challenge q => Sys2Proof.Machine.execChallenge q s
  | .getMeasurements q => Sys2Proof.Machine.execGetMeasurements q s
  | .chunkGet q => Sys2Proof.Machine.execChunkGet q s
  | .respondIfReady q => Sys2Proof.Machine.execRespondIfReady q s
  | .spdmUnsupportedRequest q => Sys2Proof.Machine.execSpdmUnsupportedRequest q s
  | .debugNonce q => Sys2Proof.Machine.execDebugNonce q s
  | .debugUnlock q => Sys2Proof.Machine.execDebugUnlock q s
  | .debugNonceExpiry c => Sys2Proof.Machine.execDebugNonceExpiry c s
  | .pdCtrl t v => Sys2Proof.Machine.execPdCtrl t v s
  | .domainOn t d => Sys2Proof.Machine.execDomainOn t d s
  | .pcIdleSwitchOff t => Sys2Proof.Machine.execPcIdleSwitchOff t s
  | .governorPeriod tileMw packageMw belowFor1ms => Sys2Proof.Machine.execGovernorPeriod tileMw packageMw belowFor1ms s
  | .powerFailure => Sys2Proof.Machine.execPowerFailure s
  | .dumpStart t failedMembers => Sys2Proof.Machine.execDumpStart t failedMembers s
  | .park => Sys2Proof.Machine.execPark s
  | .parkRestart => Sys2Proof.Machine.execParkRestart s
  | .logRead q => Sys2Proof.Machine.execLogRead q s
  | .counters q => Sys2Proof.Machine.execCounters q s
  | .fabricLinkReplay a b replayOk => Sys2Proof.Machine.execFabricLinkReplay a b replayOk s
  | .pairQuery q => Sys2Proof.Machine.execPairQuery q s
  | .pairBind q storeOk => Sys2Proof.Machine.execPairBind q storeOk s
  | .pairUnbind q storeOk => Sys2Proof.Machine.execPairUnbind q storeOk s
  | .nsMirror q storeOk => Sys2Proof.Machine.execNsMirror q storeOk s
  | .nsUnmirror q storeOk => Sys2Proof.Machine.execNsUnmirror q storeOk s
  | .takeover q => Sys2Proof.Machine.execTakeover q s
  | .splitResolve q => Sys2Proof.Machine.execSplitResolve q s
  | .nsState q => Sys2Proof.Machine.execNsState q s
  | .laneRestore q storeOk => Sys2Proof.Machine.execLaneRestore q storeOk s
  | .linkUp => Sys2Proof.Machine.execLinkUp s
  | .laneTrainingRetry lane ok eye storeOk => Sys2Proof.Machine.execLaneTrainingRetry lane ok eye storeOk s
  | .whdr fr => Sys2Proof.Machine.execWhdr fr s
  | .data fr => Sys2Proof.Machine.execData fr s
  | .mack fr => Sys2Proof.Machine.execMack fr s
  | .confirm fr => Sys2Proof.Machine.execConfirm fr s
  | .void fr => Sys2Proof.Machine.execVoid fr s
  | .voidack fr => Sys2Proof.Machine.execVoidack fr s
  | .reject fr => Sys2Proof.Machine.execReject fr s
  | .hello fr => Sys2Proof.Machine.execHello fr s
  | .chain fr => Sys2Proof.Machine.execChain fr s
  | .proof fr => Sys2Proof.Machine.execProof fr s
  | .helloRetry => Sys2Proof.Machine.execHelloRetry s
  | .state fr => Sys2Proof.Machine.execState fr s
  | .rate fr => Sys2Proof.Machine.execRate fr s
  | .nak fr => Sys2Proof.Machine.execNak fr s
  | .ping fr => Sys2Proof.Machine.execPing fr s
  | .malformedFrame fault lanes => Sys2Proof.Machine.execMalformedFrame fault lanes s
  | .retransmitTimeout => Sys2Proof.Machine.execRetransmitTimeout s
  | .mackTmo nsid mseq => Sys2Proof.Machine.execMackTmo nsid mseq s
  | .peerTmo => Sys2Proof.Machine.execPeerTmo s
  | .utilisationWindow frameBytes => Sys2Proof.Machine.execUtilisationWindow frameBytes s
  | .lockedTimeout => Sys2Proof.Machine.execLockedTimeout s
  | .pingInterval => Sys2Proof.Machine.execPingInterval s
  | .catchUp nsid env => Sys2Proof.Machine.execCatchUp nsid env s
  | .gpioInputEdge pin level => Sys2Proof.Machine.execGpioInputEdge pin level s
  | .actTimeout => Sys2Proof.Machine.execActTimeout s
  | .idcode => Sys2Proof.Machine.execIdcode s
  | .bypass => Sys2Proof.Machine.execBypass s
  | .samplePreload => Sys2Proof.Machine.execSamplePreload s
  | .extest cells => Sys2Proof.Machine.execExtest cells s
  | .clamp => Sys2Proof.Machine.execClamp s
  | .highz => Sys2Proof.Machine.execHighz s
  | .pfailGlitch lowNs => Sys2Proof.Machine.execPfailGlitch lowNs s
  | .perstNDeassertion => Sys2Proof.Machine.execPerstNDeassertion s
  | .linkTrainingStart => Sys2Proof.Machine.execLinkTrainingStart s
  | .endpointIdReassigned old new => Sys2Proof.Machine.execEndpointIdReassigned old new s
  | .reinTrainingComplete passed eyes => Sys2Proof.Machine.execReinTrainingComplete passed eyes s
  | .receiverRelock => Sys2Proof.Machine.execReceiverRelock s
  | .rateStepRetry locked => Sys2Proof.Machine.execRateStepRetry locked s
  | .bar4SnapshotRefresh => Sys2Proof.Machine.execBar4SnapshotRefresh s
  | .temperatureThresholdCrossed t eighths => Sys2Proof.Machine.execTemperatureThresholdCrossed t eighths s
  | .dgPermutationDone t => Sys2Proof.Machine.execDgPermutationDone t s

end Sys2Proof.Machine
end

