-- ==== Sys2Proof/Machine/Step.lean ====
section
/-! DEFINITION. Machine/Step.lean: one step: the command at the front of the queue, or one microsecond of idling (Assumption 1). -/

namespace Sys2Proof.Machine

open Sys2Proof

/-- The time of an idle block advances by one microsecond, and nothing else happens (Assumption 1). -/
def State.idle (s : State) : State := { s with now := s.now + 1 }

/-- One step: the command at the front of the queue is taken from it and executed; an empty queue idles. -/
def step (s : State) : Host.Outcome State Fault Refusal :=
  match s.pending with
  | [] => .next s.idle
  | c :: cs => exec c { s with pending := cs }

/-- A command put at the front of the queue. -/
def State.offer (s : State) (c : Instr) : State := { s with pending := c :: s.pending }

/-- The state with the command that a word spells at the front of its queue; unchanged where it spells none. -/
def State.withFetchWord (s : State) (nbits w : Nat) : State :=
  match decodeTableWord nbits w with
  | some c => s.offer c
  | none => s

end Sys2Proof.Machine
end

