-- ==== Sys2Proof/Safety.lean ====
section
/-! DEFINITION. Safety.lean: the terms in which the statements speak: when an instruction runs, when a request is acted on, what stays as
it was. -/

namespace Sys2Proof.Machine

open Sys2Proof

/-! ### Fuses (R351, R352) -/

/-- The bounds that the fuse bank keeps: F is one of 0 to 128, and there are four owner entries. -/
def Fuses.bounded (f : Fuses) : Prop := f.rollback ≤ 128 ∧ f.owners.length = 4

/-- One fuse bank follows another: F and the count of alarms never fall, an owner entry is spent one way, the rest is as made. -/
structure Fuses.follows (old new : Fuses) : Prop where
  /-- F never falls (R351). -/
  rollback : old.rollback ≤ new.rollback
  /-- Alarms since first power-up are only counted (Table 15.8). -/
  alarms : old.alarms ≤ new.alarms
  /-- A spent entry stays spent, and a key in use stays until it is spent (R352). -/
  owners : ∀ i : Nat, (old.owners[i]? = some .spent → new.owners[i]? = some .spent) ∧
    ∀ k, old.owners[i]? = some (.inUse k) → new.owners[i]? = some (.inUse k) ∨ new.owners[i]? = some .spent
  /-- Part, stepping, identity and release keys are as made (R11, R347, R349). -/
  made : new = { old with rollback := new.rollback, owners := new.owners, alarms := new.alarms }

/-! ### Cuwif-32 -/

/-- Thread `h` runs an instruction next: it is `x`, it executes, and fetch raises nothing. -/
structure Runs (s : State) (h : ThrId) (x : Thread) : Prop where
  here : s.thr h = some x
  live : s.executes x = true
  fetched : s.fetchExc x = none

/-- The answer of an instruction that leaves its thread as `y` and, beside the issue arbiter, nothing else changed. -/
def State.leaves (s : State) (h : ThrId) (y : Thread) : Out := s.ends ((s.issued h).setThr y)

/-- The answer of an instruction that raises an exception on thread `x` and has no other effect. -/
def State.raises (s : State) (h : ThrId) (x : Thread) (e : Exc) : Out := s.ends ((s.issued h).raiseExc x e)

/-- Thread `h` waits in the runtime with service `n` called, and everything that the service needs is there: the call is `c`. -/
structure Serves (s : State) (h : ThrId) (n : Nat) (c : Call) : Prop where
  here : s.thr h = some c.x
  job : c.x.job = some c.j
  svc : c.j.svc = some n
  live : s.executes c.x = true
  cmd : s.track c.j.key = some c.k
  sachet : s.sachetOf c.j.snum = some c.c
  area : s.areaOf h.tile c.j = some c.a
  ses : c.k.ses = some c.ses
  args : c.w = fun i => c.x.userReg i

/-! ### I/O commands -/

/-- Command `k` is tracked as `t`, with an opcode. -/
structure Tracked (s : State) (k : CmdKey) (opc : Byte) (t : Track) : Prop where
  here : s.track k = some t
  opc : t.sqe.opc = opc

/-! ### LMCS requests (R464, R31) -/

/-- A request that the row of opcode `op` acts on: it waits, it passes the six steps of R464 naming session `x`, and no Abort is
asked. -/
structure Acts (s : State) (q : Req) (op : Nat) (x : Option Session) : Prop where
  op : q.msg.opcode.toNat = op
  waits : s.waiting q = true
  admitted : s.admission q = .ok x
  goes : s.abortAsked q = false

/-! ### Admin commands -/

/-- Admin command `k` of opcode `opc`, with entry `e`, reaches the ready controller `c` on its admin queue. -/
structure AdminAt (s : State) (k : CmdKey) (e : Sqe) (opc : Byte) (c : Controller) : Prop where
  here  : s.host.ctrl k.fn = some c
  ready : c.rdy = true
  queue : k.sq = 0
  runs  : s.host.stopped = false
  opc   : e.opc = opc

/-- The state with the ACT output asserted, as every host command leaves it (R444). -/
def State.acting (s : State) : State := { s with pins := { s.pins with act := true } }

/-! ### Frames of the rein link (R407) -/

/-- The receiver takes a sequenced frame: the link is up, the epoch is the current one, no reserved flag is set, and the frame is the one
expected. -/
structure Takes (s : State) (f : Frame) : Prop where
  link  : s.link = 2 ∨ s.link = 3
  epoch : f.epoch.toNat = s.rd .rein 0x00C
  flags : f.flags.toNat < 8
  seq   : f.seq.toNat = s.rd .rein 0x018

/-- The state in which a frame that the receiver takes has its effect: ACK and HOLD heard, the next frame expected, the frame counted, and,
but for DATA, the change whose DATA have ended judged. -/
def State.taken (s : State) (f : Frame) (isData : Bool) : State :=
  let s1 := (((s.reinHear f).wr .rein 0x018 ((s.rd .rein 0x018 + 1) % 2 ^ 32)).count .rein 0x044 1).onRein fun r => { r with rxFail := none }
  if isData then s1 else s1.endRun

/-! ### Flash channels and engine queues -/

/-- Channel `c` of tile `t` takes a descriptor now: it is `d`, of operation `op`, and no status of Table 6.5 ends it before it is issued. -/
structure Issues (s : State) (t c op : Nat) (d : List Byte) : Prop where
  ready : s.fchReady t c = true
  desc  : s.readMem t ((s.fchRing t c).at (s.fchRing t c).head 32) 32 = d
  op    : leAt d 0 1 = op
  legal : s.flashRefuse t c d = none

/-- The state with the descriptor at QHEAD taken (R147). -/
def State.headTaken (s : State) (t c : Nat) : State := s.wr (.fch t c) 0x024 ((s.fchRing t c).next (s.fchRing t c).head)

/-- An operation in progress on its LUN, made from the descriptor that stood at index `i`, in a state `u` that its issue has left. -/
def State.inProgress (u : State) (t c i : Nat) (j : FlashJob) : State :=
  ((u.onTileAt t fun x => { x with flash := { x.flash with inflight := x.flash.inflight ++ [j] } }).wrField (.fch t c) 0x048 25 16 i).fchStat t c

/-- An engine that may repeat its unit of work: in service, and not running. -/
def State.engineIdle (s : State) (t : Nat) (e : Engine) : Bool :=
  let x := s.tileAt t
  match e with
  | .sft c => (x.sift c).running.isNone && (x.sift c).retired.isNone
  | .idx => x.idx.running.isNone && x.idx.retired.isNone
  | .cqe => x.cqe.running.isNone && x.cqe.retired.isNone
  | .dge => x.dge.retired.isNone
  | .cmp => x.comp.retired.isNone
  | .xts c => (if c.val = 0 then x.xtsA else x.xtsB).retired.isNone

/-- The cipher queue engine of tile `t` takes request `d` of a queue next, and the arbiter then leaves `u`. -/
structure CqeTakes (s : State) (t op q : Nat) (d : List Byte) (u : State) : Prop where
  pick  : s.cqePick t = some (q, d, u)
  op    : at1 d 0 = op
  legal : cqeInvalid d = false
  clean : u.cqePoison t d = false

/-- The index builder of tile `t` takes job `d` of a queue next, and the arbiter then leaves `u`. -/
structure IdxTakes (s : State) (t op q : Nat) (d : List Byte) (u : State) : Prop where
  pick  : s.idxPick t = some (q, d, u)
  op    : at1 d 0 = op
  legal : idxInvalid d = false

/-- The compressor of tile `t` takes job `d` of a queue next, and the arbiter then leaves `u`. -/
structure CmpTakes (s : State) (t op q : Nat) (d : List Byte) (u : State) : Prop where
  up    : (s.hasTile t && !s.cmpUp t) = false
  pick  : s.cmpPick t = some (q, u)
  desc  : u.queueHead t (.cmp t) q 64 = d
  op    : leAt d 0 1 = op
  legal : cmpInvalid d = false

/-- Pipeline `c` of tile `t` takes job `d` next, with its context `x`. -/
structure SiftTakes (s : State) (t c op : Nat) (d : List Byte) (x : SiftCtx) : Prop where
  head  : s.siftHead t c = some d
  op    : at1 d 0 = op
  ctx   : s.siftArea t d = some x
  legal : siftInvalid d = false

/-- The digest engine of tile `t` takes a control write of requester `o`: it is there, on, enabled and in service, and no other requester
owns an open message (R339). -/
structure DgeTakes (s : State) (t o : Nat) : Prop where
  here  : s.hasTile t = true
  on    : s.blockOn (.dge t) = true
  en    : bitN (s.rd (.dge t) 0) 0 = true
  up    : (s.tileAt t).dge.retired = none
  owner : s.dgOpen t = true → s.rdField (.dge t) 0x008 12 8 = o

end Sys2Proof.Machine
end

