-- ==== Sys2Proof/Certificates/Slice0/Obligations.lean ====
section
/-! DEFINITION. Certificates/Slice0/Obligations.lean: the statements about this model. Each docstring names the rules of spec/ that it
speaks of. Every premise is on the state and the operands alone. -/

open Sys2Proof Sys2Proof.Machine

/-- With command `c` at the front of the queue a step is `exec c` on the state whose queue is the rest; with an empty queue the only
change is that one microsecond passes, which is the model's choice (Assumption 1). -/
def Obligations.StepRunsFrontCommand : Prop :=
  (∀ (s : State) (c : Instr) (cs : List Instr), s.pending = c :: cs → step s = exec c { s with pending := cs }) ∧
  (∀ (s : State) (c : Instr), step (s.offer c) = exec c s) ∧
  ∀ s : State, s.pending = [] → step s = .next { s with now := s.now + 1 }

/-- Every command, in every state, answers a next state, never a fault or a refusal, and the commands that wait behind it are the same
after it, in the same order. -/
def Obligations.EveryCommandAnswers : Prop :=
  ∀ (c : Instr) (s : State), ∃ t, exec c s = .next t ∧ t.pending = s.pending

/-- For every state whose fuse bank has F at most 128 and four owner entries, every step, whatever the command, leaves a bank with those
bounds in which F and the alarm count have not fallen, a spent owner entry is still spent, a key in use is still there or its entry is
spent, and part, stepping, identity and release keys are as they were made. -/
def Obligations.FuseBankMovesOneWay : Prop :=
  ∀ s t : State, s.fuses.bounded → step s = .next t → t.fuses.bounded ∧ s.fuses.follows t.fuses

/-- The state after reset meets the invariants of the model: the bounds of the fuse bank, the canonical form of memory (with nothing
listed), an empty queue. -/
def Obligations.ResetMeetsInvariants : Prop :=
  State.reset.fuses.bounded ∧ State.reset.mem.wf = true ∧ State.reset.mem.cells = [] ∧ State.reset.pending = []

/-- The frame of every Cuwif-32 instruction that leaves its thread as `y`: every other thread, all of memory, every register of the block
and all other state stay as they were, but for the issue pointer of the thread's core. -/
def Obligations.ComputingFrame : Prop :=
  ∀ (s : State) (h : ThrId) (x y : Thread), Runs s h x → y.id = h → ∃ t, s.leaves h y = .next t ∧ t.thr h = some y ∧
    (∀ g, g ≠ h → t.thr g = s.thr g) ∧ t.mem = s.mem ∧ t.regs = s.regs ∧
    t = { s with cores := { s.cores with threads := t.cores.threads, issuePtr := t.cores.issuePtr } }

/-- R239: k0 reads zero and a write to it is discarded; a write of k1 to k7 in one mode leaves the other mode's bank alone, and UK1 to
UK7 read and write the user bank; every other register, and everything else of the thread, is unchanged by a write. What user mode reads does
not depend on the steward bank, and an exception entered leaves the user bank as it is. -/
def Obligations.RegisterFile : Prop :=
  ∀ (x : Thread) (rd r : Reg) (v : Word), x.win.length = 24 → x.ku.length = 7 → x.ks.length = 7 →
    x.get 0 = 0 ∧ x.put 0 v = x ∧
    (rd ≠ 0 → (x.put rd v).get rd = v) ∧
    (r ≠ rd → (x.put rd v).get r = x.get r) ∧
    (x.steward = true → (x.put rd v).ku = x.ku) ∧ (x.steward = false → (x.put rd v).ks = x.ks) ∧
    (∀ i : Fin 7, x.crGet (0x60 + i.val) = x.ku.getD i.val 0 ∧
      (x.crPut (0x60 + i.val) v).ku = setAt x.ku i.val v ∧ (x.crPut (0x60 + i.val) v).ks = x.ks) ∧
    x.put rd v = { x with win := (x.put rd v).win, ku := (x.put rd v).ku, ks := (x.put rd v).ks } ∧
    (x.steward = false → ∀ ks, ({ x with ks := ks } : Thread).get r = x.get r) ∧
    ∀ (s : State) (e : Exc) (y : Thread) (u : State), s.entry x e = .ok (y, u) → y.steward = true ∧ y.ku = x.ku

/-- ADD, SUB, AND, OR, XOR, NOR, SLL, SRL, SRA, SLT, SLTU, MUL, MULH and MULHU give RD the result of Table 12.2 from the values that RA
and RB hold before, advance the pc by 4 and change nothing else; shift counts are b[4:0].
ADDI, SLTI and SLTIU extend the immediate with its sign, ANDI, ORI and XORI with zeros; the shifts take a count of 0 to 31; LUI gives
IMM21 << 11 and ADRP the pc plus the sign-extended IMM21 times 4. RD takes the result, the pc advances by 4, nothing else changes. -/
def Obligations.OperationResults : Prop :=
  (
  ∀ (s : State) (h : ThrId) (x : Thread) (rd ra rb : Reg), Runs s h x →
    let a := x.get ra
    let b := x.get rb
    let out (v : Word) : Out := s.leaves h { x.put rd v with pc := (x.put rd v).pc + 4 }
    exec (.add h rd ra rb) s = out (a + b) ∧
    exec (.sub h rd ra rb) s = out (a - b) ∧
    exec (.andR h rd ra rb) s = out (a &&& b) ∧
    exec (.orR h rd ra rb) s = out (a ||| b) ∧
    exec (.xor h rd ra rb) s = out (a ^^^ b) ∧
    exec (.nor h rd ra rb) s = out (~~~(a ||| b)) ∧
    exec (.sll h rd ra rb) s = out (BitVec.ofNat 32 (a.toNat * 2 ^ (b.toNat % 32))) ∧
    exec (.srl h rd ra rb) s = out (BitVec.ofNat 32 (a.toNat / 2 ^ (b.toNat % 32))) ∧
    exec (.sra h rd ra rb) s = out (BitVec.ofInt 32 (a.toInt / 2 ^ (b.toNat % 32))) ∧
    exec (.slt h rd ra rb) s = out (if a.toInt < b.toInt then 1 else 0) ∧
    exec (.sltu h rd ra rb) s = out (if a.toNat < b.toNat then 1 else 0) ∧
    exec (.mul h rd ra rb) s = out (BitVec.ofNat 32 (a.toNat * b.toNat)) ∧
    exec (.mulh h rd ra rb) s = out (BitVec.ofInt 32 (a.toInt * b.toInt / 2 ^ 32)) ∧
    exec (.mulhu h rd ra rb) s = out (BitVec.ofNat 32 (a.toNat * b.toNat / 2 ^ 32))
  ) ∧
  (
  ∀ (s : State) (h : ThrId) (x : Thread) (rd ra : Reg) (imm : BitVec 16) (sh : BitVec 5) (up : BitVec 21), Runs s h x →
    let a := x.get ra
    let out (v : Word) : Out := s.leaves h { x.put rd v with pc := (x.put rd v).pc + 4 }
    exec (.addi h rd ra imm) s = out (BitVec.ofInt 32 (a.toInt + imm.toInt)) ∧
    exec (.slti h rd ra imm) s = out (if a.toInt < imm.toInt then 1 else 0) ∧
    exec (.sltiu h rd ra imm) s = out (if a.toNat < (BitVec.ofInt 32 imm.toInt).toNat then 1 else 0) ∧
    exec (.andi h rd ra imm) s = out (BitVec.ofNat 32 (a.toNat &&& imm.toNat)) ∧
    exec (.ori h rd ra imm) s = out (BitVec.ofNat 32 (a.toNat ||| imm.toNat)) ∧
    exec (.xori h rd ra imm) s = out (BitVec.ofNat 32 (a.toNat ^^^ imm.toNat)) ∧
    exec (.slli h rd ra sh) s = out (BitVec.ofNat 32 (a.toNat * 2 ^ sh.toNat)) ∧
    exec (.srli h rd ra sh) s = out (BitVec.ofNat 32 (a.toNat / 2 ^ sh.toNat)) ∧
    exec (.srai h rd ra sh) s = out (BitVec.ofInt 32 (a.toInt / 2 ^ sh.toNat)) ∧
    exec (.lui h rd up) s = out (BitVec.ofNat 32 (up.toNat * 2 ^ 11)) ∧
    exec (.adrp h rd up) s = out (BitVec.ofInt 32 (x.pc.toNat + up.toInt * 4))
  )

/-- DIV and REM, and DIVU and REMU, complete with a quotient and a remainder: a divisor of zero gives all ones and the dividend;
0x8000_0000 by 0xFFFF_FFFF gives 0x8000_0000 and 0; in every other case a = quotient × b + remainder with a remainder smaller in
magnitude than b and, signed, of a's sign. -/
def Obligations.DivisionRule : Prop :=
  ∀ (s : State) (h : ThrId) (x : Thread) (rd ra rb : Reg), Runs s h x →
    let a := x.get ra
    let b := x.get rb
    let out (v : Word) : Out := s.leaves h { x.put rd v with pc := (x.put rd v).pc + 4 }
    ∃ q r u m : Word,
      exec (.div h rd ra rb) s = out q ∧ exec (.rem h rd ra rb) s = out r ∧
      exec (.divu h rd ra rb) s = out u ∧ exec (.remu h rd ra rb) s = out m ∧
      (b = 0 → q = 0xFFFFFFFF ∧ r = a ∧ u = 0xFFFFFFFF ∧ m = a) ∧
      (a = 0x80000000 → b = 0xFFFFFFFF → q = 0x80000000 ∧ r = 0) ∧
      (b ≠ 0 → ¬ (a = 0x80000000 ∧ b = 0xFFFFFFFF) →
        a.toInt = q.toInt * b.toInt + r.toInt ∧ r.toInt.natAbs < b.toInt.natAbs ∧ (r.toInt = 0 ∨ (r.toInt < 0 ↔ a.toInt < 0))) ∧
      (b ≠ 0 → a.toNat = u.toNat * b.toNat + m.toNat ∧ m.toNat < b.toNat)

/-- ADDS, SUBS, ADDUS, SUBUS and ACCRD give the exact value held to the signed or unsigned 32-bit range, set SAT when the exact value lies
outside it and leave SAT alone otherwise; FTOI sets SAT when its answer was clamped or its source is a NaN.
FTOI of the infinities, a NaN and the zeros gives the values of R265, with SAT for all but the zeros, at every scale; a binary32 one
gives the power of two that the scale names. ITOF gives RD the nearest binary32, +0 for zero, and leaves SAT alone. -/
def Obligations.SaturatingAndFloatResults : Prop :=
  (
  ∀ (s : State) (h : ThrId) (x : Thread) (rd ra rb : Reg), Runs s h x →
    let a := x.get ra
    let b := x.get rb
    let out (v : Word) (sat : Bool) : Out := s.leaves h { x.put rd v with pc := (x.put rd v).pc + 4, sat := x.sat || sat }
    let signed (i : Int) : Out :=
      if 2147483647 < i then out 0x7FFFFFFF true else if i < -2147483648 then out 0x80000000 true else out (BitVec.ofInt 32 i) false
    let unsigned (i : Int) : Out :=
      if 4294967295 < i then out 0xFFFFFFFF true else if i < 0 then out 0 true else out (BitVec.ofInt 32 i) false
    exec (.adds h rd ra rb) s = signed (a.toInt + b.toInt) ∧
    exec (.subs h rd ra rb) s = signed (a.toInt - b.toInt) ∧
    exec (.addus h rd ra rb) s = unsigned ((a.toNat : Int) + b.toNat) ∧
    exec (.subus h rd ra rb) s = unsigned ((a.toNat : Int) - b.toNat) ∧
    exec (.accrd h rd ra) s = signed (x.acc.toInt / 2 ^ (a.toNat % 64)) ∧
    exec (.ftoi h rd ra rb) s = out (ftoi a (b.toNat % 32)).1 (ftoi a (b.toNat % 32)).2
  ) ∧
  (
  (∀ k : Fin 32, ftoi 0x7F800000 k.val = (0x7FFFFFFF, true) ∧ ftoi 0xFF800000 k.val = (0x80000000, true) ∧
    ftoi 0x7FC00000 k.val = (0, true) ∧ ftoi 0 k.val = (0, false) ∧ ftoi 0x80000000 k.val = (0, false) ∧ itof 0 k.val = 0 ∧
    (k.val < 31 → ftoi 0x3F800000 k.val = (BitVec.ofNat 32 (2 ^ k.val), false))) ∧
  ∀ (s : State) (h : ThrId) (x : Thread) (rd ra rb : Reg), Runs s h x →
    let v := itof (x.get ra) ((x.get rb).toNat % 32)
    exec (.itof h rd ra rb) s = s.leaves h { x.put rd v with pc := (x.put rd v).pc + 4 }
  )

/-- MULA and MULAU load the accumulator with the 64-bit product and leave AOV alone; MAC, MACU, MSU and MSUU add or subtract the
product modulo 2^64 and set AOV when the sum of accumulator and product, both read as signed 64-bit values, leaves the signed range.
No general register changes.
CLZ counts leading zero bits, 32 for zero; SHUF builds each byte from its selector, from a, from the old d or zero; CRCB steps the
reflected register by 8 and CRCW by 32, and one CRCW is four CRCBs on the bytes of b from byte 0 upward. -/
def Obligations.AccumulatorShuffleAndCrc : Prop :=
  (
  ∀ (s : State) (h : ThrId) (x : Thread) (ra rb : Reg), Runs s h x →
    let sp : BitVec 64 := (x.get ra).signExtend 64 * (x.get rb).signExtend 64
    let up : BitVec 64 := (x.get ra).setWidth 64 * (x.get rb).setWidth 64
    let outside (i : Int) : Bool := decide (i < -(2 ^ 63) ∨ 2 ^ 63 ≤ i)
    let out (acc : BitVec 64) (aov : Bool) : Out := s.leaves h { x with acc := acc, aov := x.aov || aov, pc := x.pc + 4 }
    exec (.mula h ra rb) s = out sp false ∧
    exec (.mulau h ra rb) s = out up false ∧
    exec (.mac h ra rb) s = out (x.acc + sp) (outside (x.acc.toInt + sp.toInt)) ∧
    exec (.macu h ra rb) s = out (x.acc + up) (outside (x.acc.toInt + up.toInt)) ∧
    exec (.msu h ra rb) s = out (x.acc - sp) (outside (x.acc.toInt - sp.toInt)) ∧
    exec (.msuu h ra rb) s = out (x.acc - up) (outside (x.acc.toInt - up.toInt))
  ) ∧
  (
  (∀ (s : State) (h : ThrId) (x : Thread) (rd ra rb : Reg), Runs s h x →
    let a := x.get ra
    let b := x.get rb
    let d := x.get rd
    let out (v : Word) : Out := s.leaves h { x.put rd v with pc := (x.put rd v).pc + 4 }
    (∃ v : Word, exec (.clz h rd ra) s = out v ∧ (a = 0 → v = 32) ∧
      (a ≠ 0 → v.toNat ≤ 31 ∧ 2 ^ (31 - v.toNat) ≤ a.toNat ∧ a.toNat < 2 ^ (32 - v.toNat))) ∧
    (∃ v : Word, exec (.shuf h rd ra rb) s = out v ∧ ∀ i : Fin 4,
      let sel := b.toNat / 16 ^ i.val % 16
      v.toNat / 256 ^ i.val % 256 = if sel < 4 then a.toNat / 256 ^ sel % 256 else if sel < 8 then d.toNat / 256 ^ (sel - 4) % 256 else 0) ∧
    exec (.crcb h rd ra rb) s = out (crcSteps 8 (a ^^^ (b &&& 0xFF))) ∧
    exec (.crcw h rd ra rb) s = out (crcSteps 32 (a ^^^ b))) ∧
  (∀ c : Word, crcSteps 1 c = (c >>> 1) ^^^ (if c &&& 1 = 1 then 0x82F63B78 else 0)) ∧
  (∀ (m n : Nat) (c : Word), crcSteps (m + n) c = crcSteps n (crcSteps m c)) ∧
  ∀ a b : Word, crcSteps 32 (a ^^^ b) =
    crcSteps 8 (crcSteps 8 (crcSteps 8 (crcSteps 8 (a ^^^ (b &&& 0xFF)) ^^^ ((b >>> 8) &&& 0xFF)) ^^^ ((b >>> 16) &&& 0xFF)) ^^^ (b >>> 24))
  )

/-- A user-mode access to 0x2000_0000 to 0x5FFF_FFFF raises PRIV_ADDR; otherwise an address that is no multiple of the size raises
LOAD_ALIGN, or STORE_ALIGN for a store or an atomic operation; otherwise a user-mode access with no valid region that covers it with
the permission it needs raises LOAD_REGION or STORE_REGION; all carry the address. Any other access raises nothing, and steward mode
is checked for alignment only. A region with both W and X grants nothing. -/
def Obligations.DataAccessChecks : Prop :=
  ∀ (x : Thread) (acc : Acc) (a n gn : Nat), n = 1 ∨ n = 2 ∨ n = 4 →
    let private_ : Bool := decide (0x20000000 ≤ a ∧ a < 0x60000000)
    let covers (r : Rgn) : Bool :=
      r.lim.getLsbD 0 && !(r.lim.getLsbD 2 && r.lim.getLsbD 3) && decide (r.base.toNat / 64 * 64 ≤ r.lim.toNat / 64 * 64) &&
      decide (r.base.toNat / 64 * 64 ≤ a ∧ a < r.lim.toNat / 64 * 64 + 64) &&
      (match acc with
        | .load => r.lim.getLsbD 1
        | .store => r.lim.getLsbD 2
        | .atomic => r.lim.getLsbD 1 && r.lim.getLsbD 2)
    let load : Bool := decide (acc = .load)
    (x.dataExc acc a n gn).map (fun e => (e.code, e.addr, e.store)) =
      if !x.steward && private_ then some (0x26, some a, !load)
      else if a % n ≠ 0 then some (if load then 0x22 else 0x23, some a, !load)
      else if !x.steward && !(x.rgns.any covers) then some (if load then 0x24 else 0x25, some a, !load)
      else none

/-- LB, LBU, LH, LHU and LW at EA = a + sext(imm): when the access raises nothing and memory answers the bytes `bs`, RD takes them,
little-endian, extended with the sign or with zeros, the pc advances by 4, and nothing else changes but what the read itself counts.
An access that is refused raises that exception, and one that meets an uncorrectable word raises MEM_UNCOR, with the thread as it was.
SB, SH and SW at EA = a + sext(imm) write the low 1, 2 or 4 bytes of the register, little-endian, and advance the pc by 4, with no
general register changed; an access that is refused raises its exception and writes nothing.
AMOSWAP, AMOADD, AMOAND, AMOOR and CAS at EA = a: when the access raises nothing and the word reads `old`, memory takes the word of
Table 12.5, RD the old word, and the pc advances by 4; a refused or uncorrectable access raises its exception with CAUSE.STORE and
writes nothing. -/
def Obligations.MemoryInstructions : Prop :=
  (
  ∀ (s : State) (h : ThrId) (x : Thread) (rd ra : Reg) (imm : BitVec 16) (ecc : Ecc), Runs s h x →
    let a := (x.get ra + imm.signExtend 32).toNat
    let signed (n v : Nat) : Word := BitVec.ofInt 32 (if v < 2 ^ (8 * n - 1) then (v : Int) else (v : Int) - 2 ^ (8 * n))
    let forms : List (Instr × Nat × (Nat → Word)) :=
      [(.lb h rd ra imm ecc, 1, signed 1), (.lbu h rd ra imm ecc, 1, BitVec.ofNat 32), (.lh h rd ra imm ecc, 2, signed 2),
       (.lhu h rd ra imm ecc, 2, BitVec.ofNat 32), (.lw h rd ra imm ecc, 4, BitVec.ofNat 32)]
    ∀ f ∈ forms,
      (∀ bs s1, x.dataExc .load a f.2.1 0 = none → (s.issued h).thrRead x a f.2.1 ecc = (some bs, s1) →
        exec f.1 s = s.ends (s1.setThr { x.put rd (f.2.2 (leNat bs)) with pc := (x.put rd (f.2.2 (leNat bs))).pc + 4 })) ∧
      (∀ e, x.dataExc .load a f.2.1 0 = some e → exec f.1 s = s.raises h x e) ∧
      (∀ s1, x.dataExc .load a f.2.1 0 = none → (s.issued h).thrRead x a f.2.1 ecc = (none, s1) →
        ∃ e : Exc, e.code = 0x27 ∧ e.addr = some a ∧ exec f.1 s = s.ends (s1.raiseExc x e))
  ) ∧
  (
  ∀ (s : State) (h : ThrId) (x : Thread) (rs ra : Reg) (imm : BitVec 16), Runs s h x →
    let a := (x.get ra + imm.signExtend 32).toNat
    let v := (x.get rs).toNat
    let byte (i : Nat) : Byte := BitVec.ofNat 8 (v / 256 ^ i)
    let forms : List (Instr × Nat × List Byte) :=
      [(.sb h rs ra imm, 1, [byte 0]), (.sh h rs ra imm, 2, [byte 0, byte 1]), (.sw h rs ra imm, 4, [byte 0, byte 1, byte 2, byte 3])]
    ∀ f ∈ forms,
      (x.dataExc .store a f.2.1 0 = none →
        exec f.1 s = s.ends (((s.issued h).thrWrite x a f.2.2).setThr { x with pc := x.pc + 4 })) ∧
      (∀ e, x.dataExc .store a f.2.1 0 = some e → exec f.1 s = s.raises h x e)
  ) ∧
  (
  ∀ (s : State) (h : ThrId) (x : Thread) (rd ra rb : Reg) (ecc : Ecc), Runs s h x →
    let a := (x.get ra).toNat
    let b := x.get rb
    let d := x.get rd
    let forms : List (Instr × (Word → Word)) :=
      [(.amoswap h rd ra rb ecc, fun _ => b), (.amoadd h rd ra rb ecc, fun old => old + b), (.amoand h rd ra rb ecc, fun old => old &&& b),
       (.amoor h rd ra rb ecc, fun old => old ||| b), (.cas h rd ra rb ecc, fun old => if old = d then b else old)]
    ∀ f ∈ forms,
      (∀ bs s1, x.dataExc .atomic a 4 0 = none → (s.issued h).thrRead x a 4 ecc = (some bs, s1) →
        let old := BitVec.ofNat 32 (leNat bs)
        exec f.1 s = s.ends ((s1.thrWrite x a (leBytes 4 (f.2 old).toNat)).setThr { x.put rd old with pc := (x.put rd old).pc + 4 })) ∧
      (∀ e, x.dataExc .atomic a 4 0 = some e → e.store = true ∧ exec f.1 s = s.raises h x e) ∧
      (∀ s1, x.dataExc .atomic a 4 0 = none → (s.issued h).thrRead x a 4 ecc = (none, s1) →
        ∃ e : Exc, e.code = 0x27 ∧ e.store = true ∧ exec f.1 s = s.ends (s1.raiseExc x e))
  )

/-- Where an address decodes to bulk SRAM or scratch of the thread's own tile, outside every open hold and in no poisoned word: an
error-free read of n bytes answers the n bytes from there and changes nothing; a write of at most 4 bytes makes each of those bytes
read as written, leaves every other byte of memory as it was, and changes nothing else of the state but the memory's bytes. -/
def Obligations.OwnMemoryAccess : Prop :=
  ∀ (s : State) (x : Thread) (a k n : Nat) (bs : List Byte), s.place x.id.tile.val a = .sram k true → s.poisoned k = false →
    s.heldRange k n = false → bs.length = n → 0 < n → n ≤ 4 →
    (∃ b : List Byte, s.thrRead x a n .clean = (some b, s) ∧ b.length = n ∧ ∀ i, i < n → b[i]? = some (s.mem.readCell (k + i))) ∧
    let t := s.thrWrite x a bs
    (∀ i, i < n → bs[i]? = some (t.mem.readCell (k + i))) ∧
    (∀ j, j < k ∨ k + n ≤ j → t.mem.readCell j = s.mem.readCell j) ∧
    t = { s with mem := { s.mem with cells := t.mem.cells } }

/-- The model's memory: writing a byte keeps the cell list strictly rising and free of blank entries, the byte then reads as written, and
every other byte reads as before; so equal memories are equal data. What an unlisted byte reads as is the model's choice
(Assumption 2). -/
def Obligations.MemoryCanonicalForm : Prop :=
  ∀ (m : Memory) (k : Nat) (v : Byte) (bs : List Byte), m.wf = true →
    (m.writeCell k v).wf = true ∧ (m.writeCell k v).readCell k = v ∧
    (∀ j, j ≠ k → (m.writeCell k v).readCell j = m.readCell j) ∧
    (m.writeCells k bs).wf = true ∧
    ∀ m' : Memory, m'.wf = true → (∀ j, m'.readCell j = m.readCell j) → m'.cells = m.cells

/-- R244. For each MODE: which configurations are valid, EA modulo 2^32, and the new OFF; rev_m reverses the low m bits; MODE 3 is never
valid. LD.G and ST.G: SX with a word load or with any store raises ILLEGAL; then a configuration that is not valid raises GEN_CFG naming the
generator; then the access may be refused; otherwise it happens at EA, RD takes the extended value or memory the low bytes, and only then
OFF takes its new value. No raising form changes the generator. -/
def Obligations.GeneratorRule : Prop :=
  (
  (∀ (m x i : Nat), revBits m x < 2 ^ m ∧ (i < m → (revBits m x).testBit i = x.testBit (m - 1 - i))) ∧
  ∀ (g : Gen) (w : Nat), w = 1 ∨ w = 2 ∨ w = 4 →
    let len := g.len.toNat
    let off := g.off.toNat
    let t : Int := (off : Int) + g.step.toInt
    (g.mode = 0 → g.valid = true ∧ g.ea w = (g.base.toNat + off) % 2 ^ 32 ∧
      g.advance = { g with off := BitVec.ofInt 32 t }) ∧
    (g.mode = 1 → (g.valid = true ↔ 1 ≤ len ∧ len ≤ 2 ^ 24 ∧ off < len ∧ g.step.toInt.natAbs ≤ len) ∧
      (g.valid = true → g.ea w = (g.base.toNat + off) % 2 ^ 32 ∧
        (g.advance.off.toNat : Int) = (if (len : Int) ≤ t then t - len else if t < 0 then t + len else t) ∧
        g.advance = { g with off := g.advance.off })) ∧
    (g.mode = 2 → (g.valid = true ↔ 2 ≤ len ∧ len ≤ 65536 ∧ off < len ∧ ∃ m, len = 2 ^ m) ∧
      ∀ m, len = 2 ^ m → g.valid = true → g.ea w = (g.base.toNat + w * revBits m off) % 2 ^ 32 ∧
        g.advance = { g with off := BitVec.ofNat 32 ((off + g.step.toNat) % len) }) ∧
    (g.mode = 3 → g.valid = false)
  ) ∧ (
  ∀ (s : State) (h : ThrId) (x : Thread) (r : Reg) (g : Fin 4) (sz : AccSize) (sx : Bool) (ecc : Ecc), Runs s h x → x.gens.length = 4 →
    let n := accBytes sz
    let a := (x.gen g).ea n
    let y : Thread := { x with gens := setAt x.gens g.val (x.gen g).advance }
    let signed (v : Nat) : Word := BitVec.ofInt 32 (if v < 2 ^ (8 * n - 1) then (v : Int) else (v : Int) - 2 ^ (8 * n))
    let value (v : Nat) : Word := if sx then signed v else BitVec.ofNat 32 v
    (∃ e : Exc, e.code = 0x10 ∧ e.addr = none ∧ (sx = true → sz = .w → exec (.ldG h r g sz sx ecc) s = s.raises h x e) ∧
      (sx = true → exec (.stG h r g sz sx) s = s.raises h x e)) ∧
    ((x.gen g).valid = false → (∃ e : Exc, e.code = 0x40 ∧ e.gn = g.val ∧
        (¬ (sx = true ∧ sz = .w) → exec (.ldG h r g sz sx ecc) s = s.raises h x e)) ∧
      ∃ e : Exc, e.code = 0x40 ∧ e.gn = g.val ∧ (sx = false → exec (.stG h r g sz sx) s = s.raises h x e)) ∧
    ((x.gen g).valid = true → ¬ (sx = true ∧ sz = .w) →
      (∀ bs s1, x.dataExc .load a n g.val = none → (s.issued h).thrRead x a n ecc = (some bs, s1) →
        exec (.ldG h r g sz sx ecc) s = s.ends (s1.setThr { y.put r (value (leNat bs)) with pc := (y.put r (value (leNat bs))).pc + 4 })) ∧
      (∀ s1, x.dataExc .load a n g.val = none → (s.issued h).thrRead x a n ecc = (none, s1) →
        ∃ e : Exc, e.code = 0x27 ∧ exec (.ldG h r g sz sx ecc) s = s.ends (s1.raiseExc x e)) ∧
      (∀ e, x.dataExc .load a n g.val = some e → exec (.ldG h r g sz sx ecc) s = s.raises h x e)) ∧
    ((x.gen g).valid = true → sx = false →
      (x.dataExc .store a n g.val = none →
        exec (.stG h r g sz sx) s = s.ends (((s.issued h).thrWrite x a (leBytes n (x.get r).toNat)).setThr { y with pc := y.pc + 4 })) ∧
      (∀ e, x.dataExc .store a n g.val = some e → exec (.stG h r g sz sx) s = s.raises h x e))
  )

/-- BEQ, BNE, BLT, BGE, BLTU and BGEU continue at pc + sext(OFF16) × 4 when the condition holds and at pc + 4 otherwise; J continues at
pc + sext(OFF26) × 4 and JR at the register's value, or they raise FETCH_ALIGN with BADADDR the target and EPC the jump itself.
CALL4 to CALL16 and CALLR4 to CALLR16: a misaligned target raises FETCH_ALIGN and nothing else; WDEPTH 65,535 raises WIN_OVER; when
the registers fit, or once the spills have made room, the window slides up by n over registers that read zero, the increment holds the
caller's first n registers with the return address pc + 4, WDEPTH rises by 1 and the pc is the target. RET at WDEPTH 0 raises RETURN;
over a resident increment it brings the registers back, lowers WDEPTH and continues at the return address. -/
def Obligations.JumpsCallsAndReturns : Prop :=
  (
  ∀ (s : State) (h : ThrId) (x : Thread) (ra rb : Reg) (off : BitVec 16) (far : BitVec 26), Runs s h x →
    let a := x.get ra
    let b := x.get rb
    let out (taken : Bool) : Out :=
      s.leaves h { x with pc := if taken then BitVec.ofInt 32 (x.pc.toNat + off.toInt * 4) else x.pc + 4 }
    let jump (i : Instr) (target : Word) : Prop :=
      (target.toNat % 4 = 0 → exec i s = s.leaves h { x with pc := target }) ∧
      (target.toNat % 4 ≠ 0 → ∃ e : Exc, e.code = 0x20 ∧ e.addr = some target.toNat ∧ e.next = false ∧ exec i s = s.raises h x e)
    exec (.beq h ra rb off) s = out (decide (a = b)) ∧
    exec (.bne h ra rb off) s = out (decide (a ≠ b)) ∧
    exec (.blt h ra rb off) s = out (decide (a.toInt < b.toInt)) ∧
    exec (.bge h ra rb off) s = out (decide (b.toInt ≤ a.toInt)) ∧
    exec (.bltu h ra rb off) s = out (decide (a.toNat < b.toNat)) ∧
    exec (.bgeu h ra rb off) s = out (decide (b.toNat ≤ a.toNat)) ∧
    jump (.j h far) (BitVec.ofInt 32 (x.pc.toNat + far.toInt * 4)) ∧
    jump (.jr h ra) a
  ) ∧
  (
  ∀ (s : State) (h : ThrId) (x : Thread) (ra : Reg) (off : BitVec 26), Runs s h x →
    let rel : Word := x.pc + off.signExtend 32 * 4
    let forms : List (Instr × Nat × Word) :=
      [(.call4 h off, 4, rel), (.call8 h off, 8, rel), (.call12 h off, 12, rel), (.call16 h off, 16, rel),
       (.callr4 h ra, 4, x.get ra), (.callr8 h ra, 8, x.get ra), (.callr12 h ra, 12, x.get ra), (.callr16 h ra, 16, x.get ra)]
    (∀ f ∈ forms,
      let open_ (y : Thread) : Thread := { y with
        win := y.win.drop f.2.1 ++ List.replicate f.2.1 0
        incs := ⟨y.win.take f.2.1, x.pc + 4, !x.steward⟩ :: y.incs
        wdepth := x.wdepth + 1
        pc := f.2.2 }
      (f.2.2.toNat % 4 ≠ 0 → ∃ e : Exc, e.code = 0x20 ∧ e.addr = some f.2.2.toNat ∧ exec f.1 s = s.raises h x e) ∧
      (f.2.2.toNat % 4 = 0 → x.wdepth = 65535 → ∃ e : Exc, e.code = 0x30 ∧ exec f.1 s = s.raises h x e) ∧
      (f.2.2.toNat % 4 = 0 → x.wdepth ≠ 65535 →
        (24 + x.resident + f.2.1 ≤ 256 → exec f.1 s = s.leaves h (open_ x)) ∧
        (∀ y s1, (s.issued h).makeRoom x f.2.1 16 = .ok (y, s1) → exec f.1 s = s.ends (s1.setThr (open_ y))) ∧
        ∀ e, (s.issued h).makeRoom x f.2.1 16 = .error e → exec f.1 s = s.raises h x e)) ∧
    (x.wdepth = 0 → ∃ e : Exc, e.code = 0x01 ∧ e.next = false ∧ exec (.ret h) s = s.raises h x e) ∧
    ∀ i rest, x.wdepth ≠ 0 → x.incs = i :: rest → i.user ≠ x.steward → i.ret.toNat % 4 = 0 →
      exec (.ret h) s = s.leaves h { x with
        incs := rest, win := (i.regs ++ x.win).take 24, wdepth := x.wdepth - 1, pc := i.ret }
  )

/-- From any running thread with 24 window registers whose call fits without a spill: after CALLn the callee's w_i is the caller's w_(i+n)
and its last n registers read zero; a RET as the callee's first instruction leaves the thread exactly as it was but at pc + 4. -/
def Obligations.ReturnUndoesCall : Prop :=
  ∀ (s : State) (h : ThrId) (x : Thread) (off : BitVec 26) (n : Nat) (c : Instr), Runs s h x → x.id = h → x.win.length = 24 →
    (c, n) ∈ ([(.call4 h off, 4), (.call8 h off, 8), (.call12 h off, 12), (.call16 h off, 16)] : List (Instr × Nat)) →
    (x.pc + off.signExtend 32 * 4).toNat % 4 = 0 → x.pc.toNat % 4 = 0 → x.wdepth < 65535 → 24 + x.resident + n ≤ 256 →
    ∃ (t : State) (y : Thread), exec c s = .next t ∧ t.thr h = some y ∧
      (∀ i, i + n < 24 → y.win[i]? = x.win[i + n]?) ∧ (∀ i, 24 ≤ i + n → i < 24 → y.win[i]? = some 0) ∧
      (Runs t h y → ∃ u, exec (.ret h) t = .next u ∧ u.thr h = some { x with pc := x.pc + 4 } ∧ u.mem = s.mem)

/-- For a thread whose spill stack lies in its own tile's plain memory (no poison, no hold, and for a user increment within a region with
R and W): spilling its only resident increment raises SPILLPTR by 4 × (n + 2), and filling from there gives the same increment back
with SPILLPTR where it was. A spill beyond the limit is refused with SPILL_OVF, a fill below the base with FILL_UNDER, each at SPILLPTR. -/
def Obligations.FillUndoesSpill : Prop :=
  ∀ (s : State) (x : Thread) (i : Incr) (n k : Nat), (n = 4 ∨ n = 8 ∨ n = 12 ∨ n = 16) → x.incs = [i] → i.regs.length = n → i.ret.toNat % 4 = 0 →
    let p := (x.stack i.user).2.1
    ((x.stack i.user).2.2 < p + 4 * (n + 2) → ∃ e : Exc, e.code = 0x31 ∧ e.addr = some p ∧ s.spillOne x = .error e) ∧
    (p < (x.stack i.user).1 + 24 → ∃ e : Exc, e.code = 0x32 ∧ e.addr = some p ∧ s.fill { x with incs := [] } i.user false = .error (e, s)) ∧
    ((x.stack i.user).1 ≤ p → p + 4 * (n + 2) ≤ (x.stack i.user).2.2 → p + 4 * (n + 2) < 2 ^ 32 →
      (∀ j, j < 4 * (n + 2) → s.place x.id.tile.val (p + j) = .sram (k + j) true ∧ s.poisoned (k + j) = false ∧
        ∀ m, m ≤ 4 → s.heldRange (k + j) m = false) →
      (∀ j, j < n + 2 → x.spillOk i.user 1 (p + 4 * j) = true ∧ x.spillOk i.user 2 (p + 4 * j) = true) →
      ∃ (y : Thread) (t : State), s.spillOne x = .ok (y, t) ∧ (y.stack i.user).2.1 = p + 4 * (n + 2) ∧ y.incs = [] ∧
        ∃ z, t.fill y i.user false = .ok (i, z, t) ∧ (z.stack i.user).2.1 = p)

/-- FENCE advances in either mode. FENCE.I advances, WAIT advances and waits unless an interrupt is pending, and WFLUSH advances with every
user increment spilled, in steward mode; in user mode each of these three raises PRIV_INSN.
On a user-mode thread that serves no command and whose entry succeeds: SVC and BREAK complete and enter with their cause and the next
instruction as EPC, an undefined encoding enters with ILLEGAL at itself. In steward mode SVC, BREAK and an undefined encoding stop the
thread instead. ERET in steward mode takes the thread that the return gives, with a pending interrupt taken first, and stops the
thread when the return fails. -/
def Obligations.SystemTrapsAndErets : Prop :=
  (
  ∀ (s : State) (h : ThrId) (x : Thread), Runs s h x →
    exec (.fence h) s = s.leaves h { x with pc := x.pc + 4 } ∧
    (x.steward = true →
      exec (.fenceI h) s = s.leaves h { x with pc := x.pc + 4 } ∧
      exec (.wait h) s = s.leaves h { x with pc := x.pc + 4, waiting := !(x.irqQuantum || x.irqSignal) } ∧
      (∀ y s1, (s.issued h).flushUser x x.incs.length = .ok (y, s1) →
        exec (.wflush h) s = s.ends (s1.setThr { y with pc := y.pc + 4 })) ∧
      ((∀ i ∈ x.incs, i.user = false) → exec (.wflush h) s = s.leaves h { x with pc := x.pc + 4 })) ∧
    (x.steward = false → ∃ e : Exc, e.code = 0x11 ∧ e.next = false ∧
      exec (.fenceI h) s = s.raises h x e ∧ exec (.wait h) s = s.raises h x e ∧ exec (.wflush h) s = s.raises h x e ∧
      exec (.eret h) s = s.raises h x e)
  ) ∧
  (
  ∀ (s : State) (h : ThrId) (x : Thread) (imm : BitVec 16) (w : Word), Runs s h x →
    (x.steward = false → x.job = none → x.id = h → ∀ (e : Exc) (y : Thread) (s1 : State), (s.issued h).entry x e = .ok (y, s1) → y.id = h →
      (e = { code := 0x02, next := true } → y.job = none → exec (.svc h imm) s = s.ends (s1.setThr y)) ∧
      (e = { code := 0x03, next := true } → y.job = none → exec (.brk h imm) s = s.ends (s1.setThr y)) ∧
      (e = { code := 0x10 } → y.job = none → exec (.undefinedEncoding h w) s = s.ends (s1.setThr y))) ∧
    (x.steward = true →
      exec (.svc h imm) s = s.ends ((s.issued h).stopThread x 0x11) ∧ exec (.brk h imm) s = s.ends ((s.issued h).stopThread x 0x11) ∧
      exec (.undefinedEncoding h w) s = s.ends ((s.issued h).stopThread x 0x10) ∧
      (∀ y s1, (s.issued h).eret x = .ok (y, s1) → y.irqQuantum = false → y.irqSignal = false → exec (.eret h) s = s.ends (s1.setThr y)) ∧
      (∀ y s1, (s.issued h).eret x = .ok (y, s1) → exec (.eret h) s = s.ends (s1.takePending y)) ∧
      ∀ c s1, (s.issued h).eret x = .error (c, s1) → exec (.eret h) s = s.ends (s1.stopThread x c))
  )

/-- An unlisted number raises ILLEGAL, and a listed one that the mode cannot read, or cannot write, raises PRIV_CR. MFC gives RD the
register and MTC writes it, ignoring reserved bits; a read of the register just written gives the written bits. MTC to STATUS clears
SAT and AOV where a 1 is written and changes no other bit. The registers of Table 11.3 that user mode may write are STATUS, the user
spill registers, the accumulator and the generators. -/
def Obligations.ControlRegisters : Prop :=
  (∀ (s : State) (h : ThrId) (x : Thread) (r : Reg) (crn : BitVec 8), Runs s h x →
    let n := crn.toNat
    (crListed n = false → ∃ e : Exc, e.code = 0x10 ∧ exec (.mfc h r crn) s = s.raises h x e ∧ exec (.mtc h r crn) s = s.raises h x e) ∧
    (crListed n = true → crReads x.steward n = false → ∃ e : Exc, e.code = 0x12 ∧ exec (.mfc h r crn) s = s.raises h x e) ∧
    (crListed n = true → crWrites x.steward n = false → ∃ e : Exc, e.code = 0x12 ∧ exec (.mtc h r crn) s = s.raises h x e) ∧
    (crListed n = true → n < 0x68 →
      (crReads x.steward n = true → n ≠ 0x0D →
        exec (.mfc h r crn) s = s.leaves h { x.put r (x.crGet n) with pc := (x.put r (x.crGet n)).pc + 4 }) ∧
      (crWrites x.steward n = true →
        exec (.mtc h r crn) s = s.leaves h { x.crPut n (x.get r) with pc := (x.crPut n (x.get r)).pc + 4 }))) ∧
  (∀ n : Fin 256, crWrites false n.val && crListed n.val =
    (decide (n.val = 0 ∨ 8 ≤ n.val ∧ n.val ≤ 0x0C) || decide (0x20 ≤ n.val ∧ n.val < 0x40 ∧ n.val % 8 < 5))) ∧
  ∀ (x : Thread) (v : Word), x.gens.length = 4 → x.rgns.length = 8 → x.ku.length = 7 →
    (x.crPut 0 v).crGet 0 = BitVec.ofNat 32 ((if x.steward then 1 else 0) + (if x.sat && !v.getLsbD 3 then 8 else 0) +
      (if x.aov && !v.getLsbD 4 then 16 else 0)) ∧
    (x.crPut 1 v).crGet 1 = v &&& 0x19 ∧ (x.crPut 2 v).crGet 2 = v &&& 0xFFFFFFFC ∧
    (x.crPut 0x10 v).crGet 0x10 = v &&& 0xFFFFFFC0 ∧ (x.crPut 0x11 v).crGet 0x11 = v ∧
    (x.crPut 0x0B v).crGet 0x0B = v ∧ (x.crPut 0x0C v).crGet 0x0C = v ∧
    (∀ k : Fin 3, (x.crPut (8 + k.val) v).crGet (8 + k.val) = v &&& 0xFFFFFFFC ∧
      (x.crPut (0x18 + k.val) v).crGet (0x18 + k.val) = v &&& 0xFFFFFFFC) ∧
    (∀ g : Fin 4, ∀ f : Fin 4, (x.crPut (0x20 + 8 * g.val + f.val) v).crGet (0x20 + 8 * g.val + f.val) = v) ∧
    (∀ g : Fin 4, (x.crPut (0x24 + 8 * g.val) v).crGet (0x24 + 8 * g.val) = v &&& 3) ∧
    ∀ r : Fin 8, (x.crPut (0x40 + 2 * r.val) v).crGet (0x40 + 2 * r.val) = v &&& 0xFFFFFFC0 ∧
      (x.crPut (0x41 + 2 * r.val) v).crGet (0x41 + 2 * r.val) = v &&& 0xFFFFFFCF

/-- For a user-mode thread with 24 window registers whose entry needs no spill: entry puts STATUS in ESTATUS, the cause in CAUSE, the
address in BADADDR for a cause that names one, the pc, or the next instruction for a completed one, in EPC, WDEPTH in EWDEPTH, makes
WDEPTH 0, the mode steward and the pc SVEC, and slides the window up by 16 with a user-tagged increment, changing nothing else of
the state; an ERET from there gives the thread back at EPC with its mode, flags, depth and window as they were. -/
def Obligations.ExceptionEntryAndReturn : Prop :=
  ∀ (s : State) (x : Thread) (e : Exc), x.steward = false → x.win.length = 24 → 24 + x.resident + 16 ≤ 256 →
    let epc := if e.next then x.pc + 4 else x.pc
    ∃ y, s.entry x e = .ok (y, s) ∧
      y.estatus = BitVec.ofNat 32 x.status ∧ y.cause.toNat % 256 = e.code % 256 ∧ (e.code < 256 → y.cause.getLsbD 8 = true) ∧
      (∀ a, e.addr = some a → y.badaddr = BitVec.ofNat 32 a) ∧ (e.addr = none → y.badaddr = x.badaddr) ∧
      y.epc = epc ∧ y.ewdepth = x.wdepth ∧ y.wdepth = 0 ∧ y.steward = true ∧ y.pc = x.svec ∧
      y.win = x.win.drop 16 ++ List.replicate 16 0 ∧ y.incs = ⟨x.win.take 16, epc, true⟩ :: x.incs ∧ y.ku = x.ku ∧ y.ks = x.ks ∧
      ∃ z, s.eret y = .ok (z, s) ∧ z.pc = epc ∧ z.steward = false ∧ z.sat = x.sat ∧ z.aov = x.aov ∧ z.wdepth = x.wdepth ∧
        z.win = x.win ∧ z.incs = x.incs

/-- THREAD_START on a program core that is on, with no command served, gives the thread the reset values of Table 11.3 in steward mode at
SVEC 0; THREAD_WAKE ends a WAIT; INTERRUPT and QUANTUM_END on a started thread in steward mode make the interrupt pending and end its
WAIT; an interrupt on a user-mode thread that can be entered is taken at once.
RUN of a tracked command that has not been checked runs its checks; with all of them passed it is queued on the session's home tile
and the scheduler runs with the offered thread first; an entry that the image does not have ends with Invalid Field. RUNMAX_EXPIRY ends
the invocation's command with Sachet Fault, cause code 82h, and gives the tile's threads other work. -/
def Obligations.ThreadsAndInvocations : Prop :=
  (
  ∀ (s : State) (h : ThrId) (us : Nat),
    (s.hasTile h.tile.val = true → h.core.val < 8 → s.blockOn (.core h.tile.val) = true → (∀ x, s.thr h = some x → x.job = none) →
      ∃ t y, exec (.threadStart h) s = .next t ∧ t.thr h = some y ∧ y = { id := h, running := true } ∧ y.steward = true ∧ y.pc = 0 ∧
        y.win = List.replicate 24 0 ∧ y.ku = List.replicate 7 0 ∧ y.ks = List.replicate 7 0 ∧ y.incs = [] ∧ y.acc = 0 ∧
        t.mem = s.mem ∧ ∀ g, g ≠ h → t.thr g = s.thr g) ∧
    ∀ x, s.thr h = some x → x.id = h →
      (x.waiting = true → exec (.threadWake h) s = s.ends (s.setThr { x with waiting := false })) ∧
      (x.running = true → x.stop = none → x.steward = true →
        exec (.interrupt h true) s = s.ends (s.setThr { x with irqQuantum := true, irqSignal := x.irqSignal || false, waiting := false }) ∧
        exec (.interrupt h false) s = s.ends (s.setThr { x with irqQuantum := x.irqQuantum || false, irqSignal := true, waiting := false }) ∧
        (x.job = none → exec (.quantumEnd h us) s = s.ends (s.setThr { x with irqQuantum := true, waiting := false }))) ∧
      (x.running = true → x.stop = none → x.steward = false → x.job = none → x.irqQuantum = false → ∀ y s1,
        s.entry { x with irqQuantum := false, waiting := false } { code := 0x04 } = .ok (y, s1) → y.job = none →
        exec (.quantumEnd h us) s = s.ends (s1.setThr y) ∧
        (x.irqSignal = false → ∀ z s2, s.entry { x with irqSignal := false, waiting := false } { code := 0x05 } = .ok (z, s2) → z.job = none →
          exec (.interrupt h false) s = s.ends (s2.setThr z)))
  ) ∧
  (
  (∀ (s : State) (k : CmdKey) (h : ThrId) (t : Track) (x : SesSnap) (c : Sachet), Tracked s k 0x8F t → t.ses = none →
    t.key = k → t.sqe.nsid = 0 → t.sqe.vendorForm = true → (t.sqe.dptr.prpOffsetBad && !t.sqe.dptr.sgl) = false →
    s.vendorSession t [] = some x → s.outFits x.qbi = true → s.sachetOf x.snum = some c →
    (sachetEntries c.image ≤ t.sqe.cdw10.toNat % 256 → exec (.run k h) s = s.ends (s.fail k .invalidField)) ∧
    (t.sqe.cdw10.toNat % 256 < sachetEntries c.image → t.sqe.dptr.transferError = false →
      exec (.run k h) s = s.ends (((s.vendorStart k x).enqueue ⟨x.snum / 32768, x.snum, x.cls, .run k⟩).scheduleAt (x.snum / 32768) [h]))) ∧
  ∀ (s : State) (inv : Nat) (x : Thread) (j : Job), s.findInv inv = some (x, j, false) →
    exec (.runmaxExpiry inv) s = s.ends ((((s.giveUp x.id.tile.val j (s.now - j.since)).endC8 j 0x82)).scheduleAt x.id.tile.val [])
  )

/-- QUANTUM_END on a user-mode thread that serves a command: the session's V_c rises by the time held × weight unit ÷ weight, CUSE is
charged, and the thread's context is kept and queued, unless its session drains (80h), RUNMAX has passed (82h) or CUSE is spent. -/
def Obligations.QuantumEndCharges : Prop :=
  ∀ (s : State) (h : ThrId) (us : Nat) (x : Thread) (j : Job), s.thr h = some x → x.job = some j → x.steward = false →
    let s1 := s.giveUp x.id.tile.val j us
    let j1 : Job := { j with cpu := j.cpu + us }
    let y : Thread := { x with irqQuantum := false }
    let drains : Bool := (s1.sessionAt j.snum).any fun z => z.state == 3
    let late : Bool := decide (((s1.sachetOf j.snum).map fun c => sachetRunMax c.image).getD 0 < j1.cpu)
    let spent : Bool := s1.coreSpent (((s1.track j.key).bind fun k => k.ses.map fun z => z.qbi).getD 0)
    exec (.quantumEnd h us) s = s.ends ((if drains then s1.endC8 j1 (s1.drainCode j.snum) else if late then s1.endC8 j1 0x82
      else if spent then s1.endC7 j1 else s1.park y j1 true).scheduleAt x.id.tile.val []) ∧
    ∀ k z, s.track j.key = some k → k.ses = some z →
      s1 = ((s.setVtime x.id.tile.val z.cls (s.vtimeOf x.id.tile.val z.cls + us * weightUnit / s.weight x.id.tile.val z.cls)).chargeCore
        z.qbi us).quotaGrant (2 + x.id.tile.val)

/-- For a thread that has called the service and whose arguments are in range: CLOCK answers the microseconds since PWROK in w2 and w3;
YIELD answers 0 and ends the quantum; IN_NEXT of a RUN writes the next input bytes to its window and waits; OUT_PUT of a RUN appends
the window's bytes to the output when the room left holds them; LOG writes one entry to the function's log while fewer than 100 were
written in that second. Out of range, IN_NEXT, OUT_PUT and LOG answer status 2; with no input left IN_NEXT answers 1.
NS_READ and NS_WRITE of blocks that the namespace has, with a window that holds them: without the right to the namespace they answer 3,
without quota 4, and change nothing else; otherwise NS_READ charges the scan bytes of the grains that it touches, writes the blocks'
bytes to the window and waits with status 0, and NS_WRITE stages the window's bytes, charges them as written and waits with status 0. -/
def Obligations.RuntimeServices : Prop :=
  (
  ∀ (s : State) (h : ThrId) (c : Call),
    (Serves s h 0x0002 c →
      let us := s.now - s.boot.since
      exec (.clock h) s = s.ends (s.answer c [(1, 0), (2, us % 2 ^ 32), (3, us / 2 ^ 32)])) ∧
    (Serves s h 0x0001 c → ∀ y j, (s.svcReturn { c.x with job := some c.j } [(1, 0)]).thr c.x.id = some y → y.job = some j →
      let s1 := s.svcReturn { c.x with job := some c.j } [(1, 0)]
      exec (.yieldSvc h) s = s.ends (s1.quantumEnd { y with irqQuantum := false } j (s1.now - j.since))) ∧
    (Serves s h 0x0010 c → c.j.esc = none →
      let all := c.k.sqe.data.take c.k.sqe.cdw12.toNat ++ zeros (c.k.sqe.cdw12.toNat - c.k.sqe.data.length)
      let b := (all.drop c.j.inPos).take (c.w 2)
      (windowAt c.c c.a (c.w 1) (c.w 2) = none → exec (.inNext h) s = s.ends (s.status c 2)) ∧
      ∀ a, windowAt c.c c.a (c.w 1) (c.w 2) = some a →
        (all.length ≤ c.j.inPos → exec (.inNext h) s = s.ends (s.status c 1)) ∧
        (c.j.inPos < all.length → exec (.inNext h) s =
          s.ends ((s.writeMem c.tile a b).await { c with j := { c.j with inPos := c.j.inPos + b.length } } [(1, 0), (2, b.length)]))) ∧
    (Serves s h 0x0030 c → c.j.esc = none →
      (sourceAt c.c c.a c.j (c.w 1) (c.w 2) = none → exec (.outPut h) s = s.ends (s.status c 2)) ∧
      ∀ a, sourceAt c.c c.a c.j (c.w 1) (c.w 2) = some a → c.w 2 ≤ 65536 →
        exec (.outPut h) s = s.ends (if c.k.sqe.outBytes - c.k.sqe.cdw12.toNat < c.j.out.length + c.w 2 then s.status c 5
          else s.await { c with j := { c.j with out := c.j.out ++ s.readMem c.tile a (c.w 2) } } [(1, 0)])) ∧
    (Serves s h 0x0070 c → ∀ a, sourceAt c.c c.a c.j (c.w 1) (c.w 2) = some a → c.w 2 ≤ 64 → c.w 3 ≤ 3 →
      (∀ r ∈ s.cores.logRate, r.1 = c.j.snum → r.2.1 ≠ s.now / 1000000 ∨ r.2.2.1 < 100) →
      ∃ lr, exec (.log h) s = s.ends ((({ s with cores := { s.cores with logRate := lr } } : State).logFunc c.j.key.fn 1 0 c.ses.handle
        (leBytes 1 (c.w 3) ++ s.readMem c.tile a (c.w 2))).status c 0))
  ) ∧
  (
  ∀ (s : State) (h : ThrId) (c : Call) (env : MediaEnv) (ns : Namespace) (lba n a : Nat), s.svcBlocks c = some (ns, lba, n) →
    let len := n * ns.blockSize
    let grains := ceilDiv ((lba + n) * ns.blockSize) ns.grain - lba * ns.blockSize / ns.grain
    let s1 := (s.chargeScan c.ses.qbi (grains * ns.grain)).quotaGrant (2 + c.tile)
    (Serves s h 0x0011 c → windowAt c.c c.a (c.w 4) len = some a →
      (c.ses.bits ns.nsid &&& 1 = 0 → exec (.nsRead h env) s = s.ends (s.status c 3)) ∧
      (c.ses.bits ns.nsid &&& 1 ≠ 0 →
        (s.scanFits c.ses.qbi (grains * ns.grain) = false → exec (.nsRead h env) s = s.ends (s.status c 4)) ∧
        (s.scanFits c.ses.qbi (grains * ns.grain) = true → (s1.nsRun ns.nsid).keyLost = false → (s1.nsRun ns.nsid).ready = true →
          ∀ b s2, s1.svcRead ns env lba n = (some b, s2) →
            exec (.nsRead h env) s = s.ends ((s2.writeMem c.tile a b).await c [(1, 0), (2, b.length)])))) ∧
    (Serves s h 0x0012 c → sourceAt c.c c.a c.j (c.w 4) len = some a →
      (c.ses.bits ns.nsid &&& 2 = 0 → exec (.nsWrite h) s = s.ends (s.status c 3)) ∧
      (c.ses.bits ns.nsid &&& 2 ≠ 0 →
        (s.writeFits c.ses.qbi len = false → exec (.nsWrite h) s = s.ends (s.status c 4)) ∧
        (s.writeFits c.ses.qbi len = true → (s.nsRun ns.nsid).keyLost = false → ∀ s2,
          s.writeBlocks ns (.inv c.j.inv) c.k.epoch.toNat (len + 1) (lba * ns.blockSize) (s.readMem c.tile a len) = .ok s2 →
            exec (.nsWrite h) s = s.ends (((s2.chargeWrite c.ses.qbi len).quotaGrant (2 + c.tile)).await c [(1, 0)]))))
  )

/-- CQ with a NONCE request answers the slot's next nonce in memory and in w2 to w4, and its block requests run the cipher under the
session's slot; DIGEST adds the source bytes to the invocation's context and, with LAST, gives the message's result; ZJOB without a
stream, not opening one, answers 2, and with one runs COMPRESS or DECOMPRESS; ESC_NEXT outside an escalation answers 14, and in one
marks the record finished with w1's verdict and takes the next waiting record. SERVICE_COMPLETION of an invocation that waits puts its
results into the registers and queues it. -/
def Obligations.EngineServices : Prop :=
  ∀ (s : State) (h : ThrId) (c : Call),
    (Serves s h 0x0040 c → c.w 1 < 65536 → c.w 3 % 16 = 0 →
      (c.w 1 % 256 = 5 → bitN (c.w 1) 14 = false → bitN (c.w 1) 15 = false → exec (.cq h) s = s.ends (s.cqNonce c) ∧
        ∀ a slot n s1, windowAt c.c c.a (c.w 4) 16 = some a → s.svcKey c (c.w 1 / 256 % 64) [2, 3] = .ok slot →
          s.takeNonce c.tile slot = (some n, s1) →
          s.cqNonce c = (s1.writeMem c.tile a (leBytes 12 n ++ zeros 4)).await c
            [(1, 0), (2, n % 2 ^ 32), (3, n / 2 ^ 32 % 2 ^ 32), (4, n / 2 ^ 64)]) ∧
      (c.w 1 % 256 = 1 → bitN (c.w 1) 14 = false → ∀ src dst slot, cqOperands c false = some (src, dst, none) → bitN (c.w 1) 15 = false →
        c.w 4 / 2 ^ 28 ≠ 2 → s.svcKey c (c.w 1 / 256 % 64) [2] = .ok slot →
        let s1 := s.takeKey c.tile slot
        exec (.cq h) s = s.ends (((s1.writeMem c.tile dst
          (cipherBlocks true (s1.keySlot slot).key (s1.readMem c.tile src (c.w 3)) none)).count (.cqe c.tile) 0x080 (c.w 3 / 16)).await c
          [(1, 0)]))) ∧
    (Serves s h 0x0050 c → c.w 1 < 256 → 1 ≤ c.w 1 % 16 → c.w 1 % 16 ≤ 4 → ∀ a, sourceAt c.c c.a c.j (c.w 2) (c.w 3) = some a →
      ∀ d : DgCall, (if bitN (c.w 1) 4 then some ⟨c.w 1 % 16, []⟩ else c.j.digest) = some d → d.alg = c.w 1 % 16 → bitN (c.w 1) 5 = false →
        exec (.digest h) s = s.ends (s.await { c with j := { c.j with
          digest := some { d with data := d.data ++ s.readMem c.tile a (c.w 3) } } } [(1, 0)])) ∧
    (Serves s h 0x0060 c → ∀ a dst, sourceAt c.c c.a c.j (c.w 2) (c.w 3) = some a → windowAt c.c c.a (c.w 4) (c.w 5) = some dst →
      c.w 1 < 1024 → c.w 1 / 4 % 4 ≤ 2 → c.w 1 / 16 % 16 ≤ 12 → ∀ z : StreamCtx, z.fmt = c.w 1 / 4 % 4 → z.op = c.w 1 % 4 + 1 →
      (if bitN (c.w 1) 8 then some ⟨0, c.w 1 % 4 + 1, c.w 1 / 4 % 4, c.w 1 / 16 % 16, [], []⟩ else c.j.stream) = some z →
      (c.w 1 % 4 = 1 → exec (.zjob h) s =
        s.ends (s.zCompress c z (bitN (c.w 1) 8) (bitN (c.w 1) 9) (s.readMem c.tile a (c.w 3)) dst (c.w 5))) ∧
      (c.w 1 % 4 = 2 → c.w 1 / 16 % 16 = 0 → exec (.zjob h) s =
        s.ends (s.zDecompress c z (bitN (c.w 1) 9) (s.readMem c.tile a (c.w 3)) dst (c.w 5)))) ∧
    (Serves s h 0x0020 c →
      (c.j.esc = none → exec (.escNext h) s = s.ends (s.status c 14)) ∧
      ∀ g i w g1 i1, c.j.esc = some (g, i) → c.j.escDone = false →
        let s1 := s.onEsc c.j.key g i fun e => { e with phase := 2, keep := c.w 1 == 1, out := c.j.out }
        s1.nextEsc c.tile c.j.key = some (w, g1, i1) → exec (.escNext h) s = s.ends (s1.takeEsc c w g1 i1)) ∧
    ∀ inv t x j w z s1, s.parkedJob inv = some (t, x, j) → j.wait = some w → s.mirrWaits (.inv inv) = false →
      ({ s with cores := { s.cores with
          parked := s.cores.parked.filter fun p => (p.2.job.map fun z => z.inv != inv).getD true } } : State).eret
        { x.setResults w.regs with job := some { j with wait := none, svc := none } } = .ok (z, s1) →
      ((s1.sessionAt j.snum).any fun v => v.state == 3) = false →
      exec (.serviceCompletion inv) s = s.ends ((s1.park z { j with wait := none, svc := none } true).scheduleAt t [])

/-- A CREATE that is acted on, in range, within the function's limits and grants, with a slot, key slots, a rights table and a quota block
to be had: the answer is SUCCESS with the handle and the first key slot, and the function holds a new ACTIVE session in that slot with
the class, threads, rights and label of the request, no sachet and nothing outstanding. Memory, keys and tiles stay as they were. -/
def Obligations.CreateMakesSession : Prop :=
  ∀ (s : State) (q : Req) (f : FnId) (snum kb rti : Nat) (quota : Quota), Acts s q 0x0201 none → q.car.fn = some f →
    let b := q.body
    let cls := leAt b 0 1
    let home := leAt b 3 1
    let n := leAt b 12 1
    let es := entriesOf b 16 n
    b.length = 16 + 2 * n → cls ≤ 3 → 1 ≤ leAt b 1 1 → leAt b 1 1 ≤ 16 → leAt b 2 1 ≤ 64 → (home = 255 ∨ home < s.n) → n ≤ 30 →
    zeroAt b 13 3 = true → (∀ e ∈ es, e < 32768) → s.freeSlot (if home = 255 then none else some home) = some snum →
    (s.sessionsOf f).length < s.funcLimit f 4 4 0 → s.rightsGranted f es = true → s.keyRun (leAt b 2 1) = some kb →
    s.keysHeld f + leAt b 2 1 ≤ s.funcLimit f 8 2 0 → s.funcLimit f 1 1 3 ≤ cls →
    s.rightsTable (snum / 32768) f es none = some rti → s.quota (s.funcLimit f 18 2 0) = some quota →
    ∃ (x : Session) (t : State), exec (.create q) s =
        s.ends (t.respond q 0 (leBytes 4 x.handle ++ leBytes 2 (if leAt b 2 1 = 0 then 0 else kb) ++ zeros 2)) ∧
      x ∈ t.ses.sessions ∧ x.snum = snum ∧ x.fn = f ∧ x.state = 1 ∧ x.cls = cls ∧ x.rights = es ∧ x.kcnt = leAt b 2 1 ∧
      x.threads = leAt b 1 1 ∧ x.label = slice 4 8 b ∧ x.sslot = none ∧ x.outst = 0 ∧ (∀ y ∈ s.ses.sessions, y ∈ t.ses.sessions) ∧
      t = { s with ses := t.ses, free := t.free }

/-- Each message, when it is acted on and in range, answers SUCCESS with the change that it names made to its session alone: DESTROY and
REVOKE make it DRAINING and answer later; QUERY gives its 32-byte descriptor; SET_RIGHTS replaces the rights; SET_CLASS replaces class
and threads; SUSPEND and RESUME move between ACTIVE and SUSPENDED; LIST gives the function's handles from the slot asked for, at most
500, to the function itself or the platform owner.
FUNC_SET and QUOTA_SET in range, with no cinch under way and the store written, start a cinch with the new limits stored and answer
when it ends; with the store failing they answer 8007h with the limits as they were. The queries give what is set. QUOTA_PERIOD zeroes
the three periodic counters of a block with a period and no other block's. SESSION_RELEASE of a DRAINING session with nothing
outstanding frees its slot, advances its generation past 3FFFh and erases its key slots. -/
def Obligations.SessionAndLimitMessages : Prop :=
  (
  ∀ (s : State) (q : Req) (x : Session),
    let b := q.body
    let with_ (g : Session → Session) : State := (s.sesGrant x.snum 2).onSession x.snum g
    (Acts s q 0x0202 (some x) → ∃ t : State, t = (s.drain x (some q)).schedule ∧ exec (.destroy q) s = s.ends { t with lmcs := { t.lmcs with
      inFlight := t.lmcs.inFlight.filter (fun y => y != q), started := t.lmcs.started ++ [q] } }) ∧
    (Acts s q 0x0216 (some x) → ∃ t : State, t = (s.drain x (some q)).schedule ∧ exec (.revoke q) s = s.ends { t with lmcs := { t.lmcs with
      inFlight := t.lmcs.inFlight.filter (fun y => y != q), started := t.lmcs.started ++ [q] } }) ∧
    (Acts s q 0x0203 (some x) → ∃ p : List Byte, exec (.query q) s = s.ends (s.respond q 0 p) ∧ p.length = 32 ∧
      leAt p 0 4 = x.handle % 2 ^ 32 ∧ leAt p 5 1 = (x.state + x.cls * 8) % 256 ∧ leAt p 10 1 = x.kcnt % 256 ∧
      leAt p 14 2 = x.outst % 65536) ∧
    (Acts s q 0x0204 (some x) → ∀ rti,
      let n := leAt b 0 1
      let es := entriesOf b 4 n
      b.length = 4 + 2 * n → n ≤ 30 → zeroAt b 1 3 = true → (∀ e ∈ es, e < 32768) → s.rightsGranted x.fn es = true →
      s.rightsTable (x.snum / 32768) x.fn es (some x.snum) = some rti →
      exec (.setRights q) s = s.ends ((with_ fun y => { y with rights := es, rti := rti }).respond q 0 [])) ∧
    (Acts s q 0x0205 (some x) → leAt b 0 1 ≤ 3 → 1 ≤ leAt b 1 1 → leAt b 1 1 ≤ 16 → zeroAt b 2 2 = true →
      s.funcLimit x.fn 1 1 3 ≤ leAt b 0 1 → exec (.setClass q) s =
        s.ends ((with_ fun y => { y with cls := leAt b 0 1, threads := leAt b 1 1 }).schedule.respond q 0 [])) ∧
    (Acts s q 0x0214 (some x) → x.state = 1 → exec (.suspend q) s = s.ends ((with_ fun y => { y with state := 2 }).respond q 0 [])) ∧
    (Acts s q 0x0215 (some x) → x.state = 2 →
      exec (.resume q) s = s.ends ((with_ fun y => { y with state := 1 }).schedule.respond q 0 [])) ∧
    (Acts s q 0x0206 none → zeroAt b 1 3 = true → (q.car.fn = some (funcOf (leAt b 0 1)) ∨ s.isOwner q.car = true) →
      let hs := ((s.ses.sessions.filter fun y => y.fn == funcOf (leAt b 0 1)).filter fun y => leAt b 4 4 ≤ y.snum).take 500
      exec (.list q) s = s.ends (s.respond q 0 (leBytes 4 hs.length ++ hs.flatMap fun y => leBytes 4 y.handle)))
  ) ∧
  (
  (∀ (s : State) (q : Req),
    let b := q.body
    let pending (t : State) : Out := s.ends { t with lmcs := { t.lmcs with
      inFlight := t.lmcs.inFlight.filter (fun y => y != q), started := t.lmcs.started ++ [q] } }
    (Acts s q 0x0210 none → leAt b 1 1 ≤ 3 → leAt b 2 2 ≤ 4095 → leAt b 4 4 ≤ 262144 → leAt b 8 2 ≤ 8192 → leAt b 10 2 ≠ 0 →
      leAt b 18 2 ≤ 8191 → zeroAt b 20 4 = true → grantsOk b = true → s.cinch.pending = false → s.cinch.retained = false →
      (∃ s1 : State, exec (.funcSet q true) s = pending s1.cinchGo ∧ s1.funcDef (funcOf (leAt b 0 1)) = some b ∧
        s1 = { s with cfg := s1.cfg }) ∧
      ∃ s1 : State, exec (.funcSet q false) s = s.ends (s1.respond q 0x8007 []) ∧ s1 = { s with logs := s1.logs }) ∧
    (Acts s q 0x0212 none → leAt b 0 2 ≤ 8191 → zeroAt b 2 2 = true → zeroAt b 30 2 = true → s.cinch.pending = false →
      s.cinch.retained = false →
      ∃ s1 : State, exec (.quotaSet q true) s = pending s1.cinchGo ∧ s1 = { s with cfg := s1.cfg, ses := s1.ses } ∧
        (s1.quota (leAt b 0 2)).map (fun z => (z.wlim, z.slim, z.clim, z.olim, z.period)) =
          some (leAt b 4 8, leAt b 12 8, leAt b 20 8, leAt b 28 2, leAt b 32 4) ∧
        ∀ old, s.quota (leAt b 0 2) = some old → (s1.quota (leAt b 0 2)).map (fun z => (z.wuse, z.suse, z.cuse, z.ouse)) =
          some (old.wuse, old.suse, old.cuse, old.ouse)) ∧
    (Acts s q 0x0211 none → zeroAt b 1 3 = true → (q.car.fn = some (funcOf (leAt b 0 1)) ∨ s.isOwner q.car = true) →
      ∀ d, s.funcDef (funcOf (leAt b 0 1)) = some d → exec (.funcQuery q) s = s.ends (s.respond q 0 (d ++
        leBytes 4 (s.sessionsOf (funcOf (leAt b 0 1))).length ++ leBytes 2 (s.keysHeld (funcOf (leAt b 0 1))) ++ zeros 2))) ∧
    (Acts s q 0x0213 none → leAt b 0 2 ≤ 8191 → zeroAt b 2 2 = true → s.isOwner q.car = true → ∀ z, s.quota (leAt b 0 2) = some z →
      ∃ p : List Byte, exec (.quotaQuery q) s = s.ends (s.respond q 0 p) ∧ p.length = 64 ∧ leAt p 0 8 = z.wlim % 2 ^ 64 ∧
        leAt p 8 8 = z.slim % 2 ^ 64 ∧ leAt p 32 8 = z.wuse % 2 ^ 64)) ∧
  (∀ (s : State) (qbi : Nat), ∃ t : State, exec (.quotaPeriod qbi) s = s.ends t ∧ t = { s with ses := { s.ses with quotas := t.ses.quotas } } ∧
    (∀ z, s.quota qbi = some z → z.period ≠ 0 → t.quota qbi = some { z with wuse := 0, suse := 0, cuse := 0 }) ∧
    ∀ k, k ≠ qbi → t.quota k = s.quota k) ∧
  ∀ (s : State) (snum : Nat) (x : Session), s.sessionAt snum = some x → x.state = 3 → x.outst = 0 → x.req = none →
    ∃ t : State, exec (.sessionRelease snum) s = s.ends t ∧ t.sessionAt snum = none ∧ t.ses.freed = s.ses.freed ++ [snum] ∧
      kvGet snum t.ses.gens = some (if x.gen + 1 = 0x3FFF then 0 else x.gen + 1)
  )

/-- Each message that is acted on, in range, with the slot as it requires and room in the pools, changes exactly the session's own slots
and answers SUCCESS: LAYOUT_INSTALL with the slot and the layout's number, IMAGE_INSTALL with the image's digest; SIFT_QUERY gives the
occupancy bitmaps. A layout or image with a fault answers its status with the offset of the first faulty byte and changes nothing; a
set or layout that an installed image names is not removed.
LAYOUT_ATTACH, LAYOUT_DETACH, INDEX_DECLARE and INDEX_DROP with the right to the namespace and the conditions of their rules: with the
store written both copies hold the changed body, nothing but the configuration changes (and for INDEX_DROP the index), and the answer
is SUCCESS; with the store failing the answer is 800Ch, the failure is logged and nothing else changes. INDEX_STATUS gives the state
of a declared index. -/
def Obligations.SiftAndIndexMessages : Prop :=
  (
  ∀ (s : State) (q : Req) (x : Session),
    let b := q.body
    let sl := s.slotsOf x.snum
    let slot := at1 b 0
    let put (g : SlotSet → SlotSet) (p : List Byte) : Out := s.ends ((s.onSlots x.snum g).respond q 0 p)
    (Acts s q 0x0301 (some x) →
      (∀ o, layoutFault b = some o → exec (.layoutInstall q) s = s.ends (s.respond q 0x8001 (leBytes 4 o))) ∧
      (layoutFault b = none → s.poolOk x (fun y => y.layouts.length) 16 12 64 2048 = true →
        let i := leastUnused (sl.layouts.map fun y => y.1)
        exec (.layoutInstall q) s =
          put (fun y => { y with layouts := kvSet i b y.layouts }) (leBytes 1 i ++ zeros 7 ++ leBytes 8 (layoutId b)))) ∧
    (Acts s q 0x0304 (some x) → slot < 64 → zeroAt b 1 7 = true →
      let m := b.drop 8
      let fault := imageFault m (s.layoutFor x (leAt m 8 8)) (sl.sets.map fun y => y.1) x.sslot.isSome
      (∀ o, fault = some o → exec (.imageInstall q) s = s.ends (s.respond q 0x8002 (leBytes 4 o))) ∧
      (fault = none → kvGet slot sl.images = none → s.poolOk x (fun y => y.images.length) 64 14 256 4096 = true →
        exec (.imageInstall q) s = put (fun y => { y with images := kvSet slot m y.images }) (shake256 m 16))) ∧
    (Acts s q 0x0305 (some x) → slot < 64 → zeroAt b 1 7 = true → (kvGet slot sl.images).isSome = true →
      exec (.imageRemove q) s = put (fun y => { y with images := kvDel slot y.images }) []) ∧
    (Acts s q 0x0306 (some x) → slot < 16 → 1 ≤ at1 b 1 → at1 b 1 ≤ 4 → zeroAt b 2 6 = true → kvGet slot sl.sets = none →
      s.poolOk x (fun y => y.sets.length) 16 16 64 1024 = true →
      exec (.setInstall q) s = put (fun y => { y with sets := kvSet slot (at1 b 1, slice 8 512 b) y.sets }) []) ∧
    (Acts s q 0x0307 (some x) → slot < 16 → zeroAt b 1 7 = true → (kvGet slot sl.sets).isSome = true →
      ((sl.images.any fun i => (imgSets i.2).contains slot) = true → exec (.setRemove q) s = s.ends (s.respond q 0x8007 [])) ∧
      ((sl.images.any fun i => (imgSets i.2).contains slot) = false →
        exec (.setRemove q) s = put (fun y => { y with sets := kvDel slot y.sets }) [])) ∧
    (Acts s q 0x0308 (some x) → slot < 16 → zeroAt b 1 7 = true → ∀ d, kvGet slot sl.layouts = some d →
      (sl.images.any fun i => leAt i.2 8 8 == layoutId d) = false →
      exec (.layoutRemove q) s = put (fun y => { y with layouts := kvDel slot y.layouts }) []) ∧
    (Acts s q 0x0309 (some x) → ∃ p : List Byte, exec (.siftQuery q) s = s.ends (s.respond q 0 p) ∧ p.length = 16 ∧
      leAt p 0 2 = sumOf (sl.layouts.map fun y => 2 ^ y.1) % 65536 ∧ leAt p 8 8 = sumOf (sl.images.map fun y => 2 ^ y.1) % 2 ^ 64)
  ) ∧
  (
  ∀ (s : State) (q : Req) (x : Session),
    let b := q.body
    let nsid := leAt b 0 4
    let failed (i : Instr) : Prop := ∃ t : State, exec i s = s.ends (t.respond q 0x800C []) ∧ t = { s with logs := t.logs }
    let stored (i : Instr) (f : StoreBody → StoreBody) : Prop := ∃ t : State, exec i s = s.ends (t.respond q 0 []) ∧
      t = { s with cfg := t.cfg } ∧ t.cfg.body = f s.cfg.body ∧ t.cfg.copy0.body = f s.cfg.body ∧ t.cfg.copy1.body = f s.cfg.body ∧
      s.cfg.copy0.seq < t.cfg.copy0.seq ∧ s.cfg.copy1.seq < t.cfg.copy1.seq
    (Acts s q 0x0302 (some x) → zeroAt b 5 3 = true → bitN (s.liveRights x nsid) 1 = true → ∀ d ns,
      kvGet (at1 b 4) (s.slotsOf x.snum).layouts = some d → s.nsOf nsid = some ns → s.nsLayout nsid = none → s.nsEmpty nsid = true →
      (layKind d = 0 ∨ layRec d ≤ ns.grain) →
      stored (.layoutAttach q true) (fun y => { y with layouts := kvSet nsid d y.layouts }) ∧ failed (.layoutAttach q false)) ∧
    (Acts s q 0x0303 (some x) → zeroAt b 4 4 = true → bitN (s.liveRights x nsid) 1 = true → (s.nsLayout nsid).isSome = true →
      s.indexDecl nsid = none → s.nsEmpty nsid = true →
      stored (.layoutDetach q true) (fun y => { y with layouts := kvDel nsid y.layouts }) ∧ failed (.layoutDetach q false)) ∧
    (Acts s q 0x030A (some x) → bitN (s.liveRights x nsid) 1 = true → declFault (s.nsLayout nsid) b = none → s.nsEmpty nsid = true →
      s.indexDecl nsid = none →
      stored (.indexDeclare q true) (fun y => { y with indexes := y.indexes ++ [⟨nsid, 0, b⟩] }) ∧ failed (.indexDeclare q false)) ∧
    (Acts s q 0x030B (some x) → zeroAt b 4 4 = true → bitN (s.liveRights x nsid) 1 = true → (s.indexDecl nsid).isSome = true →
      (∃ t : State, exec (.indexDrop q true) s = s.ends ((t.dropIndex (nsid - 1)).respond q 0 []) ∧ t = { s with cfg := t.cfg } ∧
        t.cfg.body = { s.cfg.body with indexes := s.cfg.body.indexes.filter fun i => i.nsid != nsid }) ∧
      failed (.indexDrop q false)) ∧
    (Acts s q 0x030C (some x) → zeroAt b 4 4 = true → bitN (s.liveRights x nsid) 2 = true → (s.indexDecl nsid).isSome = true →
      ∃ p : List Byte, exec (.indexStatus q) s = s.ends (s.respond q 0 p) ∧ leAt p 0 1 ≤ 2 ∧
        ((∀ t ∈ s.tileIds, (s.tileAt t).idx.regen.contains (nsid - 1) = true) → s.tileIds ≠ [] → leAt p 0 1 = 1))
  )

/-- STAGE patches the session's staging area; SEAL of an image with a fault answers IMAGE_BAD with the offset and changes nothing, of one
whose digest differs answers 8002h, and otherwise, with a slot and the pools to be had, gives the session its sachet; UNLOAD is refused
with 8006h while a command is outstanding and otherwise releases sachet, staging and pools of the session alone; SACHET_QUERY gives
the header, slot and counters. -/
def Obligations.SachetMessages : Prop :=
  ∀ (s : State) (q : Req) (x : Session),
    let b := q.body
    (Acts s q 0x0401 (some x) → zeroAt b 4 4 = true → leAt b 0 4 + (b.drop 8).length ≤ 524416 →
      let old := (s.stagedOf x.snum).getD []
      let new := patch (old ++ zeros (leAt b 0 4 - old.length)) (leAt b 0 4) (b.drop 8)
      ∃ t : State, exec (.stage q) s = s.ends (t.respond q 0 []) ∧ t = { s with cores := { s.cores with staged := t.cores.staged } } ∧
        t.stagedOf x.snum = some new ∧ ∀ k, k ≠ x.snum → t.stagedOf k = s.stagedOf k) ∧
    (Acts s q 0x0402 (some x) → zeroAt b 0 8 = true → s.sachetOf x.snum = none → ∀ m, s.stagedOf x.snum = some m →
      (∀ o, sachetFault m = some o → exec (.seal q) s = s.ends (s.respond q 0x8001 (leBytes 4 o))) ∧
      (sachetFault m = none → sachetDigest m ≠ slice 32 32 m → exec (.seal q) s = s.ends (s.respond q 0x8002 [])) ∧
      (sachetFault m = none → sachetDigest m = slice 32 32 m → ∀ slot cs hs s1,
        leastFree 255 (s.cores.sachets.map fun c => c.slot) = some slot → s.placeImage m x.snum = some (cs, hs, s1) →
        ∃ (c : Sachet) (t : State), exec (.seal q) s = s.ends (t.respond q 0 (leBytes 1 slot ++ zeros 7 ++ slice 32 16 m)) ∧
          c ∈ t.cores.sachets ∧ c.slot = slot ∧ c.snum = x.snum ∧ c.image = m ∧ c.handle = x.handle ∧ c.code = cs ∧ c.shared = hs ∧
          (∀ tag ∈ c.tags, tag.2 = s1.sealTag m x.handle) ∧ t.mem = s1.mem)) ∧
    (Acts s q 0x0403 (some x) → zeroAt b 0 8 = true → (s.sachetOf x.snum).isSome = true →
      (x.outst ≠ 0 → exec (.unload q) s = s.ends (s.respond q 0x8006 [])) ∧
      (x.outst = 0 → ∃ t : State, exec (.unload q) s = s.ends (t.respond q 0 []) ∧ t.sachetOf x.snum = none ∧
        t.stagedOf x.snum = none ∧ (∀ p ∈ t.cores.pool, p.snum ≠ x.snum) ∧ (∀ k, k ≠ x.snum → t.sachetOf k = s.sachetOf k) ∧
        t = { s with cores := t.cores, ses := t.ses })) ∧
    (Acts s q 0x0404 (some x) → ∀ c, s.sachetOf x.snum = some c → 128 ≤ c.image.length →
      ∃ p : List Byte, exec (.sachetQuery q) s = s.ends (s.respond q 0 p) ∧ p.length = 148 ∧ p.take 128 = c.image.take 128 ∧
        leAt p 128 1 = c.slot % 256 ∧ leAt p 132 8 = c.invocations % 2 ^ 64 ∧ leAt p 140 4 = c.faults % 2 ^ 32)

/-- KEYW_WRITE puts a word into the key path and marks it in WMASK. With the store unlocked and WMASK complete, COMMIT_LO of an EMPTY slot
whose attributes Table 15.2 allows loads the 32 bytes, LOADED or, for a 64-byte key, PARTIAL, and COMMIT_HI of a PARTIAL slot makes it
LOADED with the 32 bytes more. ERASE empties the slot and drops every cached copy. Every such command ends with KEYW and WMASK zeroed.
While the store is locked COMMIT_LO, COMMIT_HI, ERASE, UNWRAP and WRAP end with error 5 and no slot changes.
With the store unlocked and a LOADED slot 10 that has the WRAP use: WRAP of a LOADED slot writes the wrapped key and attributes at
KWRAP_ADDR and changes no slot; UNWRAP of a blob that checks, into an EMPTY slot, gives the slot the attributes and key of the blob; a
blob that does not check ends with error 4 and no slot changes. -/
def Obligations.KeyPath : Prop :=
  (
  ∀ (s : State) (slot : Fin 8192) (i : Fin 8) (v : Word),
    let bytes := s.keys.kw.flatMap fun w => leBytes 4 w.toNat
    let attr := s.rd .sec 0x028
    let kept (t : State) : Prop := ∀ k, k ≠ slot.val → t.keySlot k = s.keySlot k
    (∃ t : State, exec (.keywWrite i v) s = s.ends t ∧ t.keys = { s.keys with kw := setAt s.keys.kw i.val v } ∧
      t.rd .sec 0x024 = withField (s.rd .sec 0x024) (8 + i.val) (8 + i.val) 1 % 2 ^ 32) ∧
    (s.keysLocked = true → ∀ c ∈ ([.commitLo slot, .commitHi slot, .keyStoreErase slot, .unwrap slot, .wrap slot] : List Instr),
      ∃ t : State, exec c s = s.ends t ∧ t.keys.slots = s.keys.slots ∧ t.rd .sec 0x024 = 5 * 16 ∧ t.keys.kw = List.replicate 8 0 ∧
        t.mem = s.mem) ∧
    (s.keysLocked = false → s.rdField .sec 0x024 15 8 = 0xFF →
      ((s.keySlot slot.val).state = 0 → attrOk slot.val attr = true → ∃ t : State, exec (.commitLo slot) s = s.ends t ∧ kept t ∧
        t.keySlot slot.val = ⟨slot.val, withField attr 1 0 (if bitN attr 7 then 1 else 2), bytes, 0⟩ ∧ t.rd .sec 0x024 = 0 ∧
        t.keys.kw = List.replicate 8 0) ∧
      ((s.keySlot slot.val).state = 1 → (s.keySlot slot.val).slot = slot.val → ∃ t : State, exec (.commitHi slot) s = s.ends t ∧ kept t ∧
        t.keySlot slot.val = { s.keySlot slot.val with
          attr := withField (s.keySlot slot.val).attr 1 0 2, key := (s.keySlot slot.val).key ++ bytes } ∧ t.rd .sec 0x024 = 0)) ∧
    (s.keysLocked = false → ∃ t : State, exec (.keyStoreErase slot) s = s.ends t ∧ kept t ∧ (t.keySlot slot.val).state = 0 ∧
      (∀ u ∈ t.tiles.toList, u.cqe.cache.contains slot.val = false ∧ u.xtsA.cache.contains slot.val = false ∧
        u.xtsB.cache.contains slot.val = false))
  ) ∧
  (
  ∀ (s : State) (slot : Fin 8192), s.keysLocked = false → (s.keySlot 10).state = 2 → (s.keySlot 10).use 6 = true →
    let addr := s.rd .sec 0x040 / 16 * 16
    let kek := (s.keySlot 10).key
    ((s.keySlot slot.val).state = 2 → exec (.wrap slot) s =
      s.ends ((s.writeMem 0 addr (keyWrap kek (fit 64 (s.keySlot slot.val).key ++ leBytes 8 (s.keySlot slot.val).attr))).keyCmdEnd 0)) ∧
    ((s.keySlot slot.val).state = 0 →
      (keyUnwrap kek (s.readMem 0 addr 80) = none → exec (.unwrap slot) s = s.ends (s.keyCmdEnd 4)) ∧
      ∀ b, keyUnwrap kek (s.readMem 0 addr 80) = some b → exec (.unwrap slot) s = s.ends ((s.putSlot
        ⟨slot.val, leAt b 64 4, if bitN (leAt b 64 4) 7 then b.take 64 else b.take 32, 0⟩).keyCmdEnd 0))
  )

/-- KEY_LOAD, KEY_DERIVE, KEY_ERASE and KEY_QUERY of a handle at or beyond KCNT answer 8001h and change nothing. Within it KEY_LOAD puts
the key, and KEY_DERIVE the KMAC256 output under a LOADED source key with the use for it, into the EMPTY slot KBASE + handle with the
session as owner; KEY_ERASE empties it; KEY_QUERY gives attributes and nonce counter, never key bytes. NSKEY_QUERY and ALARM_QUERY
report the media key's attributes and the alarm counters to the platform owner. -/
def Obligations.KeyMessages : Prop :=
  ∀ (s : State) (q : Req) (x : Session),
    let b := q.body
    let hd := leAt b 0 1
    let slot := x.kbase + hd
    let no (st : Nat) : Out := s.ends (s.respond q st [])
    (Acts s q 0x0501 (some x) → useLenOk (leAt b 1 1) (leAt b 2 1) = true → zeroAt b 3 5 = true → b.length = 8 + leAt b 2 1 →
      (x.kcnt ≤ hd → exec (.keyLoad q) s = no 0x8001) ∧
      (hd < x.kcnt → s.keysLocked = true → exec (.keyLoad q) s = no 0x8005) ∧
      (hd < x.kcnt → s.keysLocked = false → (s.keySlot slot).state = 0 → exec (.keyLoad q) s = s.ends (((s.putSlot
        ⟨slot, sessionAttr (leAt b 1 1) (leAt b 2 1) x.snum, slice 8 (leAt b 2 1) b, 0⟩).keyGrant 8).respond q 0 []))) ∧
    (Acts s q 0x0502 (some x) → useLenOk (leAt b 2 1) (leAt b 3 1) = true → zeroAt b 4 4 = true →
      (x.kcnt ≤ hd → exec (.keyDerive q) s = no 0x8001) ∧
      (hd < x.kcnt → leAt b 1 1 < x.kcnt → s.keysLocked = false → (s.keySlot slot).state = 0 →
        (s.keySlot (x.kbase + leAt b 1 1)).state = 2 → (s.keySlot (x.kbase + leAt b 1 1)).use 5 = true →
        exec (.keyDerive q) s = s.ends (((s.putSlot ⟨slot, sessionAttr (leAt b 2 1) (leAt b 3 1) x.snum,
          kmac256 (s.keySlot (x.kbase + leAt b 1 1)).key (ascii "LTRKDF") (b.drop 8) (leAt b 3 1), 0⟩).keyGrant 0).respond q 0 []))) ∧
    (Acts s q 0x0503 (some x) → zeroAt b 1 7 = true →
      (x.kcnt ≤ hd → exec (.keyErase q) s = no 0x8001) ∧
      (hd < x.kcnt → (s.keySlot slot).state = 2 →
        exec (.keyErase q) s = s.ends (((s.eraseSlot (s.keySlot slot).slot).keyGrant 8).respond q 0 []))) ∧
    (Acts s q 0x0504 (some x) → zeroAt b 1 7 = true →
      (x.kcnt ≤ hd → exec (.keyQuery q) s = no 0x8001) ∧
      (hd < x.kcnt → (s.keySlot slot).state = 2 → exec (.keyQuery q) s =
        s.ends (s.respond q 0 (leBytes 4 (s.keySlot slot).attr ++ leBytes 12 (s.keySlot slot).nonce)))) ∧
    (Acts s q 0x0510 none → zeroAt b 4 4 = true → (∃ n ∈ s.cfg.body.namespaces, n.nsid = leAt b 0 4) → ∀ k,
      s.nsKeySlot (leAt b 0 4) = some k →
      exec (.nskeyQuery q) s = s.ends (s.respond q 0 (leBytes 4 k.attr ++ leBytes 2 k.slot ++ zeros 2))) ∧
    (Acts s q 0x0511 none →
      exec (.alarmQuery q) s = s.ends (s.respond q 0 (leBytes 4 (s.rd .sec 0x044) ++ leBytes 4 s.fuses.alarms)))

/-- A waiting request is refused by the first of the six steps that it fails: a length beyond the payload or the carrier answers 3, a wrong
version, flag or status answers 2, an opcode outside the recovery subset while in recovery or an unknown one answers 1, a missing role
answers 4, a session that is not the requester's answers 9, and a payload length outside the opcode's bounds answers 3. A refusal
changes nothing but the response. A sideband response goes out at once with opcode, version 1, TAG, STATUS and LENGTH of the payload;
a mailbox response waits to be posted. -/
def Obligations.AdmissionOrder : Prop :=
  (∀ (s : State) (q : Req),
    let m := q.msg
    let op := m.opcode.toNat
    ((m.payload.length < m.length ∨ q.car.limit < m.length) → s.admission q = .error 3) ∧
    (m.length ≤ m.payload.length → m.length ≤ q.car.limit →
      ((m.version ≠ 1 ∨ m.flags ≠ 0 ∨ m.status ≠ 0) → s.admission q = .error 2) ∧
      (m.version = 1 → m.flags = 0 → m.status = 0 →
        (s.inRecovery = true → recoveryOp op = false → s.admission q = .error 1) ∧
        ((s.inRecovery = false ∨ recoveryOp op = true) →
          (opSpec op = none → s.admission q = .error 1) ∧
          ∀ d, opSpec op = some d →
            (s.roleOk q d.role = false → s.admission q = .error 4) ∧
            (s.roleOk q d.role = true →
              (d.sess = true → s.namedSession q = none → s.admission q = .error 9) ∧
              (d.sess = false → m.session ≠ 0xFFFFFFFF → s.admission q = .error 2) ∧
              ((m.length < d.lo ∨ ∃ h, d.hi = some h ∧ h < m.length) →
                (d.sess = true → ∀ x, s.namedSession q = some x → s.admission q = .error 3) ∧
                (d.sess = false → m.session = 0xFFFFFFFF → s.admission q = .error 3)))))) ∧
    (∀ st, s.waiting q = true → s.admission q = .error st → op = 0x0101 → exec (.identify q) s = s.ends (s.respond q st []))) ∧
  ∀ (s : State) (q : Req) (st : Nat) (p : List Byte), p.length ≤ q.car.respLimit →
    (∀ eid, q.car = .mctp eid → (s.respond q st p).lmcs.outbox = s.lmcs.outbox ++ [(eid, leBytes 2 q.msg.opcode.toNat ++ [1, 1] ++
      leBytes 2 q.msg.tag.toNat ++ leBytes 2 st ++ leBytes 4 p.length ++ leBytes 4 q.msg.session.toNat ++ p)]) ∧
    (∀ f m, q.car = .mailbox f m → (s.lmcs.inFlight.contains q || s.lmcs.started.contains q) = true →
      (s.respond q st p).lmcs.done = s.lmcs.done ++ [⟨q, st, p⟩] ∧ (s.respond q st p).lmcs.inFlight.contains q = false)

/-- On an open mailbox: a doorbell while a request is in progress sets OVR and nothing else; one that is not the next sequence number
moves STATE to 3 with no request taken; the next number makes STATE 1 and the request is accepted. A
write of the control words gives IEN and VEC, clears OVR by a 1, and sets ABORT only in state 1 (R31; in one access: entry 115). A
response that waits is posted into the area with its sequence number and STATE 2, with an interrupt when IEN is 1.
IDENTIFY answers 64 bytes with LTID and UID; INVENTORY of a tile 128 bytes with the tile and its state, 3 for a tile that the part
lacks; CFG_GET of a known parameter in range its value in force or pending; CFG_LIST up to 200 parameters from the PID asked for;
CINCH_QUERY the three words of CINCH_STAT; CFG_EXPORT a part of the copy in force. A register window request that touches SEC, a
session store or the quota array answers 4 with no word acted on; otherwise its words are read or written in ascending order. -/
def Obligations.MailboxAndQueries : Prop :=
  (
  ∀ (s : State) (f : FnId) (m : Fin 16) (seq : BitVec 16) (msg : LmcsMsg),
    let b := s.mailbox f m.val
    (s.boxOpen f m.val = true →
      (b.state = 1 → exec (.mbDoorbell f m seq msg) s = s.ends (s.onBox f m.val fun b => { b with ovr := true })) ∧
      (b.state ≠ 1 → seq ≠ b.curSeq + 1 →
        exec (.mbDoorbell f m seq msg) s = s.ends (s.onBox f m.val fun b => { b with doorbell := seq, curSeq := seq, state := 3 })) ∧
      (b.state ≠ 1 → seq = b.curSeq + 1 → exec (.mbDoorbell f m seq msg) s =
        s.ends ((s.onBox f m.val fun b => { b with doorbell := seq, curSeq := seq, state := 1, abort := false }).accept ⟨.mailbox f m, msg⟩)) ∧
      ∀ stat ctrl : Word, ∃ t : State, exec (.mbCtrlAbort f m stat ctrl) s = s.ends t ∧
        t.mailbox f m.val = { b with ovr := b.ovr && !stat.getLsbD 2, ien := ctrl.getLsbD 0, vec := ctrl.extractLsb' 8 8
                                     abort := b.abort || (ctrl.getLsbD 1 && b.state == 1) }) ∧
    ∀ r, s.lmcs.done.find? (fun r => r.req.car == .mailbox f m) = some r → b.state = 1 →
      ∃ t : State, exec (.lmcsResponsePost f m) s = s.ends t ∧ t.lmcs.done = s.lmcs.done.erase r ∧
        (t.mailbox f m.val).state = 2 ∧ (t.mailbox f m.val).doneSeq = b.curSeq ∧
        (t.mailbox f m.val).resp = respBytes r.req r.status r.payload r.req.car.respLimit ∧
        t.host.msix = s.host.msix ++ (if b.ien then [(f, b.vec.toNat)] else [])
  ) ∧
  (
  ∀ (s : State) (q : Req),
    let b := q.body
    (Acts s q 0x0101 none → ∃ p : List Byte, exec (.identify q) s = s.ends (s.respond q 0 p) ∧ p.length = 64 ∧ leAt p 0 4 = s.ltid.toNat ∧
      slice 8 16 p = fit 16 s.fuses.uid) ∧
    (Acts s q 0x0102 none → at1 b 0 < 8 → zeroAt b 1 7 = true → ∃ p : List Byte, exec (.inventory q) s = s.ends (s.respond q 0 p) ∧
      p.length = 128 ∧ leAt p 0 1 = at1 b 0 ∧ leAt p 1 1 = s.tileState (at1 b 0) ∧ (s.hasTile (at1 b 0) = false → leAt p 1 1 = 3)) ∧
    (Acts s q 0x0901 none → ∀ d, s.paramSpec (leAt b 0 2) 0 = some d → d.lo ≤ leAt b 2 2 → leAt b 2 2 ≤ d.hi → zeroAt b 5 3 = true →
      at1 b 4 = 0 → exec (.cfgGet q) s = s.ends (s.respond q 0 (leBytes 2 (leAt b 0 2) ++ leBytes 2 (leAt b 2 2) ++ leBytes 2 d.len ++
        zeros 2 ++ leBytes d.len (s.param (leAt b 0 2) (leAt b 2 2) d.dflt)))) ∧
    (Acts s q 0x0905 none → zeroAt b 2 6 = true → ∃ p : List Byte, exec (.cfgList q) s = s.ends (s.respond q 0 p) ∧
      leAt p 0 2 = ((s.paramPids.filter fun i => leAt b 0 2 ≤ i).take 200).length) ∧
    (Acts s q 0x0906 none → exec (.cinchQuery q) s = s.ends (s.respond q 0
      (leBytes 4 (s.cinch.word 0) ++ leBytes 4 (s.cinch.word 1) ++ leBytes 4 (s.cinch.word 2) ++ zeros 4))) ∧
    (Acts s q 0x0907 none → exec (.cfgExport q) s = s.ends (s.respond q 0 (leBytes 4 s.storeCopy.length ++ zeros 4 ++
      (s.storeCopy.drop (leAt b 0 4)).take (min (leAt b 4 4) (q.car.respLimit - 8))))) ∧
    (Acts s q 0x0A01 none →
      (∀ e, s.windowRefuses b = some e → exec (.registerWindowRead q) s = s.ends (s.respond q e [])) ∧
      (s.windowRefuses b = none → ∃ (p : List Byte) (t : State), exec (.registerWindowRead q) s = s.ends (t.respond q 0 p))) ∧
    (Acts s q 0x0A02 none → b.length = 8 + 4 * leAt b 4 2 →
      (∀ e, s.windowRefuses b = some e → exec (.registerWindowWrite q) s = s.ends (s.respond q e [])) ∧
      (s.windowRefuses b = none →
        let r := s.ownFlags fun s => (List.range (leAt b 4 2)).foldl (fun (s : State) i =>
          s.busWrite .window (leAt b 0 4 + 4 * i) (BitVec.ofNat 32 (leAt b (8 + 4 * i) 4))) s
        exec (.registerWindowWrite q) s = s.ends (r.2.respond q 0 (leBytes 4 r.1 ++ zeros 4)))) ∧
    (s.windowHidden (leAt b 0 4) (leAt b 4 2) = true → leAt b 4 2 ≠ 0 → leAt b 4 2 ≤ 128 → leAt b 0 4 % 4 = 0 →
      leAt b 0 4 + 4 * leAt b 4 2 ≤ 0x100000000 → zeroAt b 6 2 = true → s.windowRefuses b = some 4)
  )

/-- CFG_STAGE with a faulty entry answers that entry's index and status and stages nothing, and otherwise stages every entry for its
carrier; CFG_DISCARD drops the carrier's pending values and no other carrier's; CFG_COMMIT with nothing pending answers the sequence
in force, during a cinch it answers 7, and with the store failing 8002h, each with the values in force unchanged; with the store
written both copies hold the new body, the pending set is gone and a cinch has started, the answer coming later. CFG_IMPORT outside
configuration loss answers 8003h; in it, a whole copy that checks replaces the pending set. -/
def Obligations.ConfigurationMessages : Prop :=
  ∀ (s : State) (q : Req),
    let b := q.body
    let mine := (s.lmcs.pending.filter fun p => p.1.same q.car).map fun p => p.2
    let others := s.lmcs.pending.filter fun p => !p.1.same q.car
    (Acts s q 0x0902 none → zeroAt b 2 6 = true → ∀ es, stageEntries (leAt b 0 2) (b.drop 8) = some es →
      (∀ i st, s.stageFault 0 es = some (i, st) → exec (.cfgStage q) s = s.ends (s.respond q st (leBytes 2 i ++ zeros 6))) ∧
      (s.stageFault 0 es = none → ∃ t : State, exec (.cfgStage q) s = s.ends (t.respond q 0 []) ∧
        t = { s with lmcs := { s.lmcs with pending := t.lmcs.pending } } ∧
        (∀ e, es.getLast? = some e → (q.car, e.1, e.2.1, e.2.2.2.1) ∈ t.lmcs.pending))) ∧
    (Acts s q 0x0904 none → zeroAt b 0 8 = true →
      exec (.cfgDiscard q) s = s.ends ({ s with lmcs := { s.lmcs with pending := others } }.respond q 0 [])) ∧
    (Acts s q 0x0903 none → zeroAt b 0 8 = true →
      (mine = [] → s.cfg.imported = none → ∀ ok, exec (.cfgCommit q ok) s = s.ends (s.respond q 0
        (leBytes 8 (if s.cfg.inForce1 then s.cfg.copy1 else s.cfg.copy0).seq ++ leBytes 2 s.cinch.cur.toNat ++ zeros 6))) ∧
      (mine ≠ [] → (s.cinch.pending || s.cinch.retained) = true → ∀ ok, exec (.cfgCommit q ok) s = s.ends (s.respond q 7 [])) ∧
      (mine ≠ [] → s.cfg.imported = none → (s.cinch.pending || s.cinch.retained) = false →
        let body := s.applyParams s.cfg.body mine
        let value (pid dflt : Nat) : Nat := ((body.params.find? fun p => p.1 == pid).map fun p => p.2.2).getD dflt
        value 0x12 512 + 128 ≤ value 0x13 768 →
        (∃ t : State, exec (.cfgCommit q false) s = s.ends (t.respond q 0x8002 []) ∧ t = { s with logs := t.logs }) ∧
        ∃ t : State, exec (.cfgCommit q true) s = s.ends { (t.stageParams.cinchGo).pairSync s.pairDigest with lmcs :=
            { ((t.stageParams.cinchGo).pairSync s.pairDigest).lmcs with
              inFlight := ((t.stageParams.cinchGo).pairSync s.pairDigest).lmcs.inFlight.filter (fun y => y != q)
              started := ((t.stageParams.cinchGo).pairSync s.pairDigest).lmcs.started ++ [q] } } ∧
          t.cfg.body = body ∧ t.cfg.copy0.body = body ∧ t.cfg.copy1.body = body ∧ t.lmcs.pending = others ∧
          t = { s with cfg := t.cfg, lmcs := t.lmcs })) ∧
    (Acts s q 0x0908 none →
      (s.cfg.loss = false → exec (.cfgImport q) s = s.ends (s.respond q 0x8003 [])) ∧
      ∀ c t, s.cfg.loss = true → s.takePart q = .ok (c, t) → copyChecks c = true → exec (.cfgImport q) s =
        s.ends ({ t with cfg := { t.cfg with imported := some (Config.storeRead (c.drop 64)) }
                         lmcs := { t.lmcs with pending := t.lmcs.pending.filter fun p => !p.1.same q.car } }.respond q 0 []))

/-- GO with no cinch under way makes PEND the next epoch, PENDING 1 and MASK the islands that are absent or off, and copies the staged RWS
values to the pending slot; while a cinch is pending or retained it sets REJ and changes nothing else. An island that adopts sets its
MASK bit; the last one makes CUR the pending epoch and its values those in force, and RETAINED stays while a tracked command carries
the old epoch. A stall sets STALL and the log only. -/
def Obligations.CinchRule : Prop :=
  (∀ s : State,
    ((s.cinch.pending || s.cinch.retained) = true → s.cinchGo = { s with cinch := { s.cinch with rej := true } }) ∧
    ((s.cinch.pending || s.cinch.retained) = false → s.cinchGo = { s with
      regs := { s.regs with effPend := s.regs.cells.filter fun x => s.isRws x.1 }
      cinch := { s.cinch with pend := s.cinch.cur + 1, pending := true, mask := s.offMask } }) ∧
    (∀ i, i < 52 → (s.offMask.getLsbD i = true ↔ s.islandOn i = false)) ∧
    (∀ w : Fin 9, s.cinchAsks [w] w.val = true →
      exec (.cinchGo [w]) s = s.ends ({ s with cinch := { s.cinch with ptr := (w.val + 1) % 9 } } : State).cinchGo) ∧
    (s.cinch.pending = true → ∃ t : State, exec .cinchStall s = s.ends t ∧ t.cinch = { s.cinch with stall := true } ∧
      t = { s with cinch := t.cinch, logs := t.logs })) ∧
  ∀ (s : State) (i : Fin 52), s.cinch.pending = true → s.cinch.mask.getLsbD i.val = false →
    ∃ t : State, exec (.islandAdopt i) s = s.ends t ∧
      (s.cinch.mask ||| BitVec.twoPow 52 i.val ≠ BitVec.allOnes 52 →
        t = { s with cinch := { s.cinch with mask := s.cinch.mask ||| BitVec.twoPow 52 i.val } }) ∧
      (s.cinch.mask ||| BitVec.twoPow 52 i.val = BitVec.allOnes 52 → s.cfg.commit = none → s.lmcs.started = [] →
        t.cinch.cur = s.cinch.pend ∧ t.cinch.pending = false ∧ t.regs.eff = s.regs.effPend ∧
        (t.cinch.retained = true ↔ ∃ k ∈ s.host.tracks, k.epoch = s.cinch.cur))

/-- A write that starts no command, to a register other than the first of its block: an RW or RWS register takes the bits of its mask and
keeps the others, W1C clears the bits written as 1, W1S sets them, and an RO register keeps its value. An access that is no aligned
word sets SIZE, one outside every block, to a block that is off or, but for the package steward, to SEC sets UNDEC, and a drain-only
register whose scope is not drained sets BUSYWR, each with nothing else changed but DECERR_ADDR, which the first such access takes. -/
def Obligations.RegisterWriteRule : Prop :=
  (∀ (s : State) (w : Fin 9) (a v : Word),
    let who := stewardOf w
    (a.toNat % 4 ≠ 0 → exec (.registerWrite w a v) s = s.ends (s.decErr a.toNat 1)) ∧
    (a.toNat % 4 = 0 → s.arrayWord a.toNat = none →
      (blockAt s.n a.toNat = none → exec (.registerWrite w a v) s = s.ends (s.decErr a.toNat 0)) ∧
      ∀ b off, blockAt s.n a.toNat = some (b, off) →
        ((s.blockOn b = false ∨ (b = .sec ∧ who ≠ .package)) → exec (.registerWrite w a v) s = s.ends (s.decErr a.toNat 0)) ∧
        (s.blockOn b = true → (b ≠ .sec ∨ who = .package) →
          (s.drainBusy b off = true → exec (.registerWrite w a v) s = s.ends (s.decErr a.toNat 2)) ∧
          (s.drainBusy b off = false → s.commandWrite who b off v = none → off ≠ 0 → ∀ d, b.desc off = some d →
            let old := s.rd b off
            let inv := 0xFFFFFFFF - d.mask
            exec (.registerWrite w a v) s = s.ends (match d.acc with
              | .rw | .rws => s.wr b off ((old &&& inv) ||| (v.toNat &&& d.mask))
              | .w1c => s.wr b off (old &&& (0xFFFFFFFF - (v.toNat &&& d.mask)))
              | .w1s => s.wr b off (old ||| (v.toNat &&& d.mask))
              | _ => s)))) ∧
    (exec (.drainOnlyRegisterWrite a v) s = exec (.registerWrite 0 a v) s) ∧
    (∀ n isw, (n ≠ 4 ∨ a.toNat % 4 ≠ 0) → exec (.undecodedAccess a n isw) s = s.ends (s.decErr a.toNat 1)) ∧
    (∀ isw, a.toNat % 4 = 0 → s.arrayWord a.toNat = none → blockAt s.n a.toNat = none →
      exec (.undecodedAccess a 4 isw) s = s.ends (s.decErr a.toNat 0))) ∧
  ∀ (s : State) (a bit : Nat), bit < 3 → a < 2 ^ 32 →
    (s.decErr a bit).rdField .glb 0x120 bit bit = 1 ∧
    (s.rd .glb 0x120 % 8 = 0 → (s.decErr a bit).rd .glb 0x124 = a) ∧
    (s.rd .glb 0x120 % 8 ≠ 0 → (s.decErr a bit).rd .glb 0x124 = s.rd .glb 0x124)

/-- LOG_READ gives the platform owner, or for logs 0 and 2 the sideband, up to 60 entries from the number asked for, gives a function its
own log, and answers 4 to anyone else. COUNTERS gives every counter register of REIN or of a tile in order, those of clock cycles being
free values, and answers 2 for a tile that the part lacks. The health poll sends critical warning, temperature, wear and spare. The
snapshot is taken while BAR4 is enabled. A crossed temperature sets TSENS and then Critical Warning bit 1, or clears it 2 °C below.
A request of another version than its own is answered VersionMismatch, one before its place in the connection UnexpectedRequest, one too
short InvalidRequest, an unknown code UnsupportedRequest, with nothing changed. GET_VERSION opens a connection and lists 1.3 only;
GET_CAPABILITIES and NEGOTIATE_ALGORITHMS advance it; GET_DIGESTS gives SHA3-512 of the chain; GET_CERTIFICATE bytes of it; CHALLENGE and
signed GET_MEASUREMENTS are signed, or Unspecified while the key is cleared; CHUNK_GET gives a large response piece by piece;
RESPOND_IF_READY gives a deferred one. -/
def Obligations.ReportsAndSpdm : Prop :=
  (
  (∀ (s : State) (q : Req), Acts s q 0x0701 none → at1 q.body 3 = 0 → s.boot.recovery = false → s.boot.startFailed = false →
    let b := q.body
    let entries (es : List LogEntry) : List Byte := ((es.filter fun e => leAt b 4 8 ≤ e.seq).take 60).flatMap LogEntry.bytes
    let out (p : List Byte) : Prop := exec (.logRead q) s = s.ends (s.respond q 0 p)
    ((s.isOwner q.car = true ∨ q.car.fn = none) →
      (at1 b 0 = 0 → out (entries s.eventLog)) ∧
      (at1 b 0 = 2 → out (((s.logs.retired.filter fun r => leAt b 4 8 ≤ r.seq).take 60).flatMap Retired.bytes))) ∧
    (∀ c ∈ s.host.ctrls, leAt b 1 2 = c.fn.port.val * 32768 + c.fn.num.val → at1 b 0 = 1 →
      (s.isOwner q.car = true ∨ q.car.fn = some c.fn) → out (entries (s.funcLog c.fn))) ∧
    (s.isOwner q.car = false → ∀ f, q.car.fn = some f → at1 b 0 ≤ 2 →
      (at1 b 0 = 1 → leAt b 1 2 ≠ f.port.val * 32768 + f.num.val) → exec (.logRead q) s = s.ends (s.respond q 4 []))) ∧
  (∀ (s : State) (q : Req), Acts s q 0x0702 none →
    (at1 q.body 0 = 8 → exec (.counters q) s = s.ends (s.respond q 0
      (Block.rein.counters.flatMap fun o => leBytes 4 (s.reg (regAddr .rein o)).toNat))) ∧
    (at1 q.body 0 ≠ 8 → s.hasTile (at1 q.body 0) = true → ∃ (p : List Byte) (t : State),
      exec (.counters q) s = s.ends (t.respond q 0 p) ∧ t = { s with free := t.free } ∧ p.length = 484 ∧
      p.take 448 = ((counterBlocks (at1 q.body 0)).dropLast.flatMap fun x =>
        x.counters.flatMap fun o => leBytes 4 (s.reg (regAddr x o)).toNat)) ∧
    (at1 q.body 0 ≠ 8 → s.hasTile (at1 q.body 0) = false → exec (.counters q) s = s.ends (s.respond q 2 []))) ∧
  (∀ (s : State) (eid : Byte), ∃ p : List Byte, p.length = 4 ∧ leAt p 0 1 = s.logs.critical % 256 ∧
    leAt p 1 1 = (BitVec.ofInt 8 (s.composite / 8)).toNat ∧ leAt p 2 1 = s.percentUsed % 256 ∧ leAt p 3 1 = s.availableSpare % 256 ∧
    exec (.nvmeMiHealthPoll eid) s = s.ends { s with lmcs := { s.lmcs with outbox := s.lmcs.outbox ++ [(eid, p)] } }) ∧
  (∀ s : State,
    (s.param 2 0 0 = 1 → ∃ t : State, exec .bar4SnapshotRefresh s = s.ends t ∧ t.logs.snapshot.length = 996 ∧
      t = { s with free := t.free, logs := { s.logs with snapshot := t.logs.snapshot } } ∧
      t.logs.snapshot.drop 968 = Block.rein.counters.map fun o => s.reg (regAddr .rein o)) ∧
    (s.param 2 0 0 ≠ 1 → exec .bar4SnapshotRefresh s = s.ends s)) ∧
  ∀ (s : State) (t : TileId) (e : BitVec 12),
    (s.hasTile t = false → exec (.temperatureThresholdCrossed t e) s = s.ends s) ∧
    (s.hasTile t = true →
      let s1 := s.wr (.pwr t) 0x018 e.toNat
      s1.tempOf t = e.toInt ∧
      (s1.tempLimit < s1.composite → bitN s.logs.critical 1 = false → ∃ u : State,
        exec (.temperatureThresholdCrossed t e) s = s.ends (u.raise 1 1 2) ∧
        u = { s1 with logs := { s.logs with critical := s.logs.critical + 2 } }) ∧
      (s1.composite ≤ s1.tempLimit - 16 → bitN s.logs.critical 1 = true → exec (.temperatureThresholdCrossed t e) s =
        s.ends { s1 with logs := { s.logs with critical := s.logs.critical - 2 } }) ∧
      (s1.composite ≤ s1.tempLimit → bitN s.logs.critical 1 = false →
        exec (.temperatureThresholdCrossed t e) s = s.ends s1))
  ) ∧
  (
  ∀ (s : State) (q : Req), Acts s q 0x0830 none →
    let p := q.body
    let x := s.spdmOf q.car
    let y : Spdm := { x with msgL := [] }
    let room (n : Nat) : Nat := min q.car.respLimit (if n = 0 then q.car.respLimit else n)
    let err (code : Nat) : List Byte := [0x13, 0x7F, BitVec.ofNat 8 code, 0]
    let out (t : State) (r : List Byte) : Out := s.ends (t.respond q 0 r)
    let forms : List (Instr × Nat × Nat × Nat) :=
      [(.getVersion q, 0x84, 0, 4), (.getCapabilities q, 0xE1, 1, 20), (.negotiateAlgorithms q, 0xE3, 2, 32), (.getDigests q, 0x81, 3, 4),
       (.getCertificate q, 0x82, 3, 8), (.challenge q, 0x83, 3, 44), (.getMeasurements q, 0xE0, 3, 4), (.chunkGet q, 0x86, 3, 6),
       (.respondIfReady q, 0xFF, 3, 4)]
    (∀ f ∈ forms, at1 p 1 = f.2.1 →
      let version := if f.2.1 = 0x84 then 0x10 else 0x13
      (at1 p 0 ≠ version → exec f.1 s = out s (err 0x41)) ∧
      (at1 p 0 = version → x.stage < f.2.2.1 → exec f.1 s = out s (err 0x04)) ∧
      (at1 p 0 = version → f.2.2.1 ≤ x.stage → p.length < f.2.2.2 → exec f.1 s = out s (err 0x01))) ∧
    ((∀ f ∈ forms, at1 p 1 ≠ f.2.1) → exec (.spdmUnsupportedRequest q) s = out s (err 0x07)) ∧
    (at1 p 0 = 0x10 → at1 p 1 = 0x84 → 4 ≤ p.length → ∃ t : State, exec (.getVersion q) s = out t [0x10, 0x04, 0, 0, 0, 1, 0x00, 0x13] ∧
      (t.spdmOf q.car).stage = 1 ∧ (t.spdmOf q.car).large = none ∧ t = { s with ident := { s.ident with spdm := t.ident.spdm } }) ∧
    (at1 p 0 = 0x13 → 1 ≤ x.stage → at1 p 1 = 0xE1 → 20 ≤ p.length → 42 ≤ leAt p 12 4 → ∃ (t : State) (r : List Byte),
      exec (.getCapabilities q) s = out t r ∧ r.length = 20 ∧ leAt r 8 4 = 0x20036 ∧ leAt r 12 4 = q.car.respLimit ∧ leAt r 16 4 = 16384 ∧
      (t.spdmOf q.car).stage = 2 ∧ (t.spdmOf q.car).dts = leAt p 12 4 ∧ t = { s with ident := { s.ident with spdm := t.ident.spdm } }) ∧
    (at1 p 0 = 0x13 → 2 ≤ x.stage → at1 p 1 = 0xE3 → 32 ≤ p.length → 40 ≤ room x.dts → ∃ (t : State) (r : List Byte),
      exec (.negotiateAlgorithms q) s = out t r ∧ r.length = 40 ∧ leAt r 1 1 = 0x63 ∧ (t.spdmOf q.car).stage = 3 ∧
      t = { s with ident := { s.ident with spdm := t.ident.spdm } }) ∧
    (at1 p 0 = 0x13 → 3 ≤ x.stage →
      (at1 p 1 = 0x81 → 4 ≤ p.length → 68 ≤ room x.dts →
        let r := [0x13, 0x01, 1, 1] ++ sha3_512 s.fuses.chain
        exec (.getDigests q) s = out (s.setSpdm { y with msgB := x.msgB ++ p ++ r, large := none }) r) ∧
      (at1 p 1 = 0x82 → 8 ≤ p.length → at1 p 2 % 16 = 0 → leAt p 4 2 < s.fuses.chain.length → leAt p 6 2 + 8 ≤ room x.dts →
        let part := (s.fuses.chain.drop (leAt p 4 2)).take (leAt p 6 2)
        let r := [0x13, 0x02, 0, 0] ++ leBytes 2 part.length ++ leBytes 2 (s.fuses.chain.length - leAt p 4 2 - part.length) ++ part
        exec (.getCertificate q) s = out (s.setSpdm { y with msgB := x.msgB ++ p ++ r, large := none }) r) ∧
      (at1 p 1 = 0x83 → 44 ≤ p.length → at1 p 2 = 0 →
        (s.ident.signing = false → ∃ t : State, exec (.challenge q) s = out t (err 0x05) ∧ t = { s with free := t.free }) ∧
        (s.ident.signing = true → 4096 ≤ room x.dts → ∃ (t : State) (r g : List Byte), exec (.challenge q) s = out t (r ++ g) ∧
          leAt r 0 4 = 0x01000313 ∧ slice 4 64 r = sha3_512 s.fuses.chain ∧ g.length = 3309 ∧ (t.spdmOf q.car).msgB = [] ∧
          t = { s with free := t.free, ident := { s.ident with spdm := t.ident.spdm } })) ∧
      (at1 p 1 = 0xE0 → 45 ≤ p.length →
        (at1 p 3 = 0 → bitN (at1 p 2) 0 = false → 50 ≤ room x.dts → ∃ (t : State) (r : List Byte), exec (.getMeasurements q) s = out t r ∧
          r.length = 50 ∧ leAt r 2 1 = 9 ∧ leAt r 4 4 = 0 ∧ (t.spdmOf q.car).msgL = x.msgL ++ p ++ r) ∧
        (at1 p 3 = 1 → bitN (at1 p 2) 0 = false → 200 ≤ room x.dts → ∃ (t : State) (r : List Byte),
          exec (.getMeasurements q) s = out t r ∧ leAt r 4 1 = 1 ∧
          slice 8 71 r = [1, 1, 67, 0, 0, 64, 0] ++ sha3_512 s.fuses.rom) ∧
        (at1 p 3 ≤ 9 ∨ at1 p 3 = 0xFF → bitN (at1 p 2) 0 = true → s.ident.signing = false →
          ∃ t : State, exec (.getMeasurements q) s = out t (err 0x05) ∧ t = { s with free := t.free }) ∧
        (9 < at1 p 3 → at1 p 3 ≠ 0xFF → ∃ t : State, exec (.getMeasurements q) s = out t (err 0x01) ∧ t = { s with free := t.free })) ∧
      (at1 p 1 = 0x86 → 6 ≤ p.length →
        (x.large = none → exec (.chunkGet q) s = out s (err 0x04)) ∧
        ∀ h b n, x.large = some (h, b, n) →
          ((at1 p 3 ≠ h ∨ leAt p 4 2 ≠ n) → exec (.chunkGet q) s = out s (err 0x01)) ∧
          (at1 p 3 = h → leAt p 4 2 = n →
            let size := if n = 0 then room x.dts - 16 else room x.dts - 12
            let last : Bool := decide (b.drop size = [])
            exec (.chunkGet q) s = out (s.setSpdm { x with large := if last then none else some (h, b.drop size, n + 1) })
              ([0x13, 0x06, if last then 1 else 0] ++ leBytes 1 h ++ leBytes 2 n ++ [0, 0] ++ leBytes 4 (b.take size).length ++
                (if n = 0 then leBytes 4 b.length else []) ++ b.take size))) ∧
      (at1 p 1 = 0xFF → 4 ≤ p.length →
        (x.deferred = none → exec (.respondIfReady q) s = out s (err 0x04)) ∧
        ∀ code tok r, x.deferred = some (code, tok, r) →
          ((code ≠ at1 p 2 ∨ tok ≠ at1 p 3) → exec (.respondIfReady q) s = out s (err 0x01)) ∧
          (code = at1 p 2 → tok = at1 p 3 → r.length ≤ room x.dts →
            exec (.respondIfReady q) s = out (s.setSpdm { y with deferred := none, large := none }) r)))
  )

/-- CERT_GET gives bytes of the chain. OWNER_CHALLENGE gives an instance one fresh 32-byte nonce. OWNER_PROVE, whole, consumes it: a
signature by the owner key over nonce, UID and carrier gives the role, another answers 8002h, no nonce 8003h, no owner 4.
OWNER_RELEASE drops the role, the pending set and the staging area. OWNER_ENROLL puts a key into the next entry of a unit without one
in use, 8004h otherwise; OWNER_TRANSFER, signed, spends the current entry and uses the next. A fuse step that fails answers 8007h.
OWNER_NONCE_EXPIRY forgets the nonce. Nothing else changes.
FW_STAGE writes into a free or own staging area within its size, 5 when another instance holds it, 2 beyond its size. FW_COMMIT without
a whole staged image answers 8006h; of a bad image 8001h with the failing step and the area released; of a valid one, both copies of
the slot that is not running take it with the running SEQ + 1, the running slot keeps its copies, and activation 2 of the same major
version makes it the running image. FW_QUERY gives 24 bytes. FW_ADVANCE raises F to the running image's SVN and never lowers it. The
timeout releases the area. -/
def Obligations.OwnershipAndFirmware : Prop :=
  (
  (∀ (s : State) (q : Req),
    let b := q.body
    let gone (t : State) : List (Carrier × List Byte × Nat) := t.lmcs.nonces.filter fun x => !x.1.same q.car
    (Acts s q 0x0801 none → exec (.certGet q) s = s.ends (s.respond q 0 ((s.fuses.chain.drop (leAt b 0 4)).take (leAt b 4 4)))) ∧
    (Acts s q 0x0810 none → ∃ (n : List Byte) (t : State), exec (.ownerChallenge q) s = s.ends (t.respond q 0 n) ∧ n.length = 32 ∧
      t = { s with free := t.free, lmcs := { s.lmcs with nonces := gone s ++ [(q.car, n, s.now)] } }) ∧
    (Acts s q 0x0811 none → ∀ sig s1, s.assemble q 3309 = .ok (sig, s1) →
      let s2 : State := { s1 with lmcs := { s1.lmcs with nonces := gone s1 } }
      (s1.ownerEntry = none → exec (.ownerProve q) s = s.ends (s2.respond q 4 [])) ∧
      ∀ i k, s1.ownerEntry = some (i, k) →
        ((s1.lmcs.nonces.find? fun x => x.1.same q.car) = none → exec (.ownerProve q) s = s.ends (s2.respond q 0x8003 [])) ∧
        ∀ n, (s1.lmcs.nonces.find? fun x => x.1.same q.car) = some n →
          let good := Config.mldsaVerify k (ascii "LTROWN") (n.2.1 ++ fit 16 s1.fuses.uid ++ carrierIdent q.car) sig
          (good = false → exec (.ownerProve q) s = s.ends (s2.respond q 0x8002 [])) ∧
          (good = true → ∃ t : State, exec (.ownerProve q) s = s.ends (t.respond q 0 []) ∧ t.isOwner q.car = true ∧
            t = { s2 with lmcs := { s2.lmcs with owners := t.lmcs.owners } } ∧
            ∀ c : Carrier, c.same q.car = false → t.isOwner c = s1.isOwner c)) ∧
    (Acts s q 0x0812 none → ∃ t : State, exec (.ownerRelease q) s = s.ends (t.respond q 0 []) ∧ t.isOwner q.car = false ∧
      (∀ p ∈ t.lmcs.pending, p.1.same q.car = false) ∧ (∀ g, t.ident.staging = some g → g.holder.same q.car = false) ∧
      (∀ c : Carrier, c.same q.car = false → t.isOwner c = s.isOwner c) ∧
      t = { s with lmcs := { s.lmcs with owners := t.lmcs.owners, pending := t.lmcs.pending }
                   ident := { s.ident with staging := t.ident.staging } }) ∧
    (Acts s q 0x0813 none → ∀ p s1 ok, s.assemble q 1952 = .ok (p, s1) →
      (s1.ownerEntry ≠ none → exec (.ownerEnroll q ok) s = s.ends (s1.respond q 0x8004 [])) ∧
      (s1.ownerEntry = none → s1.freeOwner = none → exec (.ownerEnroll q ok) s = s.ends (s1.respond q 0x8005 [])) ∧
      ∀ i, s1.ownerEntry = none → s1.freeOwner = some i →
        (ok = true → exec (.ownerEnroll q ok) s = s.ends ((s1.setOwner i (.inUse p)).respond q 0 [])) ∧
        (ok = false → ∃ t : State, exec (.ownerEnroll q ok) s = s.ends (t.respond q 0x8007 []) ∧ t.fuses = (s1.setOwner i .spent).fuses ∧
          t = { s1 with fuses := t.fuses, logs := t.logs })) ∧
    (Acts s q 0x0814 none → ∀ p s1 ok, s.assemble q 5261 = .ok (p, s1) →
      let pub := slice 0 1952 p
      (s1.freeOwner = none → exec (.ownerTransfer q ok) s = s.ends (s1.respond q 0x8005 [])) ∧
      (s1.freeOwner ≠ none → s1.ownerEntry = none → exec (.ownerTransfer q ok) s = s.ends (s1.respond q 4 [])) ∧
      ∀ i k j, s1.ownerEntry = some (i, k) → s1.freeOwner = some j →
        let good := Config.mldsaVerify k [] (ascii "LTRXFR" ++ fit 16 s1.fuses.uid ++ keyDigest pub) (slice 1952 3309 p)
        (good = false → exec (.ownerTransfer q ok) s = s.ends (s1.respond q 0x8002 [])) ∧
        (good = true → ok = true →
          exec (.ownerTransfer q ok) s = s.ends (((s1.setOwner i .spent).setOwner j (.inUse pub)).respond q 0 [])) ∧
        (good = true → ok = false → ∃ t : State, exec (.ownerTransfer q ok) s = s.ends (t.respond q 0x8007 []) ∧
          t.fuses = ((s1.setOwner i .spent).setOwner j .spent).fuses ∧ t = { s1 with fuses := t.fuses, logs := t.logs }))) ∧
  (∀ (s : State) (q : Req) (n : Nat), n ≤ q.car.limit → q.body.length = n → s.assemble q n = .ok (q.body, s)) ∧
  ∀ (s : State) (c : Carrier), exec (.ownerNonceExpiry c) s =
      s.ends { s with lmcs := { s.lmcs with nonces := s.lmcs.nonces.filter fun x => !x.1.same c } } ∧
    exec (.debugNonceExpiry c) s =
      s.ends { s with lmcs := { s.lmcs with debugNonces := s.lmcs.debugNonces.filter fun x => !x.1.same c } }
  ) ∧
  (
  (∀ (s : State) (q : Req),
    let b := q.body
    (Acts s q 0x0820 none → zeroAt b 4 4 = true →
      let off := leAt b 0 4
      let bytes := b.drop 8
      (s.ident.staging = none → 8396800 < off + bytes.length → exec (.fwStage q) s = s.ends (s.respond q 2 [])) ∧
      (s.ident.staging = none → off + bytes.length ≤ 8396800 → exec (.fwStage q) s = s.ends ({ s with ident := { s.ident with
        staging := some ⟨q.car, zeros off ++ bytes, [(off, off + bytes.length)], s.now⟩ } }.respond q 0 [])) ∧
      ∀ g, s.ident.staging = some g →
        (g.holder.same q.car = false → exec (.fwStage q) s = s.ends (s.respond q 5 [])) ∧
        (g.holder.same q.car = true → off + bytes.length ≤ 8396800 → ∃ (t : State) (h : FwStaging),
          exec (.fwStage q) s = s.ends (t.respond q 0 []) ∧ t = { s with ident := { s.ident with staging := some h } } ∧
          h.holder = g.holder ∧ h.last = s.now ∧ h.parts = g.parts ++ [(off, off + bytes.length)])) ∧
    (Acts s q 0x0821 none → at1 b 0 ≤ 2 → zeroAt b 1 7 = true →
      (s.ident.staging = none → exec (.fwCommit q) s = s.ends (s.respond q 0x8006 [])) ∧
      (∀ g, s.ident.staging = some g → g.holder.same q.car = false → exec (.fwCommit q) s = s.ends (s.respond q 5 [])) ∧
      ∀ m, s.stagedImage q.car = some m →
        let s0 : State := { s with ident := { s.ident with staging := none } }
        (∀ k, s.imageStep m = some k → exec (.fwCommit q) s = s.ends (s0.respond q 0x8001 (leBytes 1 k))) ∧
        (s.imageStep m = none → s.boot.recovery = false → ∀ run, s.ident.slot = some run → run < 2 →
          let copy : FwCopy := ⟨m, some ((s.slotSeq run).getD 0 + 1)⟩
          let same : Bool := decide (imageMajor m = imageMajor s.ident.image)
          (∃ t : State, exec (.fwCommit q) s = s.ends (t.respond q 0 []) ∧ t.slotCopies (1 - run) = (copy, copy) ∧
            t.slotCopies run = s.slotCopies run ∧ t.fuses = s.fuses ∧ t.ident.staging = none ∧
            ((at1 b 0 ≠ 2 ∨ same = false) → t.ident.image = s.ident.image ∧ t.ident.slot = some run ∧
              (t.ident.nextReset = true ↔ at1 b 0 ≠ 0)) ∧
            (at1 b 0 = 2 → same = true → t.ident.image = m ∧ t.ident.slot = some (1 - run) ∧ t.ident.nextReset = false)))) ∧
    (Acts s q 0x0822 none → ∃ p : List Byte, exec (.fwQuery q) s = s.ends (s.respond q 0 p) ∧ p.length = 24 ∧
      leAt p 22 1 = s.fuses.rollback % 256 ∧ leAt p 23 1 = s.ident.slot.getD 0xFF % 256) ∧
    (Acts s q 0x0823 none → ∀ ok,
      let svn := min 128 (at1 s.ident.image 6)
      (svn ≤ s.fuses.rollback → exec (.fwAdvance q ok) s = s.ends (s.respond q 0 [])) ∧
      (s.fuses.rollback < svn → ok = true →
        exec (.fwAdvance q ok) s = s.ends ({ s with fuses := { s.fuses with rollback := svn } }.respond q 0 [])) ∧
      (s.fuses.rollback < svn → ok = false → ∃ t : State, exec (.fwAdvance q ok) s = s.ends (t.respond q 0x8007 []) ∧
        t = { s with logs := t.logs }))) ∧
  ∀ s : State, exec .fwStagingTimeout s = s.ends { s with ident := { s.ident with staging := none } }
  )

/-- DEBUG_NONCE gives an instance one fresh nonce. DEBUG_UNLOCK of a token that does not name this unit answers 8002h, of one with another
nonce 8003h, and of one that names both and carries a release or owner signature opens its scopes with every key slot emptied, the
store locked and the signing key cleared. ALARM does the same zeroing, counts the alarm in the fuses, sets the sensor's bit and the
reliability warning. -/
def Obligations.DebugAndAlarms : Prop :=
  (∀ (s : State) (q : Req),
    (Acts s q 0x0840 none → ∃ (n : List Byte) (t : State), exec (.debugNonce q) s = s.ends (t.respond q 0 n) ∧ n.length = 32 ∧
      t = { s with free := t.free
                   lmcs := { s.lmcs with debugNonces := s.lmcs.debugNonces.filter (fun x => !x.1.same q.car) ++ [(q.car, n, s.now)] } }) ∧
    (Acts s q 0x0841 none → ∀ p s1, s.assemble q 3373 = .ok (p, s1) →
      let s2 : State := { s1 with lmcs := { s1.lmcs with debugNonces := s1.lmcs.debugNonces.filter fun x => !x.1.same q.car } }
      let scope := at1 p 5
      leAt p 0 4 = 0x4742444C → at1 p 4 ≤ 1 → scope < 8 → zeroAt p 6 10 = true → (bitN scope 2 = true → at1 p 4 = 0) →
        (slice 16 16 p ≠ fit 16 s1.fuses.uid → exec (.debugUnlock q) s = s.ends (s2.respond q 0x8002 [])) ∧
        (slice 16 16 p = fit 16 s1.fuses.uid →
          ((∀ x ∈ s1.lmcs.debugNonces, x.1.same q.car = true → x.2.1 ≠ slice 32 32 p) →
            exec (.debugUnlock q) s = s.ends (s2.respond q 0x8003 [])) ∧
          ∀ n k, (s1.lmcs.debugNonces.find? fun x => x.1.same q.car) = some n → n.2.1 = slice 32 32 p →
            ((at1 p 4 = 0 ∧ (k, false) ∈ s1.fuses.fwKeys) ∨ (at1 p 4 = 1 ∧ ∃ i, s1.ownerEntry = some (i, k))) →
            Config.mldsaVerify k (ascii "LTRDBG") (slice 0 64 p) (slice 64 3309 p) = true →
            ∃ t : State, exec (.debugUnlock q) s = s.ends (t.respond q 0 []) ∧ t.ident.debug = s1.ident.debug ||| scope ∧
              t.keys.slots = [] ∧ t.keysLocked = true ∧ t.ident.signing = false ∧ t.fuses = s1.fuses))) ∧
  ∀ (s : State) (x : Sensor), ∃ t : State, exec (.alarm x) s = s.ends t ∧ t.keys.slots = [] ∧ t.keys.kw = List.replicate 8 0 ∧
    t.keysLocked = true ∧ t.ident.signing = false ∧ t.fuses = { s.fuses with alarms := min 0xFFFFFFFF (s.fuses.alarms + 1) } ∧
    bitN (t.rd .sec 0x044) (sensorBit x) = true ∧ bitN t.logs.critical 2 = true ∧
    (∀ u ∈ t.tiles.toList, u.xtsA.cache = [] ∧ u.xtsB.cache = []) ∧ (∀ n ∈ t.ns, n.keyLost = true)

/-- With PAIR_EN 0, or without a binding where one is needed, each message but PAIR_QUERY answers 8001h. PAIR_QUERY gives 32 bytes; PAIR_BIND
keeps the peer, PAIR_UNBIND drops it; NS_MIRROR keeps role and policy, 8003h against a paired primary; NS_UNMIRROR drops them, 5 while a
change is in progress; TAKEOVER on the secondary of an absent peer applies what is pending, makes it primary and starts a new term;
SPLIT_RESOLVE needs a split and a paired link; NS_STATE gives 32 bytes; LANE_RESTORE clears the retirements. A store that fails answers 8
and changes nothing but the log. -/
def Obligations.MirrorMessages : Prop :=
  (∀ (s : State) (q : Req),
    let b := q.body
    let nsid := leAt b 0 4
    let no (i : Instr) (st : Nat) : Prop := exec i s = s.ends (s.respond q st [])
    let lost (i : Instr) : Prop := ∃ t : State, exec i s = s.ends (t.respond q 8 []) ∧ t = { s with logs := t.logs }
    (∀ f ∈ ([(.pairUnbind q true, 0x0603), (.nsMirror q true, 0x0604), (.nsUnmirror q true, 0x0605), (.takeover q, 0x0606),
        (.splitResolve q, 0x0607), (.nsState q, 0x0608)] : List (Instr × Nat)), Acts s q f.2 none →
      (s.boot.pairEn = false ∨ s.cfg.body.pair = none) → no f.1 0x8001) ∧
    (∀ f ∈ ([(.pairBind q true, 0x0602), (.laneRestore q true, 0x0609)] : List (Instr × Nat)), Acts s q f.2 none →
      s.boot.pairEn = false → no f.1 0x8001) ∧
    (Acts s q 0x0601 none → ∃ p : List Byte, exec (.pairQuery q) s = s.ends (s.respond q 0 p) ∧ p.length = 32 ∧ leAt p 0 1 = s.link ∧
      slice 8 16 p = fit 16 ((s.cfg.body.pair.map fun p => p.peer).getD []) ∧ leAt p 24 1 = if s.pdMatch then 1 else 0) ∧
    (s.boot.pairEn = true →
      (Acts s q 0x0602 none → zeroAt b 17 3 = true → lost (.pairBind q false) ∧ (s.link = 0 → ∀ s1,
        s.storeWrite true { s.cfg.body with pair := some ⟨slice 0 16 b, slice 0 24 b⟩ } = some s1 →
          exec (.pairBind q true) s = s.ends ((s1.pairSync s.pairDigest).respond q 0 []))) ∧
      (Acts s q 0x0609 none → lost (.laneRestore q false) ∧ ∃ t : State, exec (.laneRestore q true) s = s.ends (t.respond q 0 []) ∧
        t.cfg.body = { s.cfg.body with lanes := [] } ∧ t.rd .rein 0x008 = 0 ∧ (∀ i, i < 10 → t.laneState i ≠ 3) ∧
        t = { s with cfg := t.cfg, regs := t.regs }) ∧
      ∀ pd, s.cfg.body.pair = some pd →
        (Acts s q 0x0603 none → lost (.pairUnbind q false) ∧ (s.power.on.contains (1, 5) = false → ∀ s1,
          s.storeWrite true { s.cfg.body with pair := none } = some s1 →
            exec (.pairUnbind q true) s = s.ends (s1.mirrSettle.respond q 0 []))) ∧
        (Acts s q 0x0604 none → at1 b 4 ≤ 1 → at1 b 5 ≤ 1 → zeroAt b 6 2 = true → (s.nsOf nsid).isSome = true →
          (at1 b 4 = 0 → s.link = 3 → (s.mirrNs nsid).peerPrim = some true → no (.nsMirror q true) 0x8003) ∧
          ((s.link = 0 ∨ at1 b 4 = 1) → lost (.nsMirror q false) ∧ ∀ s1, s.storeWrite true { s.cfg.body with
              mirrors := s.cfg.body.mirrors.filter (fun m => m.nsid != nsid) ++ [⟨nsid, decide (at1 b 4 = 0), at1 b 5⟩] } = some s1 →
            let t1 := s1.pairSync s.pairDigest
            let t2 := ((s1.newTerm nsid ((s1.mirrHist nsid).mseq + 1)).onMirrNs nsid fun x =>
              { x with sent := (s1.mirrHist nsid).mseq }).pairSync s.pairDigest
            (at1 b 4 = 1 → t1.link ≠ 3 → exec (.nsMirror q true) s = s.ends (t1.respond q 0 [])) ∧
            (at1 b 4 = 0 → s.mirrorDef nsid = none → t2.link ≠ 3 → exec (.nsMirror q true) s = s.ends (t2.respond q 0 [])))) ∧
        (∀ m, s.mirrorDef nsid = some m → zeroAt b 4 4 = true →
          (Acts s q 0x0608 none → exec (.nsState q) s = s.ends (s.respond q 0 (s.nsState nsid m))) ∧
          (Acts s q 0x0605 none →
            ((∃ o ∈ s.mirror.out, o.nsid = nsid) → no (.nsUnmirror q true) 5) ∧
            ((∀ o ∈ s.mirror.out, o.nsid ≠ nsid) → (∀ v ∈ s.mirror.voids, v.nsid ≠ nsid) → lost (.nsUnmirror q false) ∧ ∀ s1,
              s.storeWrite true { s.cfg.body with mirrors := s.cfg.body.mirrors.filter fun m => m.nsid != nsid } = some s1 →
              ∃ t : State, exec (.nsUnmirror q true) s = s.ends ((t.pairSync s.pairDigest).respond q 0 []) ∧ t.mirrorDef nsid = none ∧
                (∀ p ∈ t.mirror.pend, p.nsid ≠ nsid) ∧ (∀ x ∈ t.mirror.ns, x.nsid ≠ nsid) ∧ (∀ h ∈ (t.tileAt 0).ftl.mirr, h.nsid ≠ nsid))) ∧
          (Acts s q 0x0606 none →
            (m.primary = true → no (.takeover q) 0x8003) ∧
            (m.primary = false → s.link = 3 → (s.mirrNs nsid).peerPrim ≠ some false → no (.takeover q) 0x8005) ∧
            (m.primary = false → s.link = 0 → let s1 := (s.applyPends nsid (2 ^ 64)).dropPends nsid 0
              let first := (s1.mirrHist nsid).mseq + 1
              let s2 := ((s1.newTerm nsid first).setRole nsid true).onMirrNs nsid fun x =>
                { x with sent := first - 1, full := decide (x.peerTerms = []) && x.peerPrim.isSome }
              let s3 := (s2.storeWrite true s2.cfg.body).getD s2
              s3.link = 0 → exec (.takeover q) s =
                s.ends (s3.mirrSettle.respond q 0 (leBytes 4 (s3.mirrTerm nsid) ++ leBytes 8 first ++ zeros 4))))) ∧
        (Acts s q 0x0607 none → at1 b 4 ≤ 1 → zeroAt b 5 3 = true → (s.mirrorDef nsid).isSome = true →
          ((s.mirrNs nsid).split = 0 → no (.splitResolve q) 0x8004) ∧
          ((s.mirrNs nsid).split ≠ 0 → s.link ≠ 3 → no (.splitResolve q) 0x8002) ∧
          ((s.mirrNs nsid).split ≠ 0 → s.link = 3 → at1 b 4 = 0 →
            let s1 := (s.setRole nsid true).onMirrNs nsid fun x =>
              { x with split := 0, full := true, backlog := [], sent := (s.mirrHist nsid).mseq }
            exec (.splitResolve q) s = s.ends (((((s1.storeWrite true s1.cfg.body).getD s1).sendState fun n =>
              if n = nsid then 1 else 0).mirrSettle).respond q 0 []))))) ∧
  (∀ (s : State) (nsid : Nat) (m : MirrorDef), (s.nsState nsid m).length = 32 ∧
    leAt (s.nsState nsid m) 0 1 = (if m.primary then 0 else 1) ∧ leAt (s.nsState nsid m) 8 8 = (s.mirrHist nsid).mseq % 2 ^ 64) ∧
  ∀ (s : State) (b : StoreBody), s.storeWrite false b = none ∧ ∃ t : State, s.storeWrite true b = some t ∧ t = { s with cfg := t.cfg } ∧
    t.cfg.body = b ∧ t.cfg.copy0.body = b ∧ t.cfg.copy1.body = b ∧ s.cfg.copy0.seq < t.cfg.copy0.seq ∧ s.cfg.copy1.seq < t.cfg.copy1.seq

/-- With the link down or in another epoch a frame does nothing; a reserved flag fails it; a frame already taken is answered with PING; one
ahead fails it. A frame taken has the effect of its type and the states of the namespaces are settled: WHDR makes a change pending or
is rejected, DATA fill it, MACK commits or frees, CONFIRM applies, VOID discards and is answered, VOIDACK and REJECT end the command,
STATE compares histories, and PAIR frames carry the identity exchange. NAK sends again; PING only tells that the peer is there. -/
def Obligations.FrameEffects : Prop :=
  ∀ (s : State) (fr : Frame),
    let b := fr.payload
    let sequenced : List Instr := [.whdr fr, .data fr, .mack fr, .confirm fr, .void fr, .voidack fr, .reject fr, .hello fr, .chain fr,
      .proof fr, .state fr, .rate fr]
    let e := s.rd .rein 0x018
    (∀ c ∈ sequenced ++ [.nak fr, .ping fr],
      ((s.link ≠ 2 ∧ s.link ≠ 3) ∨ fr.epoch.toNat ≠ s.rd .rein 0x00C → exec c s = s.ends s) ∧
      ((s.link = 2 ∨ s.link = 3) → fr.epoch.toNat = s.rd .rein 0x00C → 8 ≤ fr.flags.toNat → exec c s = s.ends s.reinFail)) ∧
    ((s.link = 2 ∨ s.link = 3) → fr.epoch.toNat = s.rd .rein 0x00C → fr.flags.toNat < 8 →
      (∀ c ∈ sequenced, fr.seq.toNat ≠ e →
        ((e + 2 ^ 32 - fr.seq.toNat) % 2 ^ 32 < 2 ^ 31 → exec c s = s.ends (s.reinHear fr).reinPing.mirrSettle) ∧
        (2 ^ 31 ≤ (e + 2 ^ 32 - fr.seq.toNat) % 2 ^ 32 → s.mirror.rein.rxFail ≠ some e →
          exec c s = s.ends (s.reinHear fr).reinFail.mirrSettle)) ∧
      exec (.nak fr) s = s.ends (((s.reinHear fr).count .rein 0x044 1).reinAgain fr.seq.toNat).mirrSettle ∧
      exec (.ping fr) s = s.ends ((s.reinHear fr).count .rein 0x044 1).mirrSettle) ∧
    (Takes s fr →
      let t := s.taken fr false
      let d := s.taken fr true
      let out (u : State) : Out := s.ends u.mirrSettle
      (∀ p : MirrPend, p = { nsid := leAt b 12 4, mseq := leAt b 0 8, term := leAt b 8 4, slba := leAt b 16 8, nlb := leAt b 24 4,
                             op := at1 b 28, fua := bitN (at1 b 29) 0, dbytes := leAt b 32 4 } →
        (t.mirrorDef p.nsid = none → exec (.whdr fr) s = out (t.sendReject p.nsid p.mseq)) ∧
        ∀ m, t.mirrorDef p.nsid = some m →
          ((m.primary = true ∨ t.link ≠ 3 ∨ (t.mirrNs p.nsid).split ≠ 0 ∨ p.op = 0 ∨ 4 < p.op) →
            exec (.whdr fr) s = out (t.sendReject p.nsid p.mseq)) ∧
          (m.primary = false → t.link = 3 → (t.mirrNs p.nsid).split = 0 → 1 ≤ p.op → p.op ≤ 4 →
            let u : State := { t with mirror := { t.mirror with pend := t.mirror.pend ++ [p] } }
            exec (.whdr fr) s = out (if p.dbytes = 0 then u.stagePend p
              else u.onRein fun r => { r with cur := some (p.nsid, p.mseq) }))) ∧
      (d.mirror.rein.cur = none → exec (.data fr) s = out d) ∧
      (∀ n m p, d.mirror.rein.cur = some (n, m) → (d.mirror.pend.find? fun y => y.nsid == n && y.mseq == m) = some p → p.reject = false →
        (p.dbytes < p.data.length + b.length → exec (.data fr) s = out (d.rejectPend p)) ∧
        (p.data.length + b.length ≤ p.dbytes → let p1 : MirrPend := { p with data := p.data ++ b }
          let u : State := { d with mirror := { d.mirror with pend := d.mirror.pend.map fun y => if y = p then p1 else y } }
          exec (.data fr) s = out (if p1.data.length = p.dbytes then u.stagePend p1 else u))) ∧
      (∀ k, k = leAt b 0 4 → ((t.mirrorDef k).map fun m => m.primary) = some true →
        (at1 b 4 = 1 → exec (.mack fr) s = out (t.mackStaged k (leAt b 8 8))) ∧
        (at1 b 4 = 2 → exec (.mack fr) s = out (t.mackDurable k (leAt b 8 8)))) ∧
      exec (.confirm fr) s = out ((t.applyPends (leAt b 0 4) (leAt b 8 8)).mirrDurable (leAt b 0 4)) ∧
      (at1 b 4 = 0 → (t.mirrorDef (leAt b 0 4)).isSome = true → exec (.void fr) s = out (((t.dropPends (leAt b 0 4) (leAt b 16 8)).mirrRecord
        2 0 (leAt b 0 4) (leAt b 8 4) (leAt b 16 8) ((t.cfg.body.pair.map fun x => x.peer).getD [])).reinSend 0 5
          (leBytes 4 (leAt b 0 4) ++ [1, 0, 0, 0] ++ leBytes 4 (leAt b 8 4) ++ zeros 4 ++ leBytes 8 (leAt b 16 8)))) ∧
      (∀ v, at1 b 4 = 1 → (t.mirror.voids.find? fun v => v.nsid == leAt b 0 4 && v.mseq == leAt b 16 8) = some v →
        exec (.voidack fr) s = out (t.goneVoid v)) ∧
      (t.outAt (leAt b 0 4) (leAt b 8 8) = none → exec (.reject fr) s = out t) ∧
      (∀ o, t.outAt (leAt b 0 4) (leAt b 8 8) = some o → exec (.reject fr) s = out (t.doVoid o .peerUnavailable)) ∧
      exec (.state fr) s = out ((stateEntries (leAt b 0 4) (b.drop 4)).foldl
        (fun (u : State) e => u.compareHist e.1 e.2.1 e.2.2.1 e.2.2.2.1 e.2.2.2.2) t)) ∧
    ∀ (n m : Nat), (∀ x ∈ ((s.mackDurable n m).mirrNs n).backlog, m < x.2) ∧ m ≤ ((s.mackDurable n m).mirrNs n).peerDur ∧
      (∀ p ∈ (s.dropPends n m).mirror.pend, p.nsid = n → p.mseq < m) ∧ (s.dropPends n m) = { s with mirror := (s.dropPends n m).mirror }

/-- LINK_UP with a bound peer switches PD.REIN on, puts every lane that is not retired into training and makes LINK 1; trained lanes are
active, failed ones are trained once more and then retired. HELLO of another unit holds the link unpaired; CHAIN is gathered in order;
PROOF that checks lets the digests be compared, and any other fails. RATE is followed by the receiver or ends this transmitter's step. A
timer acts only in its state: 50 µs without ACK, MACK_TMO, PEER_TMO, a window above STEP_UP or below STEP_DOWN, no LOCKED, the retry of
a step, an idle transmitter. Outside it each changes nothing. CATCH_UP of a namespace that is not a primary's, or while unpaired,
changes nothing; of a primary it resends the spans due. -/
def Obligations.LinkAndTimers : Prop :=
  (∀ s : State,
    ((s.boot.pairEn = false ∨ s.cfg.body.pair = none ∨ s.boot.reached11 = false ∨ s.hasTile 1 = false ∨ (s.link ≠ 0 ∧ s.link ≠ 4)) →
      exec .linkUp s = s.ends s) ∧
    (s.boot.pairEn = true → s.cfg.body.pair.isSome = true → s.boot.reached11 = true → s.hasTile 1 = true → (s.link = 0 ∨ s.link = 4) →
      ∃ t : State, exec .linkUp s = s.ends t.mirrSettle ∧ t.link = 1 ∧ t.power.on.contains (1, 5) = true ∧
        (∀ i, i < 10 → t.laneState i = if s.cfg.body.lanes.contains i then 3 else 1) ∧ t.mirror.rein = { wire := s.mirror.rein.wire }) ∧
    (∀ (pass : List (Fin 10)) (eyes : List Byte), s.link ≠ 1 → exec (.reinTrainingComplete pass eyes) s = s.ends s) ∧
    (∀ (pass : List (Fin 10)) (eyes : List Byte), s.link = 1 → (∀ i, i < 10 → s.rd .rein (0x104 + 0x20 * i) = 1) →
      ∃ t : State, exec (.reinTrainingComplete pass eyes) s = s.ends t.trainEnd ∧ t = { s with regs := t.regs } ∧
        ∀ i : Fin 10, t.rd .rein (0x104 + 0x20 * i.val) = if i ∈ pass then 2 + at1 eyes i.val * 4 else 1025) ∧
    (∀ (lane : Fin 10) (eye : Byte), s.link = 1 → s.rd .rein (0x104 + 0x20 * lane.val) = 1025 →
      (∀ ok, exec (.laneTrainingRetry lane true eye ok) s =
        s.ends (s.wr .rein (0x104 + 0x20 * lane.val) (2 + eye.toNat * 4 + 1024)).trainEnd) ∧
      ∀ ok, ∃ t : State, exec (.laneTrainingRetry lane false eye ok) s = s.ends (t.retireNotice 8 5 lane.val 0xA4).trainEnd ∧
        t.laneState lane.val = 3 ∧ t.cfg.body.lanes = (s.cfg.body.lanes ++ [lane.val]).eraseDups ∧ t = { s with cfg := t.cfg, regs := t.regs })) ∧
  (∀ (s : State) (fr : Frame), Takes s fr →
    let b := fr.payload
    let t := s.taken fr false
    let out (u : State) : Out := s.ends u.mirrSettle
    (at1 b 0 = 1 →
      let u := t.onRein fun r => { r with peer := some (slice 8 32 b, slice 40 16 b, slice 56 32 b, at1 b 88) }
      (∀ p, t.cfg.body.pair = some p → fit 16 p.peer ≠ slice 40 16 b → exec (.hello fr) s = out u.pairFail) ∧
      (∀ p, t.cfg.body.pair = some p → fit 16 p.peer = slice 40 16 b → exec (.hello fr) s = out u.sendProof.pairCheck)) ∧
    (at1 b 0 = 2 → exec (.chain fr) s = out (t.onRein fun r => { r with
      chain := if leAt b 4 4 = 0 then b.drop 8 else if leAt b 4 4 = r.chain.length then r.chain ++ b.drop 8 else r.chain })) ∧
    (at1 b 0 = 3 → (t.mirror.rein.peer = none → exec (.proof fr) s = out t.pairFail) ∧
      ∀ p, t.mirror.rein.peer = some p →
        let key := Config.chainKey t.mirror.rein.chain
        let good : Bool := decide (key ≠ [] ∧ shake256 key 16 = p.2.1) &&
          Config.mldsaVerify key (ascii "LTRREIN") (p.1 ++ t.mirror.rein.nonce ++ p.2.1 ++ fit 16 t.fuses.uid) (slice 8 3309 b)
        exec (.proof fr) s = out (if good then (t.onRein fun r => { r with proofOk := true }).pairCheck else t.pairFail)) ∧
    (at1 b 1 ≠ 1 → exec (.rate fr) s = out (t.onRein fun r => { r with relock := some (at1 b 0) })) ∧
    (at1 b 1 = 1 → (t.mirror.rein.step = none → exec (.rate fr) s = out t) ∧
      ∀ st, t.mirror.rein.step = some st → st.phase = 1 → exec (.rate fr) s = out t.stepDone)) ∧
  ∀ s : State,
    (s.link ≠ 2 ∧ s.link ≠ 3 → (∀ k l, exec (.malformedFrame k l) s = s.ends s) ∧ exec .retransmitTimeout s = s.ends s ∧
      (∀ n m, exec (.mackTmo n m) s = s.ends s) ∧ exec .peerTmo s = s.ends s ∧ (∀ k, exec (.utilisationWindow k) s = s.ends s) ∧
      exec .pingInterval s = s.ends s ∧ (∀ env n, exec (.catchUp n env) s = s.ends s) ∧ exec .helloRetry s = s.ends s) ∧
    (s.link = 2 ∨ s.link = 3 →
      (∀ l, exec (.malformedFrame .hcrc l) s = s.ends (s.count .rein 0x050 1) ∧
        exec (.malformedFrame .len l) s = s.ends (s.count .rein 0x054 1).reinFail.mirrSettle ∧
        exec (.malformedFrame .crc l) s = s.ends (s.count .rein 0x054 1).reinFail.mirrSettle ∧
        exec (.malformedFrame .type l) s = s.ends s.reinFail.mirrSettle ∧ exec (.malformedFrame .gap l) s = s.ends s.reinFail.mirrSettle) ∧
      (∀ f, s.mirror.rein.unacked.head? = some f → s.rdField .rein 0x004 16 16 = 0 →
        exec .retransmitTimeout s = s.ends (s.reinAgain f.seq).mirrSettle) ∧
      exec .peerTmo s = s.ends (s.onRein fun r => { r with silent := true }).mirrSettle ∧
      ((∀ m ∈ s.cfg.body.mirrors, m.primary = true) → exec .pingInterval s = s.ends s.reinPing) ∧
      (s.mirror.rein.step = none → s.rdField .rein 0x004 18 18 = 0 → ∀ k,
        let c := s.rdField .rein 0x004 4 3
        let lanes := s.rdField .rein 0x004 11 8
        let up : Bool := decide (lanes * rateGbps c * 125000 * s.param 0x23 0 75 < k * 100 ∧ rateGbps c < s.param 0x25 0 28)
        let down : Bool := decide (0 < c ∧ k * 100 < lanes * rateGbps (c - 1) * 125000 * s.param 0x24 0 40)
        exec (.utilisationWindow k) s = s.ends (if up then s.rateStep (c + 1) false
          else if down && decide (99 ≤ s.mirror.rein.low) then s.rateStep (c - 1) false
          else s.onRein fun r => { r with low := if down then r.low + 1 else 0 }))) ∧
    (s.link = 3 → ∀ n m o, s.outAt n m = some o → exec (.mackTmo n m) s = s.ends (s.doVoid o .peerUnavailable).mirrSettle) ∧
    (s.link = 2 → s.mirror.rein.proofOk = false → s.mirror.rein.failed = false → exec .helloRetry s = s.ends s.sendHello.mirrSettle) ∧
    (∀ v, s.mirror.rein.relock = some v → ∃ t : State, exec .receiverRelock s = s.ends (t.reinSend 0 9 (leBytes 1 v ++ [1, 0, 0, 0, 0, 0, 0])) ∧
      t.mirror.rein = { s.mirror.rein with relock := none } ∧ t.rdField .rein 0x004 6 5 = v % 4) ∧
    (s.mirror.rein.relock = none → exec .receiverRelock s = s.ends s) ∧
    (s.mirror.rein.step = none → exec .lockedTimeout s = s.ends (s.onRein fun r => { r with relock := none }) ∧
      ∀ ok, exec (.rateStepRetry ok) s = s.ends s) ∧
    (∀ st, s.mirror.rein.step = some st →
      (st.phase = 1 → ∃ t : State, exec .lockedTimeout s = s.ends t.reinPump ∧ t.rdField .rein 0x004 4 3 = st.old % 4 ∧
        t.mirror.rein = { s.mirror.rein with relock := none, step := some { st with phase := 2, retry := true } }) ∧
      (st.phase = 2 → let s1 := s.reinSend 0 9 (leBytes 1 st.rate ++ zeros 7)
        exec (.rateStepRetry true) s = s.ends (s1.wrField .rein 0x004 4 3 st.rate).stepDone ∧ ∃ t : State,
          exec (.rateStepRetry false) s = s.ends t.reinPump ∧ t.mirror.rein.step = none ∧ t.rdField .rein 0x004 18 18 = 1)) ∧
    ∀ (n : Nat) (env : MediaEnv) (m : MirrorDef) (ns : Namespace), s.mirrorDef n = some m → s.nsOf n = some ns → m.primary = true → s.link = 3 →
      (s.mirrNs n).split = 0 → (s.mirrNs n).peerPrim ≠ some true → (s.mirrNs n).resends = [] →
      exec (.catchUp n env) s = s.ends ((if (s.mirrNs n).full then List.range ns.spans
        else (((s.mirrNs n).backlog.filter fun b => (s.mirrNs n).peerMseq < b.2).map fun b => b.1).eraseDups).foldl
          (fun (u : State) sp => u.resendSpan ns env sp) s).mirrSettle

/-- On a ready controller an admin opcode that the device lacks ends with Invalid Command Opcode; on one that is not ready nothing happens.
LMCS_SEND accepts a request whose TAG is free, fewer than 16 being in use; LMCS_RECEIVE waits for its response or takes it; ABORT ends what
it may still end, with DW0 0, and answers 1 otherwise; IDENTIFY, GET_LOG_PAGE and GET_FEATURES give their data; SET_FEATURES keeps a
value, grants queues from the pool, or refuses; queues are created in range and deleted; an event request takes the oldest event or
waits. -/
def Obligations.AdminCommands : Prop :=
  ∀ (s : State) (k : CmdKey) (e : Sqe) (c : Controller),
    let u := s.acting
    let ok (t : State) (dw0 : Nat) : Out := s.ends (t.ans k .success dw0)
    let no (st : NvmeStatus) : Out := s.ends (u.ans k st)
    let fid := e.cdw10.toNat % 256
    let feat (g : Features → Features) : State := u.onCtrl k.fn fun c => { c with feat := g c.feat }
    let rows : List Instr := [.lmcsSend k e, .lmcsReceive k e, .abort k e true, .identifyCommand k e, .getLogPage k e, .setFeatures k e,
      .getFeatures k e, .createIoCompletionQueue k e, .createIoSubmissionQueue k e, .deleteIoSubmissionQueue k e,
      .deleteIoCompletionQueue k e, .asynchronousEventRequest k e, .firmwareImageDownload k e, .firmwareCommit k e, .deviceSelfTest k e,
      .virtualizationManagement k e, .namespaceManagementCreate k e true, .namespaceManagementDelete k e true,
      .namespaceAttachment k e true, .formatNvm k e true, .sanitize k e true]
    (∀ i ∈ rows, (∀ o, AdminAt s k e o c → adminOpcodes.contains o.toNat = false → exec i s = no .invalidOpcode) ∧
      (s.host.ctrl k.fn = some c → c.rdy = false → exec i s = s.ends s)) ∧
    (AdminAt s k e 0xC1 c → dataPtrStatus e.dptr e.cdw10.toNat 0 = .success → let m := lmcsOf (fit e.cdw10.toNat e.data)
      ((m.tag ∈ s.tagsInUse k.fn ∨ 16 ≤ (s.tagsInUse k.fn).length) → exec (.lmcsSend k e) s = no .commandSequenceError) ∧
      (m.tag ∉ s.tagsInUse k.fn → (s.tagsInUse k.fn).length < 16 →
        exec (.lmcsSend k e) s = s.ends ((u.ans k .success).accept ⟨.admin k.fn m.tag, m⟩))) ∧
    (AdminAt s k e 0xC2 c → dataPtrStatus e.dptr 0 0 = .success → let tag := BitVec.ofNat 16 e.cdw11.toNat
      (tag ∉ s.tagsInUse k.fn → exec (.lmcsReceive k e) s = no .commandSequenceError) ∧
      (tag ∈ s.tagsInUse k.fn → s.receiveOf k.fn tag = none →
        ((s.lmcs.done.find? fun r => r.req.car == .admin k.fn tag) = none → exec (.lmcsReceive k e) s =
          s.ends { u with lmcs := { s.lmcs with receives := s.lmcs.receives ++ [(k.fn, tag, k, e.cdw10.toNat)] } }) ∧
        ∀ r, (s.lmcs.done.find? fun r => r.req.car == .admin k.fn tag) = some r → exec (.lmcsReceive k e) s =
          s.ends (({ u with lmcs := { s.lmcs with done := s.lmcs.done.erase r } } : State).deliverReceive k e.cdw10.toNat r.req r.status r.payload))) ∧
    (AdminAt s k e 0x08 c → let target : CmdKey := ⟨k.fn, e.cdw10.toNat % 65536, BitVec.ofNat 16 (e.cdw10.toNat / 65536)⟩
      exec (.abort k e false) s = ok u 1 ∧
      (target.sq ≠ 0 → s.track target = none → exec (.abort k e true) s = ok u 1) ∧
      (target.sq ≠ 0 → ∀ t, s.track target = some t →
        (u.abortTracked t = none → exec (.abort k e true) s = ok u 1) ∧
        ∀ v, u.abortTracked t = some v → exec (.abort k e true) s = ok v 0)) ∧
    (AdminAt s k e 0x06 c → dataPtrStatus e.dptr 4096 0 = .success →
      (∀ st, u.identifyData c e = .error st → exec (.identifyCommand k e) s = no st) ∧
      (∀ p v, u.identifyData c e = .ok (p, v) → exec (.identifyCommand k e) s = s.ends (v.ans k .success 0 p)) ∧
      (e.cdw10.toNat % 256 = 0x10 → e.nsid = 0 → u.identifyData c e =
        .ok (idList (sortBy (fun (a b : Nat) => a < b) ((s.cfg.body.namespaces.map fun n => n.nsid).filter fun i => 0 < i)), u)) ∧
      (0x1D ≤ e.cdw10.toNat % 256 → u.identifyData c e = .error .invalidField)) ∧
    (AdminAt s k e 0x02 c → let n := (e.cdw10.toNat / 65536 + e.cdw11.toNat % 65536 * 65536 + 1) * 4
      (∀ st, u.logPage c (e.cdw10.toNat % 256) = .error st → exec (.getLogPage k e) s = no st) ∧
      (∀ p v, u.logPage c (e.cdw10.toNat % 256) = .ok (p, v) → dataPtrStatus e.dptr n 0 = .success → exec (.getLogPage k e) s =
        s.ends (v.ans k .success 0 (fit n (p.drop (e.cdw12.toNat + e.cdw13.toNat * 2 ^ 32))))) ∧
      (c.fn ≠ pfA → u.logPage c 0xC1 = .error .operationDenied) ∧
      u.logPage c 0xC4 = .ok ((s.funcLog c.fn).flatMap LogEntry.bytes, u) ∧ (∀ i, 0xC6 ≤ i → u.logPage c i = .error .invalidLogPage)) ∧
    (AdminAt s k e 0x09 c →
      (e.cdw10.toNat / 2 ^ 31 = 1 → exec (.setFeatures k e) s = no .featureNotSaveable) ∧
      (e.cdw10.toNat / 2 ^ 31 = 0 →
        (fid = 0x01 → exec (.setFeatures k e) s = ok (feat fun f => { f with arbitration := e.cdw11 }) 0) ∧
        (fid = 0x05 → exec (.setFeatures k e) s = ok (feat fun f => { f with errRecovery := e.cdw11 }) 0) ∧
        (fid = 0x08 → exec (.setFeatures k e) s = ok (feat fun f => { f with coalescing := e.cdw11 }) 0) ∧
        (fid = 0x0B → exec (.setFeatures k e) s = ok (feat fun f => { f with asyncConfig := e.cdw11 }) 0) ∧
        (fid = 0x06 → (s.protected_ = true → exec (.setFeaturesVolatileWriteCache k e) s = no .invalidField) ∧
          (s.protected_ = false → exec (.setFeaturesVolatileWriteCache k e) s = ok (feat fun f => { f with vwc := bitN e.cdw11.toNat 0 }) 0)) ∧
        (fid = 0x07 → let want := max (e.cdw11.toNat % 65536) (e.cdw11.toNat / 65536)
          (want = 65535 → exec (.setFeaturesNumberOfQueues k e) s = no .invalidField) ∧
          (want < 65535 → (∃ q ∈ c.sqs, q.qid ≠ 0) → exec (.setFeaturesNumberOfQueues k e) s = no .commandSequenceError) ∧
          (want < 65535 → (∀ q ∈ c.sqs, q.qid = 0) → (∀ q ∈ c.cqs, q.qid = 0) → s.funcDef k.fn = none → s.pairsTaken k.fn + 64 ≤ 16384 →
            let n := min (want + 1) 64
            exec (.setFeaturesNumberOfQueues k e) s = ok (u.onCtrl k.fn fun c => { c with granted := n }) ((n - 1) * 65537))) ∧
        (fid = 0x0D → (k.fn ≠ pfA → exec (.setFeaturesHostMemoryBuffer k e) s = no .invalidField) ∧
          (k.fn = pfA → bitN e.cdw11.toNat 0 = false → exec (.setFeaturesHostMemoryBuffer k e) s = ok u.withdrawBag 0) ∧
          (k.fn = pfA → bitN e.cdw11.toNat 0 = true → s.host.hmb.enabled = true →
            exec (.setFeaturesHostMemoryBuffer k e) s = no .commandSequenceError)) ∧
        (fid = 0x04 → field e.cdw11.toNat 19 16 = 0 → field e.cdw11.toNat 21 20 = 0 →
          let kelvin := e.cdw11.toNat % 65536
          (528 < kelvin → exec (.setFeaturesTemperatureThreshold k e) s = no .invalidField) ∧
          (17 ≤ kelvin → kelvin ≤ 528 → ∃ v : State, exec (.setFeaturesTemperatureThreshold k e) s = ok v 0 ∧
            (∀ t ∈ s.tileIds, (BitVec.ofNat 12 (v.rd (.pwr t) 0x078)).toInt = ((kelvin : Int) - 273) * 8) ∧
            v = { u with regs := v.regs, host := v.host })))) ∧
    (∀ f ∈ ([(.setFeaturesNumberOfQueues k e, 7), (.setFeaturesHostMemoryBuffer k e, 0xD), (.setFeaturesVolatileWriteCache k e, 6),
        (.setFeaturesTemperatureThreshold k e, 4)] : List (Instr × Nat)),
      (fid = f.2 → exec f.1 s = exec (.setFeatures k e) s) ∧ (fid ≠ f.2 → exec f.1 s = s.ends s)) ∧
    (AdminAt s k e 0x0A c →
      (fid = 0x01 → exec (.getFeatures k e) s = ok u c.feat.arbitration.toNat) ∧
      (fid = 0x05 → exec (.getFeatures k e) s = ok u c.feat.errRecovery.toNat) ∧
      (fid = 0x08 → exec (.getFeatures k e) s = ok u c.feat.coalescing.toNat) ∧
      (fid = 0x0B → exec (.getFeatures k e) s = ok u c.feat.asyncConfig.toNat) ∧
      (fid = 0x06 → s.protected_ = false → exec (.getFeatures k e) s = ok u (if c.feat.vwc then 1 else 0)) ∧
      (fid = 0x07 → c.granted ≠ 0 → exec (.getFeatures k e) s = ok u ((c.granted - 1) * 65537))) ∧
    (let qid := e.cdw10.toNat % 65536
      let size := e.cdw10.toNat / 65536 + 1
      let cqid := e.cdw11.toNat / 65536
      (AdminAt s k e 0x05 c → 1 ≤ qid → qid ≤ c.granted → (∀ q ∈ c.cqs, q.qid ≠ qid) → 2 ≤ size → size ≤ 4096 → cqid < 256 →
        exec (.createIoCompletionQueue k e) s = ok (u.onCtrl k.fn fun c => { c with
          cqs := c.cqs ++ [⟨qid, size, 0, 0, if bitN e.cdw11.toNat 1 then some cqid else none⟩] }) 0) ∧
      (AdminAt s k e 0x01 c → 1 ≤ qid → qid ≤ c.granted → (∀ q ∈ c.sqs, q.qid ≠ qid) → 2 ≤ size → size ≤ 4096 → 1 ≤ cqid →
        cqid ≤ c.granted → (∃ q ∈ c.cqs, q.qid = cqid) → exec (.createIoSubmissionQueue k e) s = ok (u.onCtrl k.fn fun c =>
          { c with sqs := c.sqs ++ [⟨qid, size, cqid, field e.cdw11.toNat 2 1, 0, 0⟩] }) 0) ∧
      (AdminAt s k e 0x05 c → (qid = 0 ∨ c.granted < qid) → exec (.createIoCompletionQueue k e) s = no .invalidQueueIdentifier) ∧
      (AdminAt s k e 0x01 c → (qid = 0 ∨ c.granted < qid) → exec (.createIoSubmissionQueue k e) s = no .invalidQueueIdentifier) ∧
      (AdminAt s k e 0x00 c → qid ≠ 0 → (∃ q ∈ c.sqs, q.qid = qid) →
        (∀ t ∈ s.host.tracks, ¬ (t.key.fn = k.fn ∧ t.key.sq = qid)) →
          exec (.deleteIoSubmissionQueue k e) s = ok (u.onCtrl k.fn fun c => { c with sqs := c.sqs.filter fun q => q.qid != qid }) 0) ∧
      (AdminAt s k e 0x04 c → qid ≠ 0 → (∃ q ∈ c.cqs, q.qid = qid) →
        ((∃ q ∈ c.sqs, q.cqid = qid) → exec (.deleteIoCompletionQueue k e) s = no .invalidQueueDeletion) ∧
        ((∀ q ∈ c.sqs, q.cqid ≠ qid) → exec (.deleteIoCompletionQueue k e) s =
          ok (u.onCtrl k.fn fun c => { c with cqs := c.cqs.filter fun q => q.qid != qid }) 0))) ∧
    (AdminAt s k e 0x0C c →
      (∀ x es, c.events = x :: es → exec (.asynchronousEventRequest k e) s =
        ok (u.onCtrl k.fn fun c => { c with events := es }) (x.1 + x.2.1 * 256 + x.2.2 * 65536)) ∧
      (c.events = [] → c.aers.length < 16 →
        exec (.asynchronousEventRequest k e) s = s.ends (u.onCtrl k.fn fun c => { c with aers := c.aers ++ [k] })) ∧
      (c.events = [] → 16 ≤ c.aers.length → exec (.asynchronousEventRequest k e) s = no .asyncLimitExceeded))

/-- Without the owner role the firmware commands are denied; with it a download stages its bytes and Commit Action 2 ranks the named slot
above the other. Creating, deleting, formatting and sanitizing are denied after a configuration loss; create refuses a format the device
lacks; a mirrored namespace is neither deleted nor wiped; delete and attach keep the new body in the store and tell every controller.
Sanitize knows crypto erase only. A self-test ends at once. A VF's resources change while it is offline; disabling it resets it. -/
def Obligations.DeviceAdminCommands : Prop :=
  ∀ (s : State) (k : CmdKey) (e : Sqe) (c : Controller),
    let u := s.acting
    let ok (t : State) (dw0 : Nat) : Out := s.ends (t.ans k .success dw0)
    let no (st : NvmeStatus) : Out := s.ends (u.ans k st)
    let car := adminCarrier k.fn
    (AdminAt s k e 0x11 c →
      (s.isOwner car = false → exec (.firmwareImageDownload k e) s = no .operationDenied) ∧
      (s.isOwner car = true → dataPtrStatus e.dptr ((e.cdw10.toNat + 1) * 4) 0 = .success → s.ident.staging = none →
        e.cdw11.toNat * 4 + (e.cdw10.toNat + 1) * 4 ≤ 8396800 → ∃ g : FwStaging, g.holder = car ∧ g.last = s.now ∧
          exec (.firmwareImageDownload k e) s = ok { u with ident := { s.ident with staging := some g } } 0)) ∧
    (AdminAt s k e 0x10 c →
      (s.isOwner car = false → exec (.firmwareCommit k e) s = no .operationDenied) ∧
      (s.isOwner car = true → field e.cdw10.toNat 5 3 = 2 → ∀ i, (i = 0 ∨ i = 1) → e.cdw10.toNat % 8 = i + 1 →
        (s.slotImage i = none → exec (.firmwareCommit k e) s = no .invalidFirmwareImage) ∧
        ∀ m, s.slotImage i = some m → ∃ t : State, exec (.firmwareCommit k e) s = ok t 0 ∧ t.slotCopies (1 - i) = s.slotCopies (1 - i) ∧
          (∀ q, t.slotSeq (1 - i) = some q → ∃ r, t.slotSeq i = some r ∧ q < r) ∧ (t.slotCopies i).1.image = m)) ∧
    (AdminAt s k e 0x14 c →
      let stc := e.cdw10.toNat % 16
      exec (.deviceSelfTest k e) s = if stc = 1 ∨ stc = 2 ∨ stc = 15 then ok u 0 else no .invalidField) ∧
    (AdminAt s k e 0x1C c →
      (k.fn.num ≠ 0 → exec (.virtualizationManagement k e) s = no .invalidOpcode) ∧
      (k.fn.num = 0 → ∀ d, (s.host.ctrls.find? fun c => funcByte c.fn == e.cdw10.toNat / 65536 && c.fn.port == k.fn.port) = some d →
        d.fn ≠ k.fn →
        (e.cdw10.toNat % 16 = 9 → exec (.virtualizationManagement k e) s = ok (u.onCtrl d.fn fun c => { c with online := true }) 0) ∧
        (e.cdw10.toNat % 16 = 7 → exec (.virtualizationManagement k e) s =
          ok ((u.resetFn d.fn).onCtrl d.fn fun c => { c with online := false, vq := 0, vi := 0 }) 0) ∧
        (e.cdw10.toNat % 16 = 8 → field e.cdw10.toNat 10 8 = 0 →
          (d.online = true → exec (.virtualizationManagement k e) s = no .invalidSecondaryState) ∧
          (d.online = false → e.cdw11.toNat % 65536 ≤ 16384 → exec (.virtualizationManagement k e) s =
            ok (u.onCtrl d.fn fun c => { c with vq := e.cdw11.toNat % 65536 }) (e.cdw11.toNat % 65536))))) ∧
    (∀ st, s.cfg.loss = true → (AdminAt s k e 0x0D c → e.cdw10.toNat % 16 = 0 → e.cdw11.toNat / 2 ^ 24 = 0 →
        exec (.namespaceManagementCreate k e st) s = no .operationDenied) ∧
      (AdminAt s k e 0x0D c → e.cdw10.toNat % 16 = 1 → exec (.namespaceManagementDelete k e st) s = no .operationDenied) ∧
      (AdminAt s k e 0x80 c → exec (.formatNvm k e st) s = no .operationDenied) ∧
      (AdminAt s k e 0x84 c → exec (.sanitize k e st) s = no .operationDenied)) ∧
    (s.cfg.loss = false →
      (AdminAt s k e 0x0D c → e.cdw10.toNat % 16 = 0 → e.cdw11.toNat / 2 ^ 24 = 0 → dataPtrStatus e.dptr 4096 0 = .success →
        ∀ i, ((List.range 4096).find? fun i => !s.cfg.body.namespaces.any fun n => n.nsid == i + 1) = some i →
          let ns := s.newNs (i + 1) e.data
          ((3 < ns.lbaf ∨ ns.grain < ns.blockSize) → ∀ st, exec (.namespaceManagementCreate k e st) s = no .invalidFormat) ∧
          (ns.lbaf ≤ 3 → ns.blockSize ≤ ns.grain → ns.blocks ≠ 0 → at1 e.data 1024 ≤ 1 → at1 e.data 1025 ≤ 1 → leAt e.data 8 8 = ns.blocks →
            s.keysServe = true → ∀ s1 n1 s2 s3, u.reserveRoots ns = some s1 → s1.rekey ns = some (n1, s2) →
              s2.storeWrite true { s2.cfg.body with namespaces := s2.cfg.body.namespaces ++ [n1] } = some s3 →
              exec (.namespaceManagementCreate k e true) s =
                ok ((s3.onNs (i + 1) fun x => { x with ready := true }).nsChanged) (i + 1) ∧ n1.nsid = i + 1 ∧ n1.blocks = ns.blocks ∧
              n1.attached = [] ∧ n1 ∈ s3.cfg.body.namespaces)) ∧
      (AdminAt s k e 0x0D c → e.cdw10.toNat % 16 = 1 → ∀ ns, s.named e.nsid.toNat = [ns] →
        ((s.mirrorDef ns.nsid).isSome = true → ∀ st, exec (.namespaceManagementDelete k e st) s = no .operationDenied) ∧
        (s.mirrorDef ns.nsid = none → ∀ s1, u.storeWrite true (s.cfg.body.dropNs ns.nsid) = some s1 →
          exec (.namespaceManagementDelete k e true) s = ok ((s1.removeNs ns.nsid).nsChanged) 0) ∧
        (∀ n ∈ (s.cfg.body.dropNs ns.nsid).namespaces, n.nsid ≠ ns.nsid)) ∧
      (AdminAt s k e 0x80 c → s.named e.nsid.toNat = [] → ∀ st, exec (.formatNvm k e st) s = no .invalidNamespace) ∧
      (AdminAt s k e 0x80 c → ∀ ns, s.named e.nsid.toNat = [ns] → field e.cdw10.toNat 11 9 = 0 → field e.cdw10.toNat 13 12 = 0 →
        e.cdw10.toNat % 16 ≤ 3 → (if e.cdw10.toNat % 16 ≤ 1 then 4096 else 512) ≤ ns.grain →
        ((s.mirrorDef ns.nsid).isSome = true → ∀ st, exec (.formatNvm k e st) s = no .operationDenied) ∧
        (s.mirrorDef ns.nsid = none → ∃ (m : Namespace) (t : State), exec (.formatNvm k e true) s = ok (t.dropContent ns.nsid) 0 ∧
          m.lbaf = e.cdw10.toNat % 16 ∧ m.blocks * m.blockSize ≤ ns.blocks * ns.blockSize ∧ m ∈ t.cfg.body.namespaces ∧
          t = { u with cfg := t.cfg })) ∧
      (AdminAt s k e 0x84 c →
        (e.cdw10.toNat % 8 = 1 → ∀ st, exec (.sanitize k e st) s = ok u 0) ∧
        (e.cdw10.toNat % 8 ≠ 1 → e.cdw10.toNat % 8 ≠ 4 → ∀ st, exec (.sanitize k e st) s = no .invalidField) ∧
        (e.cdw10.toNat % 8 = 4 → (∃ n ∈ s.cfg.body.namespaces, (s.mirrorDef n.nsid).isSome = true) →
          ∀ st, exec (.sanitize k e st) s = no .operationDenied) ∧
        (e.cdw10.toNat % 8 = 4 → (∀ n ∈ s.cfg.body.namespaces, s.mirrorDef n.nsid = none) → s.keysServe = true → ∀ s1 s2,
          u.rekeyAll s.cfg.body.namespaces = some s1 → s1.storeWrite true s1.cfg.body = some s2 →
          exec (.sanitize k e true) s = ok (s.cfg.body.namespaces.foldl (fun (t : State) n => t.dropContent n.nsid) s2) 0))) ∧
    (AdminAt s k e 0x15 c → dataPtrStatus e.dptr 4096 0 = .success → leAt e.data 0 2 = 1 → ∀ ns d, s.nsOf e.nsid.toNat = some ns →
      (s.host.ctrls.find? fun c => funcByte c.fn == leAt e.data 2 2) = some d →
      let body (at_ : List FnId) : StoreBody := { s.cfg.body with
        namespaces := s.cfg.body.namespaces.map fun x => if x.nsid = ns.nsid then { x with attached := at_ } else x }
      (e.cdw10.toNat % 16 = 0 → (d.fn ∈ ns.attached → ∀ st, exec (.namespaceAttachment k e st) s = no .namespaceAlreadyAttached) ∧
        (d.fn ∉ ns.attached → ∀ s1, u.storeWrite true (body (ns.attached ++ [d.fn])) = some s1 →
          exec (.namespaceAttachment k e true) s = ok s1.nsChanged 0)) ∧
      (e.cdw10.toNat % 16 = 1 → (d.fn ∉ ns.attached → ∀ st, exec (.namespaceAttachment k e st) s = no .namespaceNotAttached) ∧
        (d.fn ∈ ns.attached → ∀ s1, u.storeWrite true (body (ns.attached.filter fun f => f != d.fn)) = some s1 →
          exec (.namespaceAttachment k e true) s = ok s1.nsChanged 0)))

/-- A doorbell in range moves its queue; one of no queue, or out of range, is reported and changes no queue. A fetched entry is tracked once
with the island's epoch and its queue moves on; an unsupported one ends at once, and a vendor command whose session's descriptor is
lost ends with C8h and 83h. A standard command ends with its first failed check;
READ ends with the blocks' data or Unrecovered Read Error, COMPARE with the comparison; WRITE, WRITE_ZEROES and DATASET_MANAGEMENT send
fragments; a fragment is staged or refused for space; the last one ends the command with the first failure, or success once committed
and, with FUA, durable. FLUSH ends at once in Protected mode. -/
def Obligations.StandardIoCommands : Prop :=
  (∀ (s : State) (f : FnId) (i : Fin 8192) (v : BitVec 16) (c : Controller), s.host.ctrl f = some c →
    let q := i.val / 2
    let out := exec (.doorbellWrite f i v) s
    (c.rdy = false → out = s.ends s) ∧
    (c.rdy = true → i.val % 2 = 0 →
      (c.sq q = none → out = s.ends (s.raiseOn f 0 0 1)) ∧
      ∀ x, c.sq q = some x →
        (x.size ≤ v.toNat → out = s.ends (s.raiseOn f 0 1 1)) ∧
        (v.toNat < x.size → out = s.ends (s.onCtrl f fun c => { c with
          sqs := c.sqs.map fun y => if y.qid = q then { y with tail := v.toNat } else y }))) ∧
    (c.rdy = true → i.val % 2 = 1 → ∀ x, (c.cqs.find? fun y => y.qid == q) = some x → v.toNat < x.size →
      out = s.ends (s.onCtrl f fun c => { c with cqs := c.cqs.map fun y => if y.qid = q then { y with head := v.toNat } else y }))) ∧
  (∀ (s : State) (port : Fin 2) (x : FetchCand),
    (s.host.stopped = true → ∀ r, exec (.commandFetch port r) s = s.ends s) ∧
    (s.fetchable port.val x = false → exec (.commandFetch port [x]) s = s.ends s) ∧
    (s.host.stopped = false → s.host.tracks.length < 65536 → s.fetchable port.val x = true → ∃ t : State,
      exec (.commandFetch port [x]) s = s.ends (if x.sqe.opc.toNat ∈ ioOpcodes then t.descCheck x else t.fail x.key .invalidOpcode) ∧
      t.host.tracks = s.host.tracks ++ [{ key := x.key, sqe := x.sqe, epoch := s.islandEpoch (48 + port.val) }] ∧
      (∀ c, s.host.ctrl x.key.fn = some c → t.host.ctrl x.key.fn = some { c with
        sqs := c.sqs.map fun q => if q.qid = x.key.sq then { q with head := (q.head + 1) % max 1 q.size } else q
        sqPtr := (x.key.sq + 1) % 4096 }) ∧
      t = { s with pins := t.pins, host := t.host }) ∧
    ((x.desc = .clean ∨ x.sqe.opc.toNat < 0x80) → s.descCheck x = s) ∧
    let snum := x.sqe.cdw2.toNat % 2 ^ 18
    let word := 0x40000000 + snum / 32768 * 0x01000000 + 0x800000 + snum % 32768 * 32
    (x.desc = .ue → 0x80 ≤ x.sqe.opc.toNat → snum < s.n * 32768 → (∀ r ∈ s.mem.remap, r.2.2 ≠ word) →
      (s.sessionOf x.sqe.cdw2.toNat x.key.fn).isSome = true →
      s.descCheck x = ((s.memError (snum / 32768) word 1 6 12 127 false).loseSession snum).finish (Cqe.of x.key .sachetFault 0 0x83 []))) ∧
  (∀ (s : State) (k : CmdKey) (t : Track) (env : MediaEnv),
    let e := t.sqe
    let done_ (u : State) (st : NvmeStatus) : Out := s.ends (u.fail k st)
    (∀ st, s.ioCheck t = (st, none) → (Tracked s k 0x02 t → exec (.read k env) s = done_ s st) ∧
      (Tracked s k 0x05 t → exec (.compare k env) s = done_ s st)) ∧
    (∀ st ns u, s.ioCheck t = (st, some ns) → s.readBlocks ns env e.slba e.nlb = (none, u) →
      (Tracked s k 0x02 t → exec (.read k env) s = done_ u .unrecoveredRead) ∧
      (Tracked s k 0x05 t → exec (.compare k env) s = done_ u .unrecoveredRead)) ∧
    (∀ st ns d m u, s.ioCheck t = (st, some ns) → s.readBlocks ns env e.slba e.nlb = (some (d, m), u) → piCheck ns e d m = .success →
      (Tracked s k 0x02 t → exec (.read k env) s = s.ends (u.finish { Cqe.of k .success 0 0 d with md := if e.pract then [] else m })) ∧
      (Tracked s k 0x05 t → exec (.compare k env) s = done_ u (if d = fit d.length e.data then .success else .compareFailure))) ∧
    (t.started = true → (Tracked s k 0x01 t → exec (.write k) s = s.ends s) ∧ (Tracked s k 0x08 t → exec (.writeZeroes k) s = s.ends s) ∧
      (Tracked s k 0x09 t → exec (.datasetManagement k) s = s.ends s)) ∧
    (t.started = false → ∀ st, s.writeGate e.nsid.toNat = st → st ≠ .success → (Tracked s k 0x01 t → exec (.write k) s = done_ s st) ∧
      (Tracked s k 0x08 t → exec (.writeZeroes k) s = done_ s st) ∧ (Tracked s k 0x09 t → exec (.datasetManagement k) s = done_ s st)) ∧
    (t.started = false → s.writeGate e.nsid.toNat = .success →
      (Tracked s k 0x01 t → (∀ st, s.ioCheck t = (st, none) → exec (.write k) s = done_ s st) ∧
        ∀ st ns, s.ioCheck t = (st, some ns) →
          (e.pract = true ∨ piCheck ns e (fit (e.nlb * ns.blockSize) e.data) (fit (mdMoved ns e) e.md) = .success) →
          exec (.write k) s = s.ends (s.startFrags k (fragsOf s.n ns (e.slba * ns.blockSize) 4 (e.nlb * ns.blockSize)))) ∧
      (Tracked s k 0x08 t → ∀ st ns, s.nsCheck t.key.fn e.nsid.toNat e.slba e.nlb = (st, some ns) → exec (.writeZeroes k) s =
        s.ends (s.startFrags k (fragsOf s.n ns (e.slba * ns.blockSize) (e.nlb + 2) (e.nlb * ns.blockSize)))) ∧
      (Tracked s k 0x09 t → ∀ st ns, s.nsCheck t.key.fn e.nsid.toNat 0 0 = (st, some ns) →
        ((∃ r ∈ dsmRanges e, ns.blocks < r.1 + r.2) → exec (.datasetManagement k) s = done_ s .lbaOutOfRange) ∧
        ((∀ r ∈ dsmRanges e, r.1 + r.2 ≤ ns.blocks) → dataPtrStatus e.dptr (16 * (dsmRanges e).length) 0 = .success →
          (bitN e.cdw11.toNat 2 = false → exec (.datasetManagement k) s = done_ s .success) ∧
          (bitN e.cdw11.toNat 2 = true → exec (.datasetManagement k) s = s.ends (s.startFrags k
            ((dsmRanges e).flatMap fun r => fragsOf s.n ns (r.1 * ns.blockSize) (r.2 + 2) (r.2 * ns.blockSize))))))) ∧
    (Tracked s k 0x00 t → ∀ st ns, s.nsCheck t.key.fn e.nsid.toNat 0 0 = (st, some ns) → e.nsid ≠ 0xFFFFFFFF →
      (s.protected_ = true → exec (.flush k) s = done_ s .success) ∧
      (s.protected_ = false → s.mirrorDef e.nsid.toNat = none →
        (∀ x ∈ s.tiles.toList, ∀ g ∈ x.ftl.staged, g.commit = true → g.key.nsx + 1 ≠ e.nsid.toNat) →
        exec (.flush k) s = done_ (s.tileIds.foldl (fun (u : State) t => u.pushOut t fun _ => false) s) .success))) ∧
  ∀ (s : State) (k : CmdKey) (tr : Track) (t : TileId) (f : Frag), s.track k = some tr → f.tile = t.val →
    (tr.frags.find? (fun f => f.tile == t.val && f.phase == 0) = some f → ∀ ns, s.nsOf tr.sqe.nsid.toNat = some ns →
      ((s.tileAt t).ftl.full = true → exec (.fragmentStaged k t) s = s.ends s) ∧
      ((s.tileAt t).ftl.full = false →
        let changes := (grainsOf ns f).filterMap fun g => (s.stageOf ns tr (tr.sqe.slba * ns.blockSize) f g).map fun kd =>
          (⟨⟨ns.nsx, (grainPlace s.n ns.nsid g).2⟩, kd, some k, tr.group, tr.epoch.toNat, false, none⟩ : Staged)
        let fits := s.judge t ns.nsid (sumOf (changes.map fun g => g.units)) (changes.map fun g => g.key)
        let busy := (s.tileAt t).idx.full && (s.indexDecl ns.nsid).isSome
        let marked (p : Nat) (st : NvmeStatus) : State := s.onTrack k fun x => { x with
          frags := x.frags.map fun y => if y = f then { y with phase := p, stat := st } else y }
        ((tr.sqe.opc ≠ 0x01 ∨ fits = true) → busy = false → exec (.fragmentStaged k t) s = s.ends (((marked 1 .success).onTile t fun x =>
          { x with ftl := { x.ftl with staged := x.ftl.staged ++ changes } }).judged k)) ∧
        ((tr.sqe.opc = 0x01 ∧ fits = false ∨ busy = true) →
          exec (.fragmentStaged k t) s = s.ends ((marked 2 .capacityExceeded).judged k)))) ∧
    (tr.frags = [f] → tr.mseq = none → s.mirrWaits (.cmd k) = false →
      (tr.committed = false → f.phase = 1 → exec (.fragmentComplete k t .success) s = s.ends s) ∧
      (tr.committed = false → f.phase = 2 → f.stat ≠ .success → ∀ st,
        exec (.fragmentComplete k t st) s = s.ends ((s.discard k).fail k f.stat)) ∧
      (tr.committed = true → f.phase = 1 → ∀ st,
        (s.writeThrough tr = false → exec (.fragmentComplete k t st) s = s.ends (s.fail k .success)) ∧
        (s.writeThrough tr = true → s.durable k = false → exec (.fragmentComplete k t st) s =
          s.ends (s.pushOut t fun x => x.staged.any fun g => g.cmd == some k)) ∧
        (s.writeThrough tr = true → s.durable k = true → exec (.fragmentComplete k t st) s =
          s.ends ((s.pushOut t fun _ => false).fail k .success))))

/-- SCAN, MATERIALIZE, LOOKUP and RANGE that have not begun: reserved fields out of order end with Invalid Field; without the named session
in force, or the rights, with C1h and an entry in the function's log; then range, image, readiness, quota and the transfer are judged in
the order of R70, each with its status; with all passed, the scan bytes are charged and the run begins, or the index is searched. One
that has begun is driven on. ESCALATION_TIMEOUT ends a command with C3h only while a record of it waits for its answer. -/
def Obligations.VendorIoCommands : Prop :=
  ∀ (s : State) (k : CmdKey) (t : Track) (env : MediaEnv),
    let e := t.sqe
    let nsid := e.nsid.toNat
    let rows : List (Instr × Byte) := [(.scan k env, 0x82), (.materialize k env, 0x8C), (.lookup k env, 0x86), (.range k env, 0x8A)]
    let no (st : NvmeStatus) : Out := s.ends (s.fail k st)
    (∀ f ∈ rows, Tracked s k f.2 t → s.runOf k = none →
      (e.vendorForm = false → exec f.1 s = no .invalidField) ∧
      (e.vendorForm = true → e.dptr.prpOffsetBad = false → s.sessionOf e.cdw2.toNat k.fn = none →
        exec f.1 s = s.ends ((s.logSession k.fn 1 0 e.cdw2.toNat).fail k .sessionInvalid))) ∧
    (∀ f ∈ rows, Tracked s k f.2 t → ∀ r, s.runOf k = some r → (r.mat = none ∨ r.ending = none) →
      exec f.1 s = s.ends ((s.setRun { r with env := env }).drive k)) ∧
    (Tracked s k 0x82 t → s.runOf k = none → e.vendorForm = true → e.dptr.prpOffsetBad = false → ∀ x ns,
      s.vendorSession t [(nsid, 4)] = some x → s.nsOf nsid = some ns →
      (ns.blocks < e.slba + e.nblocks → exec (.scan k env) s = no .lbaOutOfRange) ∧
      (e.slba + e.nblocks ≤ ns.blocks →
        (s.imageFor x e.slot nsid = none → exec (.scan k env) s = no .imageInvalid) ∧
        ∀ img lay, s.imageFor x e.slot nsid = some (img, lay) → largeOk lay img ns.grain = true →
          (∀ st, s.vendorNs nsid = st → st ≠ .success → exec (.scan k env) s = no st) ∧
          (s.vendorNs nsid = .success → e.res = false →
            let lo := e.slba * ns.blockSize
            let hi := (e.slba + e.nblocks) * ns.blockSize
            let endG := (hi - 1) / ns.grain + 1
            let charge := (endG - lo / ns.grain) * ns.grain
            let c : SiftCtx := ⟨img, lay, (s.slotsOf x.snum).sets.filter fun y => (imgSets img).contains y.1, nsid, ns.grain, x.cls⟩
            (s.quotaStep x charge = false → exec (.scan k env) s = s.ends (s.failQuota k x)) ∧
            (s.quotaStep x charge = true → e.dptr.transferError = true → exec (.scan k env) s = no .dataTransferError) ∧
            let r : ScanRun := {
              key := k, ctx := c, lo := lo, hi := hi, next := lo / ns.grain, rec0 := 0,
              endG := endG, items := none, space := e.outBytes - endLen img, charged := charge, env := env, mat := none }
            (s.quotaStep x charge = true → e.dptr.transferError = false →
              exec (.scan k env) s = s.ends ((s.chargeScan x.qbi charge).beginRun x r))))) ∧
    (Tracked s k 0x8C t → s.runOf k = none → e.vendorForm = true → ∀ x ns tns, s.vendorSession t [(nsid, 4), (e.tnsid, 2)] = some x →
      s.nsOf nsid = some ns → s.nsOf e.tnsid = some tns → e.slba + e.nblocks ≤ ns.blocks →
      let room := leAt e.cpb 96 4 + 1
      let tslba := leAt e.cpb 24 8
      (tns.blocks < tslba + room → exec (.materialize k env) s = no .lbaOutOfRange) ∧
      (tslba + room ≤ tns.blocks →
        (e.tnsid = nsid → tslba < e.slba + e.nblocks → e.slba < tslba + room → exec (.materialize k env) s = no .invalidField) ∧
        (e.tnsid ≠ nsid → ∀ img lay, s.imageFor x e.slot nsid = some (img, lay) → modeFits 0x8C (imgMode img) = true →
          largeOk lay img ns.grain = true → s.targetLayoutOk lay img tns = true → s.vendorNs nsid = .success →
          s.vendorNs e.tnsid = .success → e.res = false →
          let lo := e.slba * ns.blockSize
          let hi := (e.slba + e.nblocks) * ns.blockSize
          let endG := (hi - 1) / ns.grain + 1
          let charge := (endG - lo / ns.grain) * ns.grain
          let c : SiftCtx := ⟨img, lay, (s.slotsOf x.snum).sets.filter fun y => (imgSets img).contains y.1, nsid, ns.grain, x.cls⟩
          s.quotaStep x charge = true →
          (∀ st, s.writeGate e.tnsid = st → st ≠ .success → exec (.materialize k env) s = no st) ∧
          (s.writeGate e.tnsid = .success →
            let m : MatRun := {
              key := k, tnsid := e.tnsid, tslba := tslba, room := room, reqz := bitN e.cdw13.toNat 11, fua := bitN e.cdw13.toNat 12 }
            let r : ScanRun := {
              key := k, ctx := c, lo := lo, hi := hi, next := lo / ns.grain, rec0 := 0,
              endG := endG, items := none, space := e.outBytes - endLen img, charged := charge, env := env, mat := some m }
            exec (.materialize k env) s = s.ends ((s.chargeScan x.qbi charge).beginRun x r))))) ∧
    (∀ f ∈ ([(.lookup k env, 0x86), (.range k env, 0x8A)] : List (Instr × Byte)), Tracked s k f.2 t → s.runOf k = none →
      e.vendorForm = true → e.dptr.prpOffsetBad = false → ∀ x ns, s.vendorSession t [(nsid, 4)] = some x → s.nsOf nsid = some ns →
      ((s.indexDecl nsid = none ∨ s.nsLayout nsid = none) → exec f.1 s = no .imageInvalid) ∧
      ∀ decl lay, s.indexDecl nsid = some decl → s.nsLayout nsid = some lay → boundOk (declType decl lay) 32 (at1 e.cpb 16) e.cpb = true →
        (f.2 = 0x8A → declHash decl = true → exec f.1 s = no .invalidField) ∧
        ((f.2 = 0x86 ∨ (declHash decl = false ∧ boundOk (declType decl lay) 64 (at1 e.cpb 17) e.cpb = true)) → e.slot = 0xFF → e.res = false →
          s.vendorNs nsid = .success →
          ((∃ y ∈ s.tiles.toList, ns.nsx ∈ y.idx.regen) → exec f.1 s = no .indexNotReady) ∧
          (∀ lo, lo = queryKey (declType decl lay) 32 (at1 e.cpb 16) e.cpb → (∀ y ∈ s.tiles.toList, ns.nsx ∉ y.idx.regen) →
            s.quotaStep x e.cdw14.toNat = true → e.dptr.transferError = false →
            s.lostRunTiles ns.nsx (f.2 == 0x86) (declHash decl) lo env.maps = [] →
            exec f.1 s = s.ends (s.runQuery t x ns decl lay none none env)))) ∧
    ((s.runOf k = none → exec (.escalationTimeout k) s = s.ends s) ∧
      ∀ r c, s.runOf k = some r → r.cur = some c →
        ((∀ y ∈ c.recs, ∀ q, y.esc = some q → q.phase = 2) → exec (.escalationTimeout k) s = s.ends s) ∧
        (∀ y ∈ c.recs, ∀ q, y.esc = some q → q.phase ≠ 2 → exec (.escalationTimeout k) s = s.ends (s.stopRun k .outputExhausted none)))

/-- A reset of a function ends its commands, drops its carriers, drains its sessions and puts its controller at its reset values. PERST_N
resets ports, controllers and mailboxes and keeps the tiles. A fall of PWROK of 1 µs or more, a collapse of the supply of that length,
and the restart after a park are full resets: fuses, flash, host memory and the store's copies stay, all else is as at reset; shorter
ones do nothing, or raise the voltage alarm. A tile that fails before step 11 fails the start, later the device. CC.EN enables an online
controller. -/
def Obligations.ResetCommands : Prop :=
  (∀ (s : State) (f : FnId),
    let v := (s.host.tracks.filter fun t => t.key.fn == f).foldl State.endTrack s
    let w := (v.dropCarriers fun c => c.fn == some f).clearFuncLog f
    let u := w.drainFn f
    (∀ c ∈ ([.controllerReset f, .functionLevelReset f] : List Instr),
      (s.host.ctrl f = none → exec c s = s.ends s) ∧
      ((s.host.ctrl f).isSome = true → exec c s = s.ends ((if f = pfA then u.withdrawBag else u).onCtrl f fun c => c.afterReset s.now))) ∧
    (∀ t ∈ v.host.tracks, t.key.fn ≠ f) ∧ v.mem = s.mem ∧ v.fuses = s.fuses ∧
    (∀ q ∈ w.lmcs.inFlight ++ w.lmcs.started, q.car.fn ≠ some f) ∧ (∀ o ∈ w.lmcs.owners, o.1.fn ≠ some f) ∧
    (∀ p ∈ w.lmcs.pending, p.1.fn ≠ some f) ∧ w.funcLog f = [] ∧
    ∀ (c : Controller), let r := c.afterReset s.now
      r.fn = c.fn ∧ r.en = false ∧ r.rdy = false ∧ r.granted = 0 ∧ r.sqs = [] ∧ r.cqs = [] ∧ r.aers = [] ∧ r.events = []) ∧
  (∀ (s : State) (f : FnId),
    (s.host.configured = false → exec (.ccEn f) s = s.ends s) ∧
    (s.host.configured = true → ∀ c, s.host.ctrl f = some c → c.online = true → ∃ t : State, exec (.ccEn f) s = s.ends t ∧
      ∃ d, t.host.ctrl f = some d ∧ d.en = true ∧ d.rdy = (s.boot.reached11 && !c.cfs) ∧ (d.sq 0).isSome = true ∧
        t = { s with host := { s.host with ctrls := t.host.ctrls } })) ∧
  (∀ s : State, ∃ t : State, exec .perstN s = s.ends t ∧ t.pins.perst = true ∧ t.host.linkUp = false ∧ t.host.linkTraining = false ∧
    t.host.hmb.enabled = false ∧ t.logs.funcs = [] ∧ t.host.fetchPtr = (0, 0) ∧
    t.host.ctrls = (if t.host.configured then t.portCtrls else []) ∧ (s.host.tracks.foldl State.endTrack s).host.tracks = []) ∧
  (∀ (s : State) (on : Bool) (bs : BitVec 2) (pe : Bool), let t := s.powerCycle on bs pe
    t.fuses = s.fuses ∧ t.mem.host = s.mem.host ∧ t.mem.cells = [] ∧ t.mem.poison = [] ∧ t.regs = State.reset.regs ∧
      t.cinch = State.reset.cinch ∧ t.host = State.reset.host ∧ t.lmcs = State.reset.lmcs ∧ t.ses = State.reset.ses ∧
      t.sift = State.reset.sift ∧ t.cores = State.reset.cores ∧ t.keys = State.reset.keys ∧ t.mirror = State.reset.mirror ∧
      t.power = State.reset.power ∧ t.cfg.copy0 = s.cfg.copy0 ∧ t.cfg.copy1 = s.cfg.copy1 ∧ t.boot.powered = on ∧ t.now = s.now ∧
      ∀ i, i < 8 → (t.tileAt i).ftl.journal = (s.tileAt i).ftl.journal.filter (fun j => j.seq < (s.tileAt i).ftl.durSeq) ∧
        (t.tileAt i).ftl.rootA = (s.tileAt i).ftl.rootA ∧ (t.tileAt i).ftl.staged = [] ∧
        (t.tileAt i).comp.retired = (s.tileAt i).comp.retired) ∧
  (∀ (s : State) (ns : Nat),
    (ns < 1000 → exec (.pwrokFall ns) s = s.ends s) ∧
    (1000 ≤ ns → exec (.pwrokFall ns) s = s.ends (s.powerCycle false s.boot.bootSel s.boot.pairEn)) ∧
    (s.boot.powered = false → exec (.supplyCollapse ns) s = s.ends s) ∧
    (s.boot.powered = true → ns < 1000 → exec (.supplyCollapse ns) s = s.ends (s.alarm .voltage)) ∧
    (s.boot.powered = true → 1000 ≤ ns → exec (.supplyCollapse ns) s = s.ends (s.powerCycle false s.boot.bootSel s.boot.pairEn)) ∧
    (s.boot.powered = true → 640 ≤ ns → ∃ t : State, exec (.supplyDip ns) s = s.ends t ∧ t = { s with logs := t.logs } ∧
      ∃ e ∈ t.logs.events, e.sev = 0 ∧ e.detail = ns) ∧
    (ns < 640 → exec (.supplyDip ns) s = s.ends s)) ∧
  (∀ s : State,
    (s.boot.powered = true → exec .pwrokRise s = s.ends s) ∧
    (s.boot.powered = false → ∃ t : State, exec .pwrokRise s = s.ends t ∧ t.boot.powered = true ∧ t.boot.bootSel = s.pins.bootSel ∧
      t.boot.pairEn = s.pins.pairEn ∧ t.boot.since = s.now ∧ (∀ k ∈ s.tileIds, t.rdField (.mem k) 0x004 3 3 = 1) ∧
      t = { s with boot := t.boot, regs := t.regs }) ∧
    (s.power.parked = false → exec .parkRestart s = s.ends s) ∧
    (s.power.parked = true → ∃ t : State, exec .parkRestart s = s.ends (t.powerCycle true s.boot.bootSel s.boot.pairEn).invalidated ∧
      t = { s with pins := t.pins } ∧ t.pins.gpio = setAt s.pins.gpio 0 true)) ∧
  ∀ (s : State) (t : TileId),
    ((s.hasTile t = false ∨ t.val ∈ s.boot.failed) → exec (.tileFailure t) s = s.ends s) ∧
    (s.hasTile t = true → t.val ∉ s.boot.failed →
      (s.boot.reached11 = false → exec (.tileFailure t) s = s.ends (s.failTile t)) ∧
      (s.boot.reached11 = true → exec (.tileFailure t) s =
        s.ends (({ s with boot := { s.boot with failed := s.boot.failed ++ [t.val] } } : State).failDevice 0xA6 t 0))) ∧
    ((s.failTile t).boot.startFailed = true ∧ t.val ∈ (s.failTile t).boot.failed ∧ (s.failTile t).rdField .glb 0x300 3 0 = 9 ∧
      ∀ c ∈ (s.failTile t).host.ctrls, c.cfs = true ∧ c.rdy = false)

/-- While PWROK is low, in recovery or after a failed start, no step of the start changes anything. Otherwise: a failed self-test fails the
tile; the boot image is one that is valid, and without one the device enters recovery; the configuration in force is that of the
checking copy with the higher SEQ, and with none the device starts in configuration-loss state; a tile without a good root copy, or
late, fails the start; the mode is Protected only with HOLDUP, PFAIL_N high, dump quads and a fitting profile, and epoch 1 begins; at
step 11 enabled controllers become ready; after the last second sweep every namespace is. -/
def Obligations.StartSequence : Prop :=
  (∀ s : State, s.starting = false →
    (∀ t bs ok, exec (.selfTestComplete t bs ok) s = s.ends s) ∧ (∀ a b, exec (.bootSelect a b) s = s.ends s) ∧
    exec .linkTrainingStart s = s.ends s ∧ (∀ c, exec (.configStoreLoad c) s = s.ends s) ∧
    (∀ t r, exec (.mapRecoveryRead t r) s = s.ends s) ∧ (∀ t, exec (.firstSweep t) s = s.ends s ∧ exec (.startupDeadline t) s = s.ends s ∧
      exec (.secondSweep t) s = s.ends s) ∧ (∀ p, exec (.modeSelect p) s = s.ends s) ∧ exec .cstsRdySet s = s.ends s) ∧
  (∀ (s : State) (t : TileId) (bs : List (Fin 48)), s.starting = true → s.hasTile t = true → t.val ∉ s.boot.tested → s.boot.image = false →
    ∃ u : State, exec (.selfTestComplete t bs true) s = s.ends u ∧ u.boot = { s.boot with tested := s.boot.tested ++ [t.val] } ∧
      (bs = [] → u = { s with boot := u.boot, regs := u.regs } ∧ u.rdField (.mem t) 0x004 1 0 = 2) ∧
      exec (.selfTestComplete t bs false) s = s.ends ((u.flag (.mem t) 0x004 2).failTile t)) ∧
  (∀ s : State, s.starting = true →
    (s.pins.perst = false → s.host.linkTraining = false → exec .linkTrainingStart s = s.ends s.trainLink) ∧
    (s.pins.perst = true → exec .linkTrainingStart s = s.ends s) ∧
    (s.host.linkTraining = true → exec .perstNDeassertion s = s.ends { s with pins := { s.pins with perst := false } }) ∧
    (s.host.linkTraining = false → s.boot.since + 25000 ≤ s.now → s.power.parked = false →
      exec .perstNDeassertion s = s.ends ({ s with pins := { s.pins with perst := false } } : State).trainLink) ∧
    (s.boot.image = false → (∀ t ∈ s.tileIds, t ∈ s.boot.tested) →
      (exec (.bootSelect .dead .ok) s = s.ends s.failStart ∧ exec (.bootSelect .ok .dead) s = s.ends s.failStart) ∧
      ((s.boot.bootSel = 2 ∨ s.bootPick true true = none) → ∃ u : State, exec (.bootSelect .ok .ok) s = s.ends u ∧ u.boot.recovery = true ∧
        u.boot.image = false ∧ u.host.linkTraining = false ∧ u.ident = s.ident) ∧
      (s.boot.bootSel ≠ 2 → ∀ i m, s.bootPick true true = some (i, m) → s.imageValid m = true ∧ ∃ u : State,
        exec (.bootSelect .ok .ok) s = s.ends u ∧ u.boot = { s.boot with image := true } ∧ u.ident.image = m ∧ u.ident.slot = some i ∧
          u.ident.signing = !s.keysLocked)) ∧
    (s.boot.image = true → s.boot.storeRead = false →
      (∃ u : State, exec (.configStoreLoad (false, false)) s = s.ends u ∧ u.cfg.loss = true ∧ u.boot.storeRead = true ∧
        u.host.configured = true ∧ u.rdField .glb 0x300 3 0 = 10) ∧
      (s.cfg.copy0.present = true → s.cfg.copy1.present = true → ∀ one, one = decide (s.cfg.copy0.seq < s.cfg.copy1.seq) → ∃ u : State,
        exec (.configStoreLoad (true, true)) s = s.ends u ∧ u.cfg.inForce1 = one ∧ u.boot.storeRead = true ∧ u.host.configured = true ∧
          u.cfg.body.namespaces = (if one then s.cfg.copy1.body else s.cfg.copy0.body).namespaces ∧
          u.cfg.body.mirrors = (if one then s.cfg.copy1.body else s.cfg.copy0.body).mirrors)) ∧
    (s.boot.storeRead = true → s.boot.modeChosen = false → (∀ t ∈ s.tileIds, 2 ≤ (s.tileAt t).ftl.recovered) → ∀ us, ∃ v u : State,
      v = (if s.cfg.loss then s else s.tileIds.foldl State.dumpQuads s) ∧
      exec (.modeSelect us) s = s.ends u ∧ u.boot.modeChosen = true ∧ u.cinch.cur = 1 ∧ u.cinch.pend = 1 ∧
      (s.cfg.loss = true ∨ s.param 3 0 0 = 0 → v.modeReason us = 1) ∧
      (10000 < us → v.modeReason us ≠ 0) ∧
      u.rdField .glb 0x20C 0 0 = (if v.modeReason us = 0 then 1 else 0)) ∧
    (s.boot.modeChosen = true → s.boot.reached11 = false → ∃ u : State, exec .cstsRdySet s = s.ends u ∧ u.boot.reached11 = true ∧
      u.host.ctrls = s.host.ctrls.map (fun c => { c with rdy := c.en && !c.cfs }) ∧ u.rdField .glb 0x304 15 0 = s.startMs ∧
      (s.cfg.loss = false → s.pinned ≠ 0 → (u.nsRun s.pinned).ready = true))) ∧
  ∀ (s : State) (t : TileId), s.starting = true → s.hasTile t = true →
    (s.boot.storeRead = true → (s.tileAt t).ftl.recovered = 0 →
      exec (.mapRecoveryRead t (false, false)) s = s.ends (s.failTile t) ∧
      (s.cfg.loss = true → exec (.mapRecoveryRead t (true, false)) s = s.ends (s.onTile t fun x => { x with
        ftl := { x.ftl with lastB := false, leaves := x.ftl.rootA.leaves, recovered := 1 } })) ∧
      (s.cfg.loss = false → (s.tileAt t).ftl.dumps = [] → ∀ r, (r.1 = true ∨ r.2 = true) → ∃ u : State,
        exec (.mapRecoveryRead t r) s = s.ends u ∧ (u.tileAt t).ftl.recovered = 1 ∧
        (u.tileAt t).ftl.lastB = (r.2 && (!r.1 || decide ((s.tileAt t).ftl.rootA.number < (s.tileAt t).ftl.rootB.number))) ∧
        (u.tileAt t).ftl.journal = (s.tileAt t).ftl.journal ∧ u.boot = s.boot)) ∧
    ((s.tileAt t).ftl.recovered = 1 → ∃ u : State, u = s.onTile t (fun x =>
        let f := x.ftl.replay s.isPinned []
        { x with ftl := { f with recovered := 2, cache := (f.cache ++ f.pinnedPages s.isPinned).eraseDups } }) ∧
      ((∃ k ∈ u.tileIds, (u.tileAt k).ftl.recovered < 2) → exec (.firstSweep t) s = s.ends u) ∧
      ((∀ k ∈ u.tileIds, 2 ≤ (u.tileAt k).ftl.recovered) → exec (.firstSweep t) s = s.ends (u.resolve u.isPinned))) ∧
    (2 ≤ (s.tileAt t).ftl.recovered → exec (.startupDeadline t) s = s.ends s) ∧
    ((s.tileAt t).ftl.recovered < 2 → exec (.startupDeadline t) s = s.ends (s.failTile t)) ∧
    (s.boot.reached11 = true → (s.tileAt t).ftl.recovered = 2 → ∃ u : State, (u.tileAt t).ftl.recovered = 3 ∧
      u = { s with tiles := u.tiles, regs := u.regs } ∧ u.rdField .glb 0x300 (16 + t.val) (16 + t.val) = 1 ∧
      ((∃ k ∈ s.tileIds, (u.tileAt k).ftl.recovered ≠ 3) → exec (.secondSweep t) s = s.ends u) ∧
      ((∀ k ∈ s.tileIds, (u.tileAt k).ftl.recovered = 3) → exec (.secondSweep t) s = s.ends u.allReady)) ∧
    (s.cfg.loss = false → (s.tileAt t).ftl.recovered = 3 →
      ((∀ g ∈ (s.tileAt t).ftl.staged, g.dend = none) → exec (.restoredFragmentProgram t) s = s.ends (s.eraseDumps t)) ∧
      ((∃ g ∈ (s.tileAt t).ftl.staged, g.dend.isSome = true) → exec (.restoredFragmentProgram t) s = s.ends
        (((s.tileAt t).ftl.staged.filter fun g => g.dend.isSome && (g.commit && !((s.tileAt t).ftl.stored.any fun y => y.key == g.key && !y.done))).foldl
          (fun (u : State) g => u.packRestored t g) s))) ∧
    ((s.cfg.loss = true ∨ (s.tileAt t).ftl.recovered ≠ 3) → exec (.restoredFragmentProgram t) s = s.ends s)

/-- PD_CTRL requests a domain on, switches a drained one off and raises BUSYWR for another; a domain that comes on, or is off, adopts. The
governor sheds one notch over the cap and restores one below it, within the floors and tops of Table 17.4. PFAIL_N low for 1 µs stops
fetching and reaches step 4; a shorter low is counted. A tile's dump holds its journal tail, its staged fragments and its index half,
complete with at most one failed member; the park follows the last dump. GPIO edges, ACT, the test port and a new endpoint ID change what
their rules name. -/
def Obligations.PowerAndPins : Prop :=
  (∀ (s : State) (t : TileId) (v : Word), let a := regAddr (.pwr t) 0x000
    (s.hasTile t = false → exec (.pdCtrl t v) s = s.ends (s.decErr a 0)) ∧
    ((∀ d, d < 6 → s.hasDomain t d = true → bitN v.toNat d = bitN (s.rd (.pwr t) 0) d) → s.hasTile t = true →
      exec (.pdCtrl t v) s = s.ends s) ∧
    ∀ d, d < 6 → s.hasTile t = true → s.hasDomain t d = true → (∀ k, k ≠ d → bitN v.toNat k = bitN (s.rd (.pwr t) 0) k) →
      let s1 := s.wrField (.pwr t) 0x000 d d 1
      (bitN (s.rd (.pwr t) 0) d = false → bitN v.toNat d = true →
        (s.domainMay t d = true → exec (.pdCtrl t v) s =
          s.ends (({ s1 with power := { s1.power with changing := s1.power.changing ++ [(t.val, d)] } } : State).pdStat t)) ∧
        (s.domainMay t d = false → exec (.pdCtrl t v) s = s.ends s1)) ∧
      (bitN (s.rd (.pwr t) 0) d = true → bitN v.toNat d = false → (t.val, d) ∉ s.power.changing →
        (s.pdDrained t d = false → exec (.pdCtrl t v) s = s.ends (s.decErr a 2)) ∧
        (s.pdDrained t d = true → (∀ k, k ≠ d → bitN ((s.domainOff t d).rd (.pwr t) 0) k = bitN (s.rd (.pwr t) 0) k) →
          exec (.pdCtrl t v) s = s.ends (s.domainOff t d)))) ∧
  (∀ (s : State) (t : TileId) (d : Fin 6) (v : Word),
    ((t.val, d.val) ∉ s.power.changing → exec (.domainOn t d) s = s.ends s) ∧
    ((t.val, d.val) ∈ s.power.changing → ∃ (u : State) (i : Nat), exec (.domainOn t d) s = s.ends (u.adopt i) ∧
      u.power.on = s.power.on ++ [(t.val, d.val)] ∧ (t.val, d.val) ∉ u.power.changing ∧ u = { s with power := u.power, regs := u.regs } ∧
      i = if d.val < 4 then 6 * t.val + d.val else if d.val = 4 then 48 + t.val else 50) ∧
    ((t.val, 2) ∈ s.power.on → s.sachetWork t = false → exec (.pcIdleSwitchOff t) s = s.ends (s.domainOff t 2)) ∧
    (((t.val, 2) ∉ s.power.on ∨ s.sachetWork t = true) → exec (.pcIdleSwitchOff t) s = s.ends s) ∧
    exec (.l2Ways t v) s = s.ends (s.setWays t v.toNat
      (s.cores.threads.any fun h => h.id.tile.val == t.val && h.id.core.val < 8 && h.running && !h.waiting))) ∧
  (∀ (s : State) (mw : List Nat) (pkg : Nat) (below : Bool), ∃ t : State, exec (.governorPeriod mw pkg below) s = s.ends t ∧
    t = { s with power := t.power, regs := t.regs, logs := t.logs } ∧
    t.power = if s.power.step ≠ 0 ∨ s.power.parked = true then s.power
      else if s.govCap * 10 < pkg then (s.power.shed.map fun x => x.2).getD s.power
      else if below = true ∧ pkg + 500 < s.govCap * 10 then (s.power.restore.map fun x => x.2).getD s.power else s.power) ∧
  (∀ (p q : Power) (k : Nat), (p.shed = some (k, q) → k < 4 ∧ (1 ≤ p.ratecap → 1 ≤ q.ratecap) ∧ (4 ≤ p.govcap → 4 ≤ q.govcap) ∧
      (1 ≤ p.pcDiv → 1 ≤ q.pcDiv) ∧ (1 ≤ p.govact → 1 ≤ q.govact) ∧
      q.ratecap + q.govcap + q.pcDiv + q.govact + 1 = p.ratecap + p.govcap + p.pcDiv + p.govact) ∧
    (p.restore = some (k, q) → k < 4 ∧ (p.ratecap ≤ 16 → q.ratecap ≤ 16) ∧ (p.govcap ≤ 12 → q.govcap ≤ 12) ∧ (p.pcDiv ≤ 8 → q.pcDiv ≤ 8) ∧
      (p.govact ≤ 16 → q.govact ≤ 16) ∧ q.ratecap + q.govcap + q.pcDiv + q.govact = p.ratecap + p.govcap + p.pcDiv + p.govact + 1)) ∧
  (∀ (s : State) (t : TileId) (n : Nat),
    ((s.power.step ≠ 0 ∨ s.power.parked = true ∨ s.boot.powered = false) → ∃ u : State, exec .powerFailure s = s.ends u ∧
      u = { s with pins := { s.pins with gpio := setAt s.pins.gpio 0 false }, regs := u.regs } ∧ u.rdField .glb 0x20C 2 2 = 1) ∧
    (s.power.step = 0 → s.power.parked = false → s.boot.powered = true → (∀ k ∈ s.tileIds, (k, 2) ∉ s.power.on) → (1, 5) ∉ s.power.on →
      ∃ u : State, exec .powerFailure s = s.ends u ∧ u.power.step = 4 ∧ u.host.stopped = true ∧
        (∀ h ∈ u.cores.threads, h.id.core.val < 8 → h.running = false) ∧ (∀ k ∈ s.tileIds, u.rdField (.pwr k) 0x060 3 0 = 4)) ∧
    (1000 ≤ n → exec (.pfailGlitch n) s = s.ends s) ∧ (n < 1000 → exec (.pfailGlitch n) s = s.ends (s.count (.pwr 0) 0x06C 1)) ∧
    ((s.power.step < 4 ∨ s.power.parked = true ∨ s.protected_ = false ∨ s.hasTile t = false ∨ t.val ∈ s.power.dumped) →
      exec (.dumpStart t n) s = s.ends s) ∧
    (4 ≤ s.power.step → s.power.parked = false → s.protected_ = true → s.hasTile t = true → t.val ∉ s.power.dumped → ∃ (u : State) (d : Dump),
      exec (.dumpStart t n) s = s.ends u ∧ (u.tileAt t).ftl.dumps = (s.tileAt t).ftl.dumps ++ [d] ∧ d.complete = decide (n ≤ 1) ∧
      d.pfseq = (s.tileAt t).ftl.pfseq + 1 ∧ d.frags = (s.tileAt t).ftl.staged ∧
      d.tail = (s.tileAt t).ftl.journal.filter (fun j => (s.tileAt t).ftl.durSeq ≤ j.seq) ∧ u.power.dumped = s.power.dumped ++ [t.val] ∧
      u.rdField (.pwr t) 0x060 4 4 = if n ≤ 1 then 1 else 0) ∧
    ((s.power.step < 4 ∨ s.power.parked = true ∨ (s.protected_ = true ∧ ∃ k ∈ s.tileIds, k ∉ s.power.dumped)) → exec .park s = s.ends s) ∧
    (4 ≤ s.power.step → s.power.parked = false → (s.protected_ = true → ∀ k ∈ s.tileIds, k ∈ s.power.dumped) → ∃ u : State,
      exec .park s = s.ends u ∧ u.power.parked = true ∧ u.power.step = 8 ∧ u.power.pfailHighSince = s.now ∧ u.host.linkUp = false ∧
      u.rdField .glb 0x20C 3 3 = 1 ∧ ∀ x ∈ u.tiles.toList, x.flash.inflight = [] ∧ x.flash.training = [])) ∧
  (∀ (s : State) (pin : Fin 8) (lv : Bool), ∃ t : State, exec (.gpioInputEdge pin lv) s = s.ends t ∧
    t.pins = { s.pins with gpio := setAt s.pins.gpio pin.val lv } ∧ t = { s with pins := t.pins, regs := t.regs, power := t.power } ∧
    (s.pins.gpio.getD pin.val false = lv → t.regs = s.regs ∧ t.power = s.power) ∧
    (s.pins.gpio.getD pin.val false ≠ lv → (pin.val = 0 → t.rdField .glb 0x20C 2 2 = if lv then 0 else 1) ∧
      (bitN (s.rd .sbg 0) 0 = true → bitN (s.rd .sbg 0x020) (8 + pin.val) = true → t.rdField .sbg 0x018 pin.val pin.val = 1))) ∧
  ∀ (s : State) (cells : List Bool) (a b : Byte),
    let pass := s.ends { s with pins := { s.pins with tap := .bypass, dr := 0 } }
    exec .actTimeout s = s.ends { s with pins := { s.pins with act := false } } ∧ exec .bypass s = pass ∧
    exec .samplePreload s = s.ends { s with pins := { s.pins with tap := .samplePreload } } ∧
    (∃ t : State, exec .idcode s = s.ends t ∧ t.pins.tap = .idcode ∧ t.pins.dr % 2 = 1 ∧
      t.pins.dr / 2 ^ 12 % 2 ^ 16 = field s.ltid.toNat 31 16 ∧ t.pins.dr / 2 ^ 28 = field s.ltid.toNat 15 12 ∧
      t = { s with free := t.free, pins := t.pins }) ∧
    (s.boot.recovery = false → exec (.extest cells) s = pass ∧ exec .clamp s = pass ∧ exec .highz s = pass) ∧
    (s.boot.recovery = true → exec (.extest cells) s = s.ends { s with pins := { s.pins with tap := .extest, cells := cells } } ∧
      exec .clamp s = s.ends { s with pins := { s.pins with tap := .clamp, dr := 0 } } ∧
      exec .highz s = s.ends { s with pins := { s.pins with tap := .highz, dr := 0 } }) ∧
    exec (.endpointIdReassigned a a) s = s.ends s ∧
    (a ≠ b → ∃ t : State, exec (.endpointIdReassigned a b) s = s.ends t ∧ (∀ o ∈ t.lmcs.owners, o.1 ≠ .mctp a) ∧
      (∀ o ∈ t.lmcs.nonces, o.1 ≠ .mctp a) ∧ (∀ p ∈ t.lmcs.parts, p.car ≠ .mctp a) ∧ (∀ o ∈ s.lmcs.owners, o.1 ≠ .mctp a → o ∈ t.lmcs.owners) ∧
      t = { s with lmcs := t.lmcs, ident := t.ident })

/-- A checkpoint moves the overlay entries that are not held into the leaves, writes the root copy that was not written last with the next
number and programs the journal. A stream opens a superblock only when it has none; a row past its age, and the open row of a superblock
left open by a power cut, are filled, the latter with CLOSE. Collection starts below RSV + GC_START, stops at RSV + GC_STOP, and takes one
victim at a time; a closed superblock with no valid grain is released and erased; levelling relocates one old superblock while the spread
is over its limit. Each does nothing where its condition fails. -/
def Obligations.MediaUpkeep : Prop :=
  (∀ (s : State) (t : TileId), let f := (s.tileAt t).ftl
    ((s.hasTile t = false ∨ s.cfg.loss = true ∨ f.recovered = 1 ∨ f.recovered = 2) → exec (.checkpoint t) s = s.ends s) ∧
    (s.hasTile t = true → s.cfg.loss = false → f.recovered ≠ 1 → f.recovered ≠ 2 → ∃ u : State, exec (.checkpoint t) s = s.ends u ∧
      let g := (u.tileAt t).ftl
      (∀ o ∈ g.overlay, ∃ p ∈ f.overlay, p.held ≠ 0 ∧ p.key = o.key ∧ p.entry = o.entry) ∧
      (∀ k, (∀ o ∈ f.overlay, o.key = k → o.held ≠ 0) → (g.leaves.find? fun x => x.1 == k) = (f.leaves.find? fun x => x.1 == k)) ∧
      (∀ o ∈ f.overlay, o.held = 0 → (∀ p ∈ f.overlay, p.key = o.key → p = o) →
        (g.leaves.find? fun x => x.1 == o.key) = some (o.key, o.entry)) ∧
      g.lastB = !f.lastB ∧ g.root.number = f.root.number + 1 ∧ (if f.lastB then g.rootB = f.rootB else g.rootA = f.rootA) ∧
      g.durSeq = g.nextSeq ∧ g.pinChanges = 0 ∧ f.nextSeq < g.nextSeq ∧ g.root.leaves = g.leaves ∧
      (∃ a b c, (⟨g.nextSeq - 1, .ckpt a b c⟩ : JEntry) ∈ g.journal) ∧
      u.host = s.host ∧ u.cores = s.cores ∧ u.fuses = s.fuses ∧ u.mem = s.mem ∧ u.ses = s.ses ∧ u.cfg = s.cfg)) ∧
  (∀ (s : State) (t : TileId) (st : WriteStream) (col : Bool), let f := (s.tileAt t).ftl
    ((s.hasTile t = false ∨ s.cfg.loss = true ∨ (f.openOf st).isSome = true ∨ s.gather t st = none ∨
        (st = .alt ∧ ∀ ns ∈ s.cfg.body.namespaces, ns.alt = false)) → exec (.superblockOpen t st col) s = s.ends s) ∧
    (∀ qs, s.hasTile t = true → s.cfg.loss = false → f.openOf st = none → s.gather t st = some qs →
      (st = .alt → ∃ ns ∈ s.cfg.body.namespaces, ns.alt = true) →
      (s.mayOpen t st col qs.length = false → exec (.superblockOpen t st col) s = s.ends s) ∧
      (s.mayOpen t st col qs.length = true → ∃ (x : Tile) (b : Superblock), exec (.superblockOpen t st col) s = s.ends (s.onTile t fun _ => x) ∧
        x.ftl.sbs = f.sbs ++ [b] ∧ b.sbn = leastUnused (f.sbs.map fun y => y.sbn) ∧ b.stream = st ∧ b.closed = false ∧
        b.members = qs.map (fun q => (q, true)) ∧ x.ftl.nextSeq = f.nextSeq + qs.length ∧ x.ftl.overlay = f.overlay ∧
        x = { s.tileAt t with ftl := x.ftl }))) ∧
  (∀ (s : State) (t : TileId) (st : WriteStream), let f := (s.tileAt t).ftl
    let age := s.param 0x0015 0 10 * 1000000
    (f.openOf st = none → exec (.rowAgeExpiry t st) s = s.ends s) ∧
    (∀ b, f.openOf st = some b → (s.now < b.rowSince + age → exec (.rowAgeExpiry t st) s = s.ends s) ∧
      (b.rowSince + age ≤ s.now → exec (.rowAgeExpiry t st) s = s.ends (s.onTile t fun x => { x with ftl := { x.ftl with
        sbs := x.ftl.sbs.map fun y => if y.sbn = b.sbn then y.fillRow else y } }))) ∧
    ((∀ b ∈ f.sbs, b.stream = st → b.sbn ∈ f.toClose → b.closed = true) → exec (.superblockClosure t st) s = s.ends s) ∧
    (∀ b, (f.sbs.find? fun b => !b.closed && b.stream == st && f.toClose.contains b.sbn) = some b → ∃ x : Tile,
      exec (.superblockClosure t st) s = s.ends (s.onTile t fun _ => x) ∧ x = { s.tileAt t with ftl := x.ftl } ∧
      (⟨f.nextSeq, .sblk 2 b.sbn 0 0 0 0 0⟩ : JEntry) ∈ x.ftl.journal ∧ x.ftl.toClose = f.toClose.erase b.sbn ∧
      x.ftl.sbs = f.sbs.map (fun y => if y.sbn = b.sbn then { y.fillRow with closed := true, closedAt := s.now, closeSeq := f.nextSeq } else y) ∧
      x.ftl.overlay = f.overlay ∧ x.ftl.stored = f.stored)) ∧
  (∀ (s : State) (t : TileId), let f := (s.tileAt t).ftl
    ((s.hasTile t = false ∨ s.cfg.loss = true) → exec (.collectionStart t) s = s.ends s) ∧
    (s.hasTile t = true → s.cfg.loss = false →
      (∀ b ∈ f.sbs, b.closed = true → b.released = false → f.liveIn b.sbn = true ∨ f.keptIn b.sbn = true) →
      let on := if f.rsv + s.gcStop ≤ s.fq t then false else if s.fq t < f.rsv + s.gcStart then true else f.collecting
      let s1 := s.onTile t fun x => { x with ftl := { x.ftl with collecting := on } }
      let work := on || f.sbs.any fun b => b.degraded && b.closed && !b.released
      ((work = false ∨ f.victim.isSome = true ∨ f.pickVictim = none) → exec (.collectionStart t) s = s.ends s1) ∧
      ∀ b, work = true → f.victim = none → f.pickVictim = some b → exec (.collectionStart t) s =
        s.ends ((s1.onTile t fun x => { x with ftl := { x.ftl with victim := some b.sbn } }).collect t b.sbn)) ∧
    ((s.hasTile t = false ∨ s.cfg.loss = true ∨ s.spread t ≤ s.param 0x0010 0 300 ∨ f.levelling = true ∨ f.victim.isSome = true ∨
        (∀ b ∈ f.sbs, b.closed = true → b.released = false → b.stream ≠ .mapMeta → s.now < b.closedAt + 86400000000)) →
      exec (.staticLevelling t) s = s.ends s) ∧
    (s.hasTile t = true → s.cfg.loss = false → s.param 0x0010 0 300 < s.spread t → f.levelling = false → f.victim = none →
      ∀ b ∈ f.sbs, b.closed = true → b.released = false → b.stream ≠ .mapMeta → b.closedAt + 86400000000 ≤ s.now →
        ∃ c ∈ f.sbs, c.closed = true ∧ c.released = false ∧ c.stream ≠ .mapMeta ∧ c.closedAt + 86400000000 ≤ s.now ∧
          exec (.staticLevelling t) s = s.ends ((s.onTile t fun x => { x with
            ftl := { x.ftl with levelling := true, victim := some c.sbn } }).collect t c.sbn))) ∧
  ∀ (s : State) (t : TileId) (n : Nat) (fails : List QuadId), let f := (s.tileAt t).ftl
    ((f.sbs.find? fun b => b.sbn == n) = none → exec (.collectionVictimRelease t n fails) s = s.ends s) ∧
    ∀ b, (f.sbs.find? fun b => b.sbn == n) = some b →
      (b.released = true → exec (.collectionVictimRelease t n fails) s = s.ends (s.eraseSb t n fails)) ∧
      (b.released = false → (b.closed = false ∨ f.liveIn n = true ∨ f.keptIn n = true) →
        exec (.collectionVictimRelease t n fails) s = s.ends s) ∧
      (b.released = false → b.closed = true → f.liveIn n = false → f.keptIn n = false → ∃ s1 : State,
        exec (.collectionVictimRelease t n fails) s = s.ends (s1.eraseSb t n fails) ∧
        s1 = s.onTile t (fun _ => s1.tileAt t) ∧ (s1.tileAt t).ftl.victim = (if f.victim = some n then none else f.victim) ∧
        (s1.tileAt t).ftl.durSeq = (s1.tileAt t).ftl.nextSeq ∧
        (s1.tileAt t).ftl.sbs = f.sbs.map (fun y => if y.sbn = n then { y with released := true } else y))

/-- QTAIL is written, or the write raises BADADDR. A channel that is ready takes the descriptor at QHEAD and holds its operation until it
completes; one that breaks a rule holds its status instead. A read ends by hard decision, by the ladder, or with its failed codewords; a
parameter page puts its LUN in or out of service; features are set and reset. An operation that ends has its effect and posts its entry.
Clearing the ring flushes it; a fault is repeated once and then retires its scope; training passes, repeats once, or retires. -/
def Obligations.FlashChannels : Prop :=
  (∀ (s : State) (t : TileId) (c : Fin 16) (v : Word), let here := s.hasTile t && s.blockOn (.fch t c)
    (here = true → exec (.fchQtail t c v) s = s.ends ((s.wr (.fch t c) 0x028 (v.toNat % 2048)).fchStat t c) ∧
      exec (.fchQctrlEnClear t c) s = s.ends (((s.fchFlush t c 6).unflag (.fch t c) 0x020 0).fchStat t c)) ∧
    (here = false → exec (.fchQtail t c v) s = s.ends (s.decErr (regAddr (.fch t c) 0x028) 0) ∧
      exec (.fchQctrlEnClear t c) s = s.ends (s.decErr (regAddr (.fch t c) 0x020) 0))) ∧
  (∀ (s : State) (t : TileId) (c : Fin 16) (env : LadderEnv) (bad : Bool) (page : ParamPage), s.fchReady t c = false →
    exec (.flashRead t c env) s = s.ends s ∧ exec (.flashProgram t c bad) s = s.ends s ∧ exec (.flashErase t c bad) s = s.ends s ∧
    exec (.flashReadParam t c page) s = s.ends s ∧ exec (.flashGetFeatures t c) s = s.ends s ∧
    exec (.flashSetFeatures t c) s = s.ends s ∧ exec (.flashResetLun t c) s = s.ends s) ∧
  (∀ (s : State) (t : TileId) (c : Fin 16) (env : LadderEnv) (bad : Bool) (page : ParamPage) (d : List Byte) (st : Nat),
    s.fchReady t c = true → s.readMem t ((s.fchRing t c).at (s.fchRing t c).head 32) 32 = d → s.flashRefuse t c d = some st →
    let i := (s.fchRing t c).head % (s.fchRing t c).size
    let out := s.ends ((s.headTaken t c).inProgress t c i ⟨c, leAt d 2 1 % 16, leAt d 0 1, d, i, st, 0, 0, 0, 0⟩)
    (leAt d 0 1 = 1 → exec (.flashRead t c env) s = out) ∧ (leAt d 0 1 = 2 → exec (.flashProgram t c bad) s = out) ∧
    (leAt d 0 1 = 3 → exec (.flashErase t c bad) s = out) ∧ (leAt d 0 1 = 4 → exec (.flashReadParam t c page) s = out) ∧
    (leAt d 0 1 = 5 → exec (.flashGetFeatures t c) s = out) ∧ (leAt d 0 1 = 6 → exec (.flashSetFeatures t c) s = out) ∧
    (leAt d 0 1 = 7 → exec (.flashResetLun t c) s = out)) ∧
  (∀ (s : State) (t : TileId) (c : Fin 16) (d : List Byte) (env : LadderEnv) (bad : Bool) (page : ParamPage),
    let u := s.headTaken t c
    let i := (s.fchRing t c).head % (s.fchRing t c).size
    let lun := leAt d 2 1
    let ends (v : State) (op st step bits mask flags : Nat) : Out :=
      s.ends (v.inProgress t c i ⟨c, lun % 16, op, d, i, st, step, bits, mask, flags⟩)
    let steps := s.eff (.fch t c) 0x038 % 16
    (Issues s t c 1 d → (∀ k, k < 16 → bitN (leAt d 8 2) k = true →
        (kvGet (pageKey c lun (k / 4) (leAt d 4 2) (leAt d 6 2)) (s.tileAt t).flash.pages).isSome = true) →
      let v := u.count (.fch t c) 0x04C env.fixed
      let w := (v.count (.fch t c) 0x050 1).flag (.fch t c) 0x040 2
      let soft := env.soft && bitN (s.eff (.fch t c) 0x038) 4
      let mask := if env.mask &&& leAt d 8 2 = 0 then leAt d 8 2 else env.mask &&& leAt d 8 2
      (env.okStep = some 0 → exec (.flashRead t c env) s = ends v 1 0 0 env.bits 0 0) ∧
      (∀ k, env.okStep = some k → 0 < k → k ≤ steps → exec (.flashRead t c env) s =
        ends ((if soft then w.count (.fch t c) 0x054 1 else w).log 1 0 0 t c 0) 1 0 k env.bits 0 (if soft then 2 else 0)) ∧
      ((∀ k, env.okStep = some k → steps < k ∧ 0 < k) → exec (.flashRead t c env) s =
        ends ((w.count (.fch t c) 0x058 (popMask mask)).flag (.fch t c) 0x040 3) 1 1 steps env.bits mask 0)) ∧
    (Issues s t c 2 d → exec (.flashProgram t c bad) s = ends u 2 (if bad then 2 else 0) 0 0 0 0) ∧
    (Issues s t c 3 d → exec (.flashErase t c bad) s = ends u 3 (if bad then 3 else 0) 0 0 0 0) ∧
    (Issues s t c 4 d → ∃ v, exec (.flashReadParam t c page) s = ends v 4 0 0 0 0 0 ∧
      v.rdField (.fch t c) 0x018 lun lun = (if paramOk page then 1 else 0) ∧
      ((c.val, lun) ∈ (v.tileAt t).flash.checked ↔ paramOk page = true) ∧
      (∀ p, p ≠ (c.val, lun) → (p ∈ (v.tileAt t).flash.checked ↔ p ∈ (s.tileAt t).flash.checked)) ∧
      (paramOk page = true → v.logs = s.logs) ∧
      (paramOk page = false → v.logs = (s.log 2 0x9C 2 t (c + lun * 16) 0).logs) ∧
      v = { s with tiles := v.tiles, regs := v.regs, mem := (u.writeMem t (leAt d 16 4) page.bytes).mem, logs := v.logs }) ∧
    (Issues s t c 5 d → exec (.flashGetFeatures t c) s = ends u 5 0 0 0 0 0) ∧
    (Issues s t c 6 d → exec (.flashSetFeatures t c) s = ends (u.onTile t fun x => { x with flash := { x.flash with
      features := kvSet (featKey c lun (leAt d 20 1)) (leAt d 21 1) x.flash.features } }) 6 0 0 0 0 0) ∧
    (Issues s t c 7 d → exec (.flashResetLun t c) s = ends (u.onTile t fun x => { x with flash := { x.flash with
      features := x.flash.features.filter fun y => y.1 / 256 != c * 16 + lun } }) 7 0 0 0 0 0)) ∧
  (∀ (s : State) (t : TileId) (c lun : Fin 16) (rb : Bool),
    ((∀ j ∈ s.fchBusy t c, j.lun ≠ lun) → exec (.flashOpComplete t c lun rb) s = s.ends s ∧ exec (.readyTimeout t c lun) s = s.ends s) ∧
    ∀ j, (s.fchBusy t c).find? (fun j => j.lun == lun.val) = some j →
      exec (.readyTimeout t c lun) s = s.ends (s.fltInfo t c .rdyto lun false) ∧
      let u := s.onTile t fun x => { x with flash := { x.flash with inflight := x.flash.inflight.erase j } }
      let q : QuadId := ⟨c, leAt j.desc 2 1, leAt j.desc 4 2⟩
      let ends (v : State) : Out := s.ends ((v.flashPost t c j).fchStat t c)
      let out := exec (.flashOpComplete t c lun rb) s
      (j.op = 1 → j.status = 0 → out = ends (u.deliver t c j)) ∧
      (j.op = 1 → j.status = 1 → out = ends ((u.deliver t c j).rebuild t c j rb)) ∧
      (j.op = 2 → j.status = 0 → out = ends (u.programmed t c j)) ∧
      (j.op = 2 → j.status = 2 → out = ends ((u.retireQuad t q 0x98).dropMember t q)) ∧
      (j.op = 3 → j.status = 0 → out = ends (u.onTile t fun x => { x with flash := { x.flash with
        pages := x.flash.pages.filter fun p => !(p.1 / 2 ^ 28 == c * 16 + q.lun && p.1 / 2 ^ 12 % 2 ^ 14 == q.block &&
          (planesOf j.desc).contains (p.1 / 2 ^ 26 % 4)) } })) ∧
      (j.op = 3 → j.status = 3 → out = ends (u.retireQuad t q 0x99)) ∧
      ((3 < j.op ∨ 3 < j.status) → out = ends u)) ∧
  (∀ (s : State) (t : TileId) (c lun : Fin 16) (cls : IfaceClass) (ok : Bool),
    let far := s.hasTile t && s.blockOn (.fch t c) && (s.tileAt t).lunUp c lun
    let cause := 0x8F + ifaceNum cls
    let scope := if ifaceChannel cls then none else some lun.val
    (far = false → exec (.interfaceFaultRetry t c lun cls ok) s = s.ends s) ∧
    (far = true → (s.fchBusy t c).find? (fun j => j.lun == lun.val) = none →
      exec (.interfaceFaultRetry t c lun cls false) s = s.ends ((s.fltInfo t c cls lun true).retireChan t c scope cause)) ∧
    (far = true → ∀ j, (s.fchBusy t c).find? (fun j => j.lun == lun.val) = some j →
      ((cls ≠ .rdyto ∨ (j.op ≠ 2 ∧ j.op ≠ 3)) → exec (.interfaceFaultRetry t c lun cls false) s =
        s.ends ((((s.fltInfo t c cls lun true).onTile t fun x => { x with flash := { x.flash with
          inflight := x.flash.inflight.erase j } }).flashPost t c { j with status := 4 }).retireChan t c scope cause)) ∧
      (let mark (k : FlashJob) : FlashJob := if k = j then { k with flags := k.flags ||| 1 } else k
       exec (.interfaceFaultRetry t c lun cls true) s = s.ends (((((s.onTile t fun x => { x with flash := { x.flash with
         inflight := x.flash.inflight.map mark } }).fltInfo t c cls lun false).count (.fch t c) 0x05C 1).flag
           (.fch t c) 0x040 1).logTransient cause t (c + lun * 16))))) ∧
  ∀ (s : State) (t : TileId) (c : Fin 16), let here := s.hasTile t && s.blockOn (.fch t c)
    let go (full : Bool) : Out := s.ends (((s.onTile t fun x => { x with flash := { x.flash with
      training := x.flash.training.filter (fun y => y.chan != c.val) ++ [⟨c, full, 0⟩] } }).wr (.fch t c) 0x014 0).fchStat t c)
    (here = false → exec (.trainFull t c) s = s.ends (s.decErr (regAddr (.fch t c) 0x010) 0) ∧
      exec (.trainZqonly t c) s = s.ends (s.decErr (regAddr (.fch t c) 0x010) 0)) ∧
    (here = true → s.fchDrained t c = false → exec (.trainFull t c) s = s.ends (s.decErr (regAddr (.fch t c) 0x010) 2) ∧
      exec (.trainZqonly t c) s = s.ends (s.decErr (regAddr (.fch t c) 0x010) 2)) ∧
    (here = true → s.fchDrained t c = true → (s.tileAt t).chanUp c = true → bitN (s.rd (.fch t c) 0) 0 = true →
      exec (.trainFull t c) s = go true ∧ exec (.trainZqonly t c) s = go false) ∧
    ∀ (res : TrainResult),
      ((∀ x ∈ (s.tileAt t).flash.training, x.chan ≠ c) → exec (.trainingComplete t c res) s = s.ends s) ∧
      ∀ tr, ((s.tileAt t).flash.training.find? fun x => x.chan == c.val) = some tr →
        let pass := res.zqFail.isNone && (!tr.full || (!res.stepFail && 24 ≤ res.rdWin && 24 ≤ res.wrWin))
        let info := res.rdWin % 256 + res.wrWin % 256 * 2 ^ 8 + res.worst % 8 * 2 ^ 16 + (tr.tries + 1) * 2 ^ 21
        let stop := s.onTile t fun x => { x with flash := { x.flash with training := x.flash.training.erase tr } }
        (pass = true → tr.tries = 0 → exec (.trainingComplete t c res) s =
          s.ends (((stop.wr (.fch t c) 0x014 (info + 2 ^ 19)).flag (.fch t c) 0x040 5).fchStat t c)) ∧
        (pass = true → tr.tries ≠ 0 → exec (.trainingComplete t c res) s =
          s.ends ((((((stop.wr (.fch t c) 0x014 (info + 2 ^ 19)).count (.fch t c) 0x05C 1).flag (.fch t c) 0x040 1).logTransient 0x93 t c).flag
            (.fch t c) 0x040 5).fchStat t c)) ∧
        (pass = false → tr.tries = 0 → ∃ u : State, exec (.trainingComplete t c res) s = s.ends u ∧
          u = { s with tiles := u.tiles, regs := u.regs } ∧ ({ tr with tries := 1 } : Training) ∈ (u.tileAt t).flash.training) ∧
        (pass = false → tr.tries ≠ 0 → exec (.trainingComplete t c res) s =
          let v := (stop.wr (.fch t c) 0x014 (info + 2 ^ 19 + 2 ^ 20)).fltInfo t c (if res.zqFail.isSome then .zq else .train)
            ((res.zqFail.map fun x => x.val).getD 0) true
          s.ends ((v.flag (.fch t c) 0x040 5).retireChan t c (res.zqFail.map fun x => x.val) (if res.zqFail.isSome then 0x94 else 0x93)))

/-- QTAIL is written or raises BADADDR. With no job to start, or a job of another operation at the head, a row does nothing; an illegal
descriptor ends INVALID. A verified grain is written with its container at min(NSLVL, GOVCAP); one verified at the second attempt is counted;
one that fails twice retires the engine. A stream job with no context that fits ends with the context's status; COMPRESS writes its output,
or ends for want of room; DECOMPRESS writes what follows, and its status says how its input ended. A running job completes with one entry,
and a cleared queue is flushed. -/
def Obligations.CompressorJobs : Prop :=
  (∀ (s : State) (t : TileId) (q : Fin 4) (v : Word),
    (s.blockOn (.cmp t) = true → exec (.cmpQtail t q v) s = s.ends (s.wr (.cmp t) (0x04C + 16 * q) (v.toNat % 2048))) ∧
    (s.blockOn (.cmp t) = false → exec (.cmpQtail t q v) s = s.ends (s.decErr (regAddr (.cmp t) (0x04C + 16 * q)) 0)) ∧
    ((s.hasTile t = false ∨ s.blockOn (.cmp t) = false) → exec (.cmpQctrlEnClear t q) s =
      s.ends (s.decErr (regAddr (.cmp t) (0x044 + 16 * q)) 0)) ∧
    (s.hasTile t = true → s.blockOn (.cmp t) = true → exec (.cmpQctrlEnClear t q) s =
      s.ends ((s.flushQueue t (.cmp t) q 0x018 0x020 0x024 64 fun d => slice 12 4 d ++ leBytes 1 0x0B ++ zeros 11).unflag
        (.cmp t) (0x044 + 16 * q) 0)) ∧
    ((s.tileAt t).comp.running = none → exec (.cmpJobComplete t) s = s.ends s)) ∧
  (∀ (s : State) (t : TileId) (env : VerifyEnv), s.cmpPick t = none →
    exec (.compress t env) s = s.ends s ∧ exec (.decompress t) s = s.ends s ∧
    ((s.hasTile t && !s.cmpUp t) = false → exec (.grain t env) s = s.ends s) ∧
    ((s.hasTile t && !s.cmpUp t) = true → exec (.grain t env) s = s.ends (s.inlineFallback t))) ∧
  (∀ (s : State) (t : TileId) (env : VerifyEnv) (q : Nat) (u : State), s.cmpPick t = some (q, u) →
    let d := u.queueHead t (.cmp t) q 64
    let bad := s.ends (u.cmpRun t q d 0x0A 0 0 0 0)
    (leAt d 0 1 ≠ 1 → s.cmpUp t = true → exec (.grain t env) s = s.ends s) ∧ (leAt d 0 1 ≠ 2 → exec (.compress t env) s = s.ends s) ∧
    (leAt d 0 1 ≠ 3 → exec (.decompress t) s = s.ends s) ∧
    (cmpInvalid d = true → (leAt d 0 1 = 1 → s.cmpUp t = true → exec (.grain t env) s = bad) ∧
      (leAt d 0 1 = 2 → exec (.compress t env) s = bad) ∧ (leAt d 0 1 = 3 → exec (.decompress t) s = bad))) ∧
  (∀ (s : State) (t : TileId) (env : VerifyEnv) (q : Nat) (d : List Byte) (u : State), CmpTakes s t 1 q d u →
    let size := leAt d 20 4
    let level := u.grainLevel t (leAt d 6 2) (BitVec.ofNat 16 (leAt d 8 2))
    let g := storeGrain level (u.readMem t (leAt d 16 4) size)
    ∃ v : State, v.mem = (u.writeMem t (leAt d 24 4) g.2).mem ∧ v = { u with mem := v.mem, regs := v.regs } ∧
      (g.1 = false → v.rd (.cmp t) 0x088 = min 0xFFFFFFFF ((u.writeMem t (leAt d 24 4) g.2).rd (.cmp t) 0x088 + 1)) ∧
      ((level = 0 ∨ env.first = true) → exec (.grain t env) s = s.ends (v.cmpRun t q d (if g.1 then 0 else 1) level 0 size g.2.length)) ∧
      (level ≠ 0 → env.first = false → env.second = true → exec (.grain t env) s =
        s.ends ((((v.cmpRun t q d (if g.1 then 0 else 1) level 1 size g.2.length).count (.cmp t) 0x08C 1).flag
          (.cmp t) 0x028 1).logTransient 0xA0 t 0)) ∧
      (level ≠ 0 → env.first = false → env.second = false → exec (.grain t env) s =
        s.ends (((u.flag (.cmp t) 0x028 1).cmpRun t q d 0x09 level 1 0 0).retireComp t))) ∧
  (∀ (s : State) (t : TileId) (env : VerifyEnv) (q : Nat) (d : List Byte) (u : State),
    (∀ e, u.streamCtx t d = .error e → (CmpTakes s t 2 q d u → exec (.compress t env) s = s.ends (u.cmpRun t q d e 0 0 0 0)) ∧
      (CmpTakes s t 3 q d u → exec (.decompress t) s = s.ends (u.cmpRun t q d e 0 0 0 0))) ∧
    ∀ c, u.streamCtx t d = .ok c →
      let first := bitN (leAt d 3 1) 0
      let last := bitN (leAt d 3 1) 1
      let src := u.readMem t (leAt d 16 4) (leAt d 20 4)
      let bufs := u.cmpBufs t d
      let space := sumOf (bufs.map fun b => b.2)
      let whole := c.input ++ src
      (CmpTakes s t 2 q d u →
        let level := min (if first then leAt d 2 1 else c.level) u.power.govcap
        let out := (if first then wrapOpen (leAt d 1 1) level else []) ++
          Config.deflate level (newest 32768 c.input) src last ++ (if last then wrapClose (leAt d 1 1) whole else [])
        let c' : StreamCtx := { c with level := level, input := whole, output := c.output ++ out }
        ((level = 0 ∨ env.first = true) → out.length ≤ space → exec (.compress t env) s = s.ends
          ((u.scatter t bufs out).cmpEnd t q d (if last then none else some c') (some c') 0 level 0 src.length out.length)) ∧
        ((level = 0 ∨ env.first = true) → space < out.length → bitN (leAt d 3 1) 2 = false → exec (.compress t env) s = s.ends
          (u.cmpEnd t q d (u.tileAt t).comp.live (u.tileAt t).comp.live 0x03 level 0 0 0)) ∧
        ((level = 0 ∨ env.first = true) → space < out.length → bitN (leAt d 3 1) 2 = true → ∃ (n : Nat) (e : StreamCtx),
          exec (.compress t env) s = s.ends ((u.draw.2.scatter t bufs (out.take space)).cmpEnd t q d (some e) (some e) 0x02 level 0 n space) ∧
          n = u.draw.1 % (src.length + 1) ∧ e.input = c.input ++ src.take n ∧ e.output = c.output ++ out.take space ∧ e.ctx = c.ctx) ∧
        (level ≠ 0 → env.first = false → env.second = false → exec (.compress t env) s =
          s.ends (((u.flag (.cmp t) 0x028 1).cmpEnd t q d none (some c) 0x09 level 1 0 0).retireComp t))) ∧
      (CmpTakes s t 3 q d u →
        let xlen := leAt d 36 4
        let lim := if xlen ≠ 0 ∧ xlen ≤ space then xlen else space
        let r := inflateStream c.fmt (some (c.output.length + lim)) whole
        let out := r.out.drop c.output.length
        let used := ceilDiv r.used 8 - c.input.length
        let c' : StreamCtx := { c with input := whole.take (c.input.length + used), output := r.out }
        let ends (st : Nat) : Out := s.ends ((u.scatter t bufs out).cmpEnd t q d (if last then none else some c') (some c') st 0 0 used out.length)
        let short := xlen ≠ 0 ∧ out.length ≠ xlen
        (r.stop = .done → (short → exec (.decompress t) s = ends 0x06) ∧ (¬ short → exec (.decompress t) s = ends 0)) ∧
        (r.stop = .more → (last = false → exec (.decompress t) s = ends 0) ∧ (last = true → short → exec (.decompress t) s = ends 0x06) ∧
          (last = true → ¬ short → exec (.decompress t) s = ends 0x04)) ∧
        (r.stop = .format → exec (.decompress t) s = ends 0x04) ∧ (r.stop = .check → exec (.decompress t) s = ends 0x05) ∧
        (r.stop = .full → (xlen ≠ 0 ∧ xlen ≤ space) → exec (.decompress t) s = ends 0x06) ∧
        (r.stop = .full → ¬ (xlen ≠ 0 ∧ xlen ≤ space) → bitN (leAt d 3 1) 2 = false → exec (.decompress t) s =
          s.ends (u.cmpEnd t q d (u.tileAt t).comp.live (u.tileAt t).comp.live 0x03 0 0 0 0)))) ∧
  ∀ (s : State) (t : TileId) (j : CmpJob), (s.tileAt t).comp.running = some j → ∃ u : State, exec (.cmpJobComplete t) s = s.ends (u.cmpStat t) ∧
    (let v := (s.onTile t fun x => { x with comp := { x.comp with running := none } }).postComp t (.cmp t) 0x018 0x020 0x024
       (slice 12 4 j.desc ++ leBytes 1 j.status ++ leBytes 1 j.level ++ leBytes 1 j.flags ++ leBytes 1 0 ++ leBytes 4 j.inLen ++
         leBytes 4 j.outLen)
     let w := if bitN (leAt j.desc 3 1) 5 then v.flag (.cmp t) 0x028 0 else v
     ((leAt j.desc 0 1 ≠ 1 ∨ 1 < j.status ∨ j.queue = 1) → u = w) ∧
     (leAt j.desc 0 1 = 1 → j.status ≤ 1 → j.queue ≠ 1 → u = w.packJob t j))

/-- QTAIL is written or raises BADADDR. A pipeline with no job to take does nothing, and each row leaves the other's jobs alone. A job whose
context is unknown or whose descriptor is illegal ends INVALID, one on a poisoned or faulty grain PARITY and is held, one whose grain does
not decode with status 1. A GRAIN job places what its image selects in the run-ahead area, or streams it for a head span, and counts its
records; a CONT job places its part of a large record. A running job completes with one entry; a cleared queue is flushed. -/
def Obligations.SiftPipelines : Prop :=
  (∀ (s : State) (t : TileId) (c : Fin 2) (v : Word), let here := s.hasTile t && s.blockOn (.sft t c)
    (here = true → exec (.sftQtail t c v) s = s.ends (s.wr (.sft t c) 0x018 (v.toNat % 2048)) ∧
      exec (.sftQctrlEnClear t c) s = s.ends ((s.siftFlush t c).unflag (.sft t c) 0x010 0)) ∧
    (here = false → exec (.sftQtail t c v) s = s.ends (s.decErr (regAddr (.sft t c) 0x018) 0) ∧
      exec (.sftQctrlEnClear t c) s = s.ends (s.decErr (regAddr (.sft t c) 0x010) 0))) ∧
  (∀ (s : State) (t : TileId) (c : Fin 2) (par : Bool),
    (s.siftHead t c = none → exec (.siftGrain t c par) s = s.ends s ∧ exec (.cont t c par) s = s.ends s) ∧
    (∀ d, s.siftHead t c = some d → (at1 d 0 = 2 → exec (.siftGrain t c par) s = s.ends s) ∧
      (at1 d 0 ≠ 2 → exec (.cont t c par) s = s.ends s) ∧
      (s.siftArea t d = none →
        (at1 d 0 ≠ 2 → exec (.siftGrain t c par) s = s.ends (s.siftRun t c { desc := d, status := 4 } 0)) ∧
        (at1 d 0 = 2 → exec (.cont t c par) s = s.ends (s.siftRun t c { desc := d, status := 4 } 0))) ∧
      ∀ x, s.siftArea t d = some x → siftInvalid d = true →
        (at1 d 0 ≠ 2 → exec (.siftGrain t c par) s = s.ends (s.siftRun t c { desc := d, status := 4 } x.cls)) ∧
        (at1 d 0 = 2 → exec (.cont t c par) s = s.ends (s.siftRun t c { desc := d, status := 4 } x.cls)))) ∧
  (∀ (s : State) (t : TileId) (c : Fin 2) (d : List Byte) (x : SiftCtx) (par : Bool),
    let poison := par || s.anyPoison t (leAt d 12 4) (x.grain + 256)
    let large := isLarge x.layout x.grain
    let held := s.ends (((s.flag (.sft t c) 0x028 2).onSift t c fun y => { y with held := some d }).siftRun t c { desc := d, status := 3 } x.cls)
    let st (n : Nat) : Out := s.ends (s.siftRun t c { desc := d, status := n } x.cls)
    (SiftTakes s t c 1 d x → (poison = true → exec (.siftGrain t c par) s = held) ∧
      (poison = false → s.siftSource t d x.grain = none → exec (.siftGrain t c par) s = st 1)) ∧
    (SiftTakes s t c 2 d x → (large = false → exec (.cont t c par) s = st 4) ∧
      (large = true → poison = true → exec (.cont t c par) s = held) ∧
      (large = true → poison = false → s.siftSource t d x.grain = none → exec (.cont t c par) s = st 1))) ∧
  (∀ (s : State) (t : TileId) (c : Fin 2) (d : List Byte) (x : SiftCtx) (b : List Byte), s.siftSource t d x.grain = some b →
    s.anyPoison t (leAt d 12 4) (x.grain + 256) = false →
    let tag := leAt d 8 4
    let head := bitN (at1 d 1) 1
    let eng := (s.tileAt t).sift c
    let used := sumOf (eng.ahead.map fun y => y.2.length)
    (SiftTakes s t c 1 d x →
      let rs := frame x.layout x.grain (leAt d 20 8) b
      let idx := (List.range rs.length).filter fun i => leAt d 2 2 ≤ i && (leAt d 4 2 == 0xFFFF || i ≤ leAt d 4 2)
      let o := idx.foldl (fun (o : SiftOut) i => match rs[i]? with
        | some r => siftRecord x tag (leAt d 20 8) b (if head then none else some (458752 - used)) (256 - s.escq t c) o i r
        | none => o) {}
      let out := if imgMode x.image = 3 then leBytes (ceilDiv rs.length 8) o.bits else o.out
      let j : SiftJob := ⟨d, if o.stop.isSome then 2 else 0, o.stop.getD 0, o.pass, o.malf, out.length⟩
      ∃ (u : State) (y : SiftEng), exec (.siftGrain t c false) s = s.ends (u.siftRun t c j x.cls) ∧
        u = { s.onSift t c (fun _ => y) with regs := u.regs } ∧ y.esc = eng.esc ++ o.esc ∧ y = { eng with esc := y.esc, head := y.head, ahead := y.ahead } ∧
        (head = true → y.head = eng.head ++ [(tag, out)] ∧ y.ahead = eng.ahead) ∧
        (head = false → y.ahead = eng.ahead ++ [(tag, out)] ∧ y.head = eng.head) ∧
        u.rd (.sft t c) 0x030 = min 0xFFFFFFFF (s.rd (.sft t c) 0x030 + 1) ∧
        u.rd (.sft t c) 0x034 = min 0xFFFFFFFF (s.rd (.sft t c) 0x034 + o.seen) ∧
        u.rd (.sft t c) 0x038 = min 0xFFFFFFFF (s.rd (.sft t c) 0x038 + o.pass) ∧
        u.rd (.sft t c) 0x03C = min 0xFFFFFFFF (s.rd (.sft t c) 0x03C + o.malf) ∧
        u.rd (.sft t c) 0x040 = min 0xFFFFFFFF (s.rd (.sft t c) 0x040 + o.esc.length) ∧
        u.rd (.sft t c) 0x044 = min 0xFFFFFFFF (s.rd (.sft t c) 0x044 + out.length / 256)) ∧
    (SiftTakes s t c 2 d x → isLarge x.layout x.grain = true →
      let out := b.take (layRec x.layout - leAt d 20 8 % 2 ^ largeShift x.layout x.grain * x.grain)
      let done (f : SiftEng → SiftEng) : Out := s.ends (((s.onSift t c f).count (.sft t c) 0x044 (out.length / 256)).siftRun t c
        { desc := d, status := 0, outb := out.length } x.cls)
      (head = true → exec (.cont t c false) s = done fun y => { y with head := y.head ++ [(tag, out)] }) ∧
      (head = false → used + out.length ≤ 458752 → exec (.cont t c false) s = done fun y => { y with ahead := y.ahead ++ [(tag, out)] }) ∧
      (head = false → 458752 < used + out.length → exec (.cont t c false) s = s.ends (s.siftRun t c { desc := d, status := 2 } x.cls)))) ∧
  ∀ (s : State) (t : TileId) (c : Fin 2),
    (((s.tileAt t).sift c).running = none → exec (.sftJobComplete t c) s = s.ends s) ∧
    ∀ j, ((s.tileAt t).sift c).running = some j →
      let u := (s.onSift t c fun x => { x with running := none }).postComp t (.sft t c) 0x01C 0x020 0x024
        (slice 8 4 j.desc ++ leBytes 1 j.status ++ zeros 1 ++ leBytes 2 j.rstop ++ leBytes 2 j.npass ++ leBytes 2 j.nmalf ++ leBytes 4 j.outb)
      (bitN (at1 j.desc 1) 0 = false → exec (.sftJobComplete t c) s = s.ends (u.siftStat t c)) ∧
      (bitN (at1 j.desc 1) 0 = true → exec (.sftJobComplete t c) s = s.ends ((u.flag (.sft t c) 0x028 0).siftStat t c))

/-- QTAIL is written or raises BADADDR. Without a job to start, or with another operation at the head, a row does nothing; an illegal job ends
INVALID and a faulty one PARITY and is held. EXTRACT adds a grain's tuples to the half with room, or ends NOSPACE. SEAL writes one
namespace's tuples as a run image and directory entry, in order. MERGE writes the live tuples of its runs, and PROBE those within its bounds,
none where the filter excludes the key. A running job completes with one entry; a cleared queue is flushed; a namespace regenerated leaves
the list, and the last of all raises vendor event 02h. -/
def Obligations.IndexBuilder : Prop :=
  (∀ (s : State) (t : TileId) (q : Fin 4) (v : Word), let here := s.hasTile t && s.blockOn (.idx t)
    (here = true → exec (.idxQtail t q v) s = s.ends (s.wr (.idx t) (0x04C + 16 * q) (v.toNat % 2048)) ∧
      exec (.idxQctrlEnClear t q) s = s.ends ((s.flushQueue t (.idx t) q 0x01C 0x020 0x024 32 fun d =>
        slice 4 4 d ++ leBytes 1 4 ++ zeros 3 ++ leBytes 4 0 ++ leBytes 4 0).unflag (.idx t) (0x044 + 16 * q) 0)) ∧
    (here = false → exec (.idxQtail t q v) s = s.ends (s.decErr (regAddr (.idx t) (0x04C + 16 * q)) 0) ∧
      exec (.idxQctrlEnClear t q) s = s.ends (s.decErr (regAddr (.idx t) (0x044 + 16 * q)) 0))) ∧
  (∀ (s : State) (t : TileId) (par : Bool),
    (s.idxPick t = none → exec (.extract t par) s = s.ends s ∧ exec (.idxSeal t par) s = s.ends s ∧ exec (.merge t par) s = s.ends s ∧
      exec (.probe t par) s = s.ends s) ∧
    ∀ q d u, s.idxPick t = some (q, d, u) →
      let bad := s.ends (u.idxRun t q d 3 0 0)
      let held := s.ends (((u.flag (.idx t) 0x028 3).onTile t fun x => { x with idx := { x.idx with held := some (q, d) } }).idxRun t q d 2 0 0)
      (1 < at1 d 0 → at1 d 0 ≤ 4 → exec (.extract t par) s = s.ends s) ∧ (at1 d 0 ≠ 2 → exec (.idxSeal t par) s = s.ends s) ∧
      (at1 d 0 ≠ 3 → exec (.merge t par) s = s.ends s) ∧ (at1 d 0 ≠ 4 → exec (.probe t par) s = s.ends s) ∧
      (idxInvalid d = true → ((at1 d 0 ≤ 1 ∨ 4 < at1 d 0) → exec (.extract t par) s = bad) ∧ (at1 d 0 = 2 → exec (.idxSeal t par) s = bad) ∧
        (at1 d 0 = 3 → exec (.merge t par) s = bad) ∧ (at1 d 0 = 4 → exec (.probe t par) s = bad)) ∧
      (idxInvalid d = false → (at1 d 0 = 1 → exec (.extract t true) s = held) ∧ (at1 d 0 = 2 → exec (.idxSeal t true) s = held) ∧
        (at1 d 0 = 3 → exec (.merge t true) s = held) ∧ (at1 d 0 = 4 → exec (.probe t true) s = held))) ∧
  (∀ (s : State) (t : TileId) (q : Nat) (d : List Byte) (u : State), IdxTakes s t 1 q d u →
    u.anyPoison t (leAt d 8 4) (u.grainOfNsx (leAt d 2 2)) = false →
    let nsx := leAt d 2 2
    ((u.indexDecl (nsx + 1) = none ∨ u.nsLayout (nsx + 1) = none) → exec (.extract t false) s = s.ends (u.idxRun t q d 3 0 0)) ∧
    ∀ decl lay, u.indexDecl (nsx + 1) = some decl → u.nsLayout (nsx + 1) = some lay →
      let r := tuplesOf decl lay (u.grainOfNsx nsx) (leAt d 16 8) (at1 d 24) (u.readMem t (leAt d 8 4) (u.grainOfNsx nsx))
      let x := (u.tileAt t).idx
      (8192 < x.half0.length + r.1.length → 8192 < x.half1.length + r.1.length → exec (.extract t false) s = s.ends (u.idxRun t q d 1 0 0)) ∧
      ((x.half0.length + r.1.length ≤ 8192 ∨ x.half1.length + r.1.length ≤ 8192) → ∃ (v : State) (y : IdxSide),
        exec (.extract t false) s = s.ends (v.idxRun t q d 0 r.1.length (r.2.1 + r.2.2)) ∧
        v = { u.onTile t (fun z => { z with idx := y }) with regs := v.regs, mem := v.mem } ∧
        (x.second = false → x.half0.length + r.1.length ≤ 8192 → y.second = false) ∧
        (x.second = true → x.half1.length + r.1.length ≤ 8192 → y.second = true) ∧
        (y.second = false → y.half0 = x.half0 ++ r.1.map (fun z => (nsx, z)) ∧ y.half1 = x.half1) ∧
        (y.second = true → y.half1 = x.half1 ++ r.1.map (fun z => (nsx, z)) ∧ y.half0 = x.half0) ∧
        y.runs = x.runs ∧ y.nextRun = x.nextRun ∧
        y.fresh = x.fresh.filter fun p => !(p.1 == nsx && p.2.gidx == leAt d 16 8 && p.2.gen == at1 d 24))) ∧
  (∀ (s : State) (t : TileId) (q : Nat) (d : List Byte) (u : State), IdxTakes s t 2 q d u → u.anyPoison t (leAt d 8 4) 0 = false →
    let nsx := leAt d 2 2
    let x := (u.tileAt t).idx
    let other := if x.second then x.half0 else x.half1
    let src := if other = [] then (if x.second then x.half1 else x.half0) else other
    let ts := sortBy Tuple.lt ((src.filter fun p => p.1 == nsx).map fun p => p.2)
    ∃ v : State, exec (.idxSeal t false) s = s.ends (v.idxRun t q d 0 ts.length 0) ∧
      v.mem = (u.writeMem t (leAt d 12 4) (runImage 15 nsx x.nextRun (((u.indexDecl (nsx + 1)).map declHash).getD false) ts)).mem ∧
      (v.tileAt t).idx.runs = x.runs ++ (if ts = [] then [] else [⟨x.nextRun, nsx, 15, ts⟩]) ∧
      (∀ p, p ∈ (v.tileAt t).idx.half0 ++ (v.tileAt t).idx.half1 → p ∈ x.half0 ++ x.half1) ∧
      (ts ≠ [] → (⟨(u.tileAt t).ftl.nextSeq, .irun 1 nsx x.nextRun 15⟩ : JEntry) ∈ (v.tileAt t).ftl.journal) ∧
      v = { u with tiles := v.tiles, mem := v.mem, regs := v.regs }) ∧
  (∀ (s : State) (t : TileId) (q : Nat) (d : List Byte) (u : State),
    let nsx := leAt d 2 2
    let hash := ((u.indexDecl (nsx + 1)).map declHash).getD false
    (IdxTakes s t 3 q d u → u.anyPoison t (leAt d 8 4) (4 * leAt d 28 4) = false →
      let all := ((List.range (min 1024 (leAt d 28 4))).map fun i => u.readLe t (leAt d 8 4 + 4 * i) 4).flatMap (u.readRun t)
      let live := sortBy Tuple.lt ((all.filter (u.tupleLive t nsx)).eraseDups)
      ∃ v : State, exec (.merge t false) s = s.ends (v.idxRun t q d 0 live.length (all.length - live.length)) ∧
        let w := u.writeMem t (leAt d 12 4) (runImage 0 nsx (u.tileAt t).idx.nextRun hash live)
        v.mem = w.mem ∧ (w.mergeDue t nsx = none → v.tiles = u.tiles ∧
          v.rd (.idx t) 0x094 = min 0xFFFFFFFF (w.rd (.idx t) 0x094 + 1))) ∧
    (IdxTakes s t 4 q d u → u.anyPoison t (leAt d 8 4) 65536 = false →
      let b := u.readMem t (leAt d 28 4) 67
      let lo := slice 0 (min 32 (at1 b 64)) b
      let hi := slice 32 (min 32 (at1 b 65)) b
      let filt := bitN (at1 d 1) 1
      let passes := (filterBits (filterHash hash lo) 1).2.all (bitN (u.readLe t (leAt d 8 4 + 65536) 64))
      let ts := (List.range 1024).filterMap fun i => Tuple.ofBytes (u.readMem t (leAt d 8 4 + 64 * i) 64)
      let hits := ts.filter fun x => x.klen != 0 && inBounds lo hi (bitN (at1 b 66) 0) (bitN (at1 b 66) 1) x.real
      let live := hits.filter (u.tupleLive t nsx)
      let v := u.writeMem t (leAt d 12 4) (live.flatMap Tuple.bytes)
      (filt = true → passes = false → exec (.probe t false) s = s.ends (u.idxRun t q d 0 0 0)) ∧
      ((filt = false ∨ (passes = true ∧ hits ≠ [])) → exec (.probe t false) s =
        s.ends (v.idxRun t q d 0 live.length (hits.length - live.length))) ∧
      (filt = true → passes = true → hits = [] → exec (.probe t false) s = s.ends ((v.count (.idx t) 0x09C 1).idxRun t q d 0 0 0)))) ∧
  ∀ (s : State) (t : TileId),
    ((s.tileAt t).idx.running = none → exec (.idxJobComplete t) s = s.ends s) ∧
    (∀ j, (s.tileAt t).idx.running = some j →
      let u := (s.onTile t fun x => { x with idx := { x.idx with running := none } }).postComp t (.idx t) 0x01C 0x020 0x024
        (slice 4 4 j.desc ++ leBytes 1 j.status ++ zeros 3 ++ leBytes 4 j.nout ++ leBytes 4 j.ndrop)
      (bitN (at1 j.desc 1) 0 = false → exec (.idxJobComplete t) s = s.ends (u.idxStat t)) ∧
      (bitN (at1 j.desc 1) 0 = true → exec (.idxJobComplete t) s = s.ends ((u.flag (.idx t) 0x028 0).idxStat t))) ∧
    ∀ n, (n ∉ (s.tileAt t).idx.regen → exec (.indexRegeneration t n) s = s.ends s) ∧
      (n ∈ (s.tileAt t).idx.regen → ∃ u : State, n ∉ (u.tileAt t).idx.regen ∧
        (∀ m, m ≠ n → (m ∈ (u.tileAt t).idx.regen ↔ m ∈ (s.tileAt t).idx.regen)) ∧
        u = { s with tiles := u.tiles, regs := u.regs } ∧
        exec (.indexRegeneration t n) s = s.ends (if u.tiles.toList.all fun x => x.idx.regen == [] then u.raise 7 2 0 else u))

/-- QTAIL is written or raises BADADDR. Without a request to start, or with another operation at the head, a row does nothing; an illegal
request ends with status 9 and a faulty one, or one that reads a poisoned word, with 8, and a DEC_HOLD that ends so closes its hold. ENC_BLOCKS and DEC_BLOCKS write each block
through the cipher, under a key that passes its check, or end with the check's status. DEC_HOLD does the same into a hold, which any failure
zeroes and closes. TAGCHECK releases its hold on a match and zeroes it otherwise; NONCE gives each counter value once. A running request
completes with one entry; a cleared queue is flushed. -/
def Obligations.CipherQueue : Prop :=
  (∀ (s : State) (t : TileId) (q : Fin 4) (v : Word), let here := s.hasTile t && s.blockOn (.cqe t)
    (here = true → exec (.cqeQtail t q v) s = s.ends (s.wr (.cqe t) (0x04C + 16 * q) (v.toNat % 2048)) ∧
      exec (.cqeQctrlEnClear t q) s = s.ends ((s.cqeFlush t q 0x0A).unflag (.cqe t) (0x044 + 16 * q) 0)) ∧
    (here = false → exec (.cqeQtail t q v) s = s.ends (s.decErr (regAddr (.cqe t) (0x04C + 16 * q)) 0) ∧
      exec (.cqeQctrlEnClear t q) s = s.ends (s.decErr (regAddr (.cqe t) (0x044 + 16 * q)) 0))) ∧
  (∀ (s : State) (t : TileId) (par : Bool),
    (s.cqePick t = none → exec (.encBlocks t par) s = s.ends s ∧ exec (.decBlocks t par) s = s.ends s ∧ exec (.decHold t par) s = s.ends s ∧
      exec (.tagcheck t par) s = s.ends s ∧ exec (.nonce t par) s = s.ends s) ∧
    ∀ q d u, s.cqePick t = some (q, d, u) →
      let bad := s.ends (u.cqeRun t q d 9 0)
      let held (w : State) : Out := s.ends (((w.flag (.cqe t) 0x028 3).onCqe t fun x => { x with held := some (q, d) }).cqeRun t q d 8 0)
      (1 < at1 d 0 → at1 d 0 ≤ 5 → exec (.encBlocks t par) s = s.ends s) ∧ (at1 d 0 ≠ 2 → exec (.decBlocks t par) s = s.ends s) ∧
      (at1 d 0 ≠ 3 → exec (.decHold t par) s = s.ends s) ∧ (at1 d 0 ≠ 4 → exec (.tagcheck t par) s = s.ends s) ∧
      (at1 d 0 ≠ 5 → exec (.nonce t par) s = s.ends s) ∧
      (cqeInvalid d = true → ((at1 d 0 ≤ 1 ∨ 5 < at1 d 0) → exec (.encBlocks t par) s = bad) ∧
        (at1 d 0 = 2 → exec (.decBlocks t par) s = bad) ∧ (at1 d 0 = 4 → exec (.tagcheck t par) s = bad) ∧
        (at1 d 0 = 5 → exec (.nonce t par) s = bad) ∧
        (at1 d 0 = 3 → exec (.decHold t par) s = s.ends ((u.dropHold t (at1 d 2)).cqeRun t q d 9 0))) ∧
      (cqeInvalid d = false → (par = true ∨ u.cqePoison t d = true) →
        (at1 d 0 = 1 → exec (.encBlocks t par) s = held u) ∧ (at1 d 0 = 2 → exec (.decBlocks t par) s = held u) ∧
        (at1 d 0 = 3 → exec (.decHold t par) s = held (u.dropHold t (at1 d 2))) ∧
        (at1 d 0 = 4 → exec (.tagcheck t par) s = held u) ∧ (at1 d 0 = 5 → exec (.nonce t par) s = held u))) ∧
  (∀ (s : State) (t : TileId) (q : Nat) (d : List Byte) (u : State), let slot := leAt d 4 2
    let owner := leAt d 8 4
    (∀ e, e ≠ 0 → (CqeTakes s t 1 q d u → u.keyCheck slot owner [2] = e → exec (.encBlocks t false) s = s.ends (u.cqeRun t q d e 0)) ∧
      (CqeTakes s t 2 q d u → u.keyCheck slot owner [3] = e → exec (.decBlocks t false) s = s.ends (u.cqeRun t q d e 0)) ∧
      (CqeTakes s t 5 q d u → u.keyCheck slot owner [2, 3] = e → exec (.nonce t false) s = s.ends (u.cqeRun t q d e 0))) ∧
    (let w := u.takeKey t slot
     let src := w.rawRead t (leAt d 16 4) (leAt d 28 4)
     let done_ (enc : Bool) : Out :=
       let out := cipherBlocks enc (u.keySlot slot).key src (w.cqeAux t d)
       s.ends (((w.rawWrite t (leAt d 20 4) out).count (.cqe t) 0x080 (out.length / 16)).cqeRun t q d 0 out.length)
     (CqeTakes s t 1 q d u → u.keyCheck slot owner [2] = 0 → exec (.encBlocks t false) s = done_ true) ∧
     (CqeTakes s t 2 q d u → u.keyCheck slot owner [3] = 0 → exec (.decBlocks t false) s = done_ false)) ∧
    (CqeTakes s t 5 q d u → u.keyCheck slot owner [2, 3] = 0 →
      let n := (u.keySlot slot).nonce
      (n = 2 ^ 96 - 1 → exec (.nonce t false) s = s.ends ((u.keyGrant t).cqeRun t q d 5 0)) ∧
      (n < 2 ^ 96 - 1 → exec (.nonce t false) s = s.ends ((((u.putSlot { u.keySlot slot with nonce := n + 1 }).keyGrant t).rawWrite t
        (leAt d 20 4) (leBytes 12 n ++ zeros 4)).cqeRun t q d 0 16)))) ∧
  (∀ (s : State) (t : TileId) (q : Nat) (d : List Byte) (u : State), CqeTakes s t 3 q d u →
    let slot := leAt d 4 2
    let use := if bitN (at1 d 1) 1 then 2 else 3
    let bad (e : Nat) : Out := s.ends ((u.dropHold t (at1 d 2)).cqeRun t q d e 0)
    (∀ e, u.holdFor t d = .error e → exec (.decHold t false) s = bad e) ∧
    ∀ h, u.holdFor t d = .ok h →
      (∀ e, e ≠ 0 → u.keyCheck slot (leAt d 8 4) [use] = e → exec (.decHold t false) s = bad e) ∧
      (u.keyCheck slot (leAt d 8 4) [use] = 0 →
        let w := u.takeKey t slot
        let out := cipherBlocks (bitN (at1 d 1) 1) (u.keySlot slot).key (w.rawRead t (leAt d 16 4) (leAt d 28 4)) (w.cqeAux t d)
        exec (.decHold t false) s = s.ends ((((w.onCqe t fun x => { x with holds := x.holds.filter (fun y => y.hid != h.hid) ++ [h] }).rawWrite t
          (leAt d 20 4) out).count (.cqe t) 0x080 (out.length / 16)).cqeRun t q d 0 out.length))) ∧
  (∀ (s : State) (t : TileId) (q : Nat) (d : List Byte) (u : State), CqeTakes s t 4 q d u →
    let find := (u.tileAt t).cqe.holds.find? fun h => h.hid == at1 d 2
    (find = none → exec (.tagcheck t false) s = s.ends (u.cqeRun t q d 2 0)) ∧
    ∀ h, find = some h →
      ((h.kslot ≠ leAt d 4 2 ∨ h.owner ≠ leAt d 8 4) → exec (.tagcheck t false) s = s.ends (u.cqeRun t q d 2 0)) ∧
      (h.kslot = leAt d 4 2 → h.owner = leAt d 8 4 → u.holdBusy t q h.hid = true → exec (.tagcheck t false) s = s.ends (u.cqeRun t q d 6 0)) ∧
      (h.kslot = leAt d 4 2 → h.owner = leAt d 8 4 → u.holdBusy t q h.hid = false →
        let last := (((u.tileAt t).dge.last.find? fun p => p.1 == u.rdField (.dge t) 0x008 12 8).map fun p => p.2).getD []
        let tag := if bitN (at1 d 1) 4 then fit 16 last else u.rawRead t (leAt d 16 4) 16
        (tag = u.rawRead t (leAt d 24 4) 16 → exec (.tagcheck t false) s = s.ends (((u.onCqe t fun x => { x with
          holds := x.holds.filter fun y => y.hid != h.hid }).cqeStat t).cqeRun t q d 0 0)) ∧
        (tag ≠ u.rawRead t (leAt d 24 4) 16 → exec (.tagcheck t false) s =
          s.ends ((((u.dropHold t h.hid).count (.cqe t) 0x084 1).flag (.cqe t) 0x028 1).cqeRun t q d 1 0)))) ∧
  ∀ (s : State) (t : TileId),
    ((s.tileAt t).cqe.running = none → exec (.cqeRequestComplete t) s = s.ends s) ∧
    ∀ j, (s.tileAt t).cqe.running = some j →
      let u := (s.onCqe t fun x => { x with running := none }).postComp t (.cqe t) 0x018 0x020 0x024
        (slice 12 4 j.desc ++ leBytes 1 j.status ++ zeros 1 ++ slice 2 1 j.desc ++ zeros 1 ++ leBytes 4 j.out ++ zeros 4)
      (bitN (at1 j.desc 1) 0 = false → exec (.cqeRequestComplete t) s = s.ends (u.cqeStat t)) ∧
      (bitN (at1 j.desc 1) 0 = true → exec (.cqeRequestComplete t) s = s.ends ((u.flag (.cqe t) 0x028 0).cqeStat t))

/-- A control write to an absent or switched-off engine raises BADADDR; a disabled or retired engine ignores it; with a message open, a write of
another requester only sets BUSYREJ. START opens an empty message of its owner, and a KMAC needs its key. Bytes are absorbed and counted while
BUSY is clear, lost with OVR while it is set, and past a declared length only set LENERR. FEED streams memory, and its end absorbs it. FINISH
gives the result to the output registers, to a key slot, or, after an error, to none. SQUEEZE goes on with a SHAKE; ABORT ends the message;
SAVE and RESTORE move it through a 224-byte area. -/
def Obligations.DigestEngine : Prop :=
  (∀ (s : State) (t : TileId) (o : Fin 17) (v : Word) (b : Byte),
    let far := !s.hasTile t || !s.blockOn (.dge t)
    let off := !bitN (s.rd (.dge t) 0) 0 || (s.tileAt t).dge.retired.isSome
    let all (out : Nat → Out) : Prop := exec (.dgStart t o v) s = out 0x004 ∧ exec (.dgData t o v) s = out 0x010 ∧
      exec (.dgDatab t o b) s = out 0x014 ∧ exec (.dgFeed t o) s = out 0x004 ∧ exec (.dgFinish t o v) s = out 0x004 ∧
      exec (.dgSqueeze t o) s = out 0x004 ∧ exec (.dgAbort t o) s = out 0x004 ∧ exec (.dgSave t o) s = out 0x004 ∧
      exec (.dgRestore t o) s = out 0x004
    (far = true → all fun a => s.ends (s.decErr (regAddr (.dge t) a) 0)) ∧ (far = false → off = true → all fun _ => s.ends s) ∧
    (far = false → off = false → s.dgOpen t = true → s.rdField (.dge t) 0x008 12 8 ≠ o.val →
      all fun _ => s.ends ((s.dgGrant t o).flag (.dge t) 0x008 6))) ∧
  (∀ (s : State) (t : TileId) (o : Fin 17) (v : Word), DgeTakes s t o →
    let alg := field v.toNat 6 3
    let kmac := alg = 5 ∨ alg = 6
    let k := s.keySlot (s.rd (.dge t) 0x024)
    ((alg = 0 ∨ 6 < alg) → exec (.dgStart t o v) s = s.ends (s.dgGrant t o)) ∧
    (kmac → (k.state ≠ 2 ∨ k.use 5 = false) → exec (.dgStart t o v) s = s.ends ((s.dgGrant t o).flag (.dge t) 0x008 4)) ∧
    (0 < alg → alg ≤ 6 → (kmac → k.state = 2 ∧ k.use 5 = true) → ∃ (u : State) (m : DgMsg), exec (.dgStart t o v) s = s.ends u ∧
      (u.tileAt t).dge = { (s.tileAt t).dge with msg := some m, feeding := none, ptr := (o.val + 1) % 17 } ∧ m.alg = alg ∧ m.data = [] ∧
      m.decl = bitN v.toNat 7 ∧ m.tokey = bitN v.toNat 8 ∧ m.cmp = bitN v.toNat 9 ∧ m.squeezed = 0 ∧ (kmac → m.key = k.key ∧ m.cust = s.dgCust t) ∧
      u.dgOpen t = true ∧ u.rdField (.dge t) 0x008 12 8 = o.val ∧ u.rdField (.dge t) 0x008 5 1 = 0 ∧
      u.rdField (.dge t) 0x008 7 6 = s.rdField (.dge t) 0x008 7 6 ∧ u.rd (.dge t) 0x03C = 0 ∧ u.rd (.dge t) 0x040 = 0 ∧
      (∀ i, i < 16 → u.rd (.dge t) (0x080 + 4 * i) = 0) ∧ (kmac → u.dgBusy t = true) ∧ (¬ kmac → u.dgBusy t = false) ∧
      u.mem = s.mem)) ∧
  (∀ (s : State) (t : TileId) (o : Fin 17) (v : Word) (b : Byte), DgeTakes s t o → let g := s.dgGrant t o
    (s.dgOpen t = false → exec (.dgData t o v) s = s.ends g ∧ exec (.dgDatab t o b) s = s.ends g ∧ exec (.dgFeed t o) s = s.ends g ∧
      exec (.dgFinish t o v) s = s.ends g ∧ exec (.dgAbort t o) s = s.ends g ∧ exec (.dgSave t o) s = s.ends g) ∧
    (s.dgOpen t = true → s.dgBusy t = true → exec (.dgData t o v) s = s.ends (g.flag (.dge t) 0x008 2) ∧
      exec (.dgDatab t o b) s = s.ends (g.flag (.dge t) 0x008 2) ∧ exec (.dgSave t o) s = s.ends g) ∧
    ∀ m, (s.tileAt t).dge.msg = some m → s.dgOpen t = true →
      let add (bs : List Byte) : State := (g.onDge t fun x => { x with msg := some { m with data := m.data ++ bs } }).dgCount t (m.data.length + bs.length)
      let took (bs : List Byte) : Out := s.ends (if (m.data.length + bs.length) / dgRate m.alg = m.data.length / dgRate m.alg then add bs
        else (add bs).wr (.dge t) 0x00C 1)
      let fits (bs : List Byte) : Prop := m.decl = true → m.data.length + bs.length ≤ s.dgLen t
      (s.dgBusy t = false →
        (fits (leBytes 4 v.toNat) → exec (.dgData t o v) s = took (leBytes 4 v.toNat)) ∧ (fits [b] → exec (.dgDatab t o b) s = took [b]) ∧
        (¬ fits (leBytes 4 v.toNat) → exec (.dgData t o v) s = s.ends (g.flag (.dge t) 0x008 3)) ∧
        (¬ fits [b] → exec (.dgDatab t o b) s = s.ends (g.flag (.dge t) 0x008 3)) ∧
        ∃ u : State, exec (.dgSave t o) s = s.ends u ∧ u.dgOpen t = false ∧ u.dgBusy t = false ∧ (u.tileAt t).dge.msg = none ∧
          ((s.drawBytes 224).1, m, s.rdField (.dge t) 0x008 5 2) ∈ (u.tileAt t).dge.saves ∧
          u.mem = (g.writeMem t (s.rd (.dge t) 0x038 / 64 * 64) (s.drawBytes 224).1).mem) ∧
      exec (.dgAbort t o) s = s.ends (((g.onDge t fun x => { x with msg := none, feeding := none }).unflag (.dge t) 0x008 0).wr (.dge t) 0x00C 0) ∧
      (let src := s.rd (.dge t) 0x030
       let len := s.rd (.dge t) 0x034
       ((s.tileAt t).dge.feeding.isSome = true → exec (.dgFeed t o) s = s.ends g ∧ exec (.dgFinish t o v) s = s.ends g) ∧
       ((s.tileAt t).dge.feeding = none → s.anyPoison t src len = true → exec (.dgFeed t o) s =
         s.ends (((g.onDge t fun x => { x with msg := none, held := true }).unflag (.dge t) 0x008 0).flag (.dge t) 0x04C 1)) ∧
       ((s.tileAt t).dge.feeding = none → s.anyPoison t src len = false → exec (.dgFeed t o) s =
         s.ends (((g.holdRef t src len).onDge t fun x => { x with feeding := some (s.readMem t src len) }).wr (.dge t) 0x00C 1)))) ∧
  (∀ (s : State) (t : TileId) (o : Fin 17) (v : Word) (m : DgMsg), DgeTakes s t o → s.dgOpen t = true → (s.tileAt t).dge.msg = some m →
    (s.tileAt t).dge.feeding = none →
    let bad := bitN (s.rd (.dge t) 0x008) 2 || bitN (s.rd (.dge t) 0x008) 3 || bitN (s.rd (.dge t) 0x008) 5 ||
      (m.decl && m.data.length != s.dgLen t)
    let r := m.result (s.dgOlen t)
    ∃ u : State, exec (.dgFinish t o v) s = s.ends u ∧ u.dgOpen t = false ∧ bitN (u.rd (.dge t) 0x008) 1 = true ∧
      u.rdField (.dge t) 0x04C 0 0 = 1 ∧ u.mem = s.mem ∧
      (bad = true → u.rdField (.dge t) 0x04C 1 1 = 1 ∧ (u.tileAt t).dge.msg = none ∧ u.rd (.dge t) 0x044 = 0 ∧ u.rd (.dge t) 0x048 = 0 ∧
        (∀ i, i < 16 → u.rd (.dge t) (0x080 + 4 * i) = 0) ∧ u.keys = s.keys) ∧
      (bad = false → (o.val, fit 16 r) ∈ (u.tileAt t).dge.last ∧
        (m.tokey = false → u.keys = s.keys ∧ (∀ i, i < 16 → u.rd (.dge t) (0x080 + 4 * i) = leAt r (4 * i) 4) ∧
          (u.tileAt t).dge.msg = if m.alg = 3 ∨ m.alg = 4 then some { m with squeezed := s.dgOlen t } else none) ∧
        (m.tokey = true → (u.tileAt t).dge.msg = none) ∧
        (m.cmp = true → let same := decide (slice 0 (max 1 (min 64 (s.rd (.dge t) 0x02C))) r =
            slice 0 (max 1 (min 64 (s.rd (.dge t) 0x02C))) ((List.range 16).flatMap fun i => leBytes 4 (s.rd (.dge t) (0x0C0 + 4 * i))))
          u.rd (.dge t) 0x044 = (if same then 0x3CA55AC3 else 0xC35AA53C) ∧ u.rd (.dge t) 0x048 = if same then 0xC35AA53C else 0x3CA55AC3))) ∧
  (∀ (s : State) (t : TileId),
    ((s.tileAt t).dge.feeding = none → exec (.dgFeedDone t) s = s.ends s) ∧
    (∀ bs, (s.tileAt t).dge.feeding = some bs → exec (.dgFeedDone t) s =
      s.ends (((s.onDge t fun x => { x with feeding := none }).dgAbsorb t bs).wr (.dge t) 0x00C 0)) ∧
    (s.dgBusy t = true → (s.tileAt t).dge.feeding = none → exec (.dgPermutationDone t) s = s.ends (s.wr (.dge t) 0x00C 0)) ∧
    ((s.dgBusy t = false ∨ (s.tileAt t).dge.feeding ≠ none) → exec (.dgPermutationDone t) s = s.ends s)) ∧
  ∀ (s : State) (t : TileId) (o : Fin 17), DgeTakes s t o → let g := s.dgGrant t o
    (∀ m, (s.tileAt t).dge.msg = some m → s.dgOpen t = false → s.rdField (.dge t) 0x008 12 8 = o.val → 0 < m.squeezed →
      exec (.dgSqueeze t o) s = s.ends ((g.onDge t fun x => { x with msg := some { m with squeezed := m.squeezed + s.dgOlen t } }).dgOut t
        (m.result (s.dgOlen t)))) ∧
    ((s.tileAt t).dge.msg = none → exec (.dgSqueeze t o) s = s.ends g) ∧
    (s.dgOpen t = true → exec (.dgSqueeze t o) s = s.ends g ∧ exec (.dgRestore t o) s = s.ends g) ∧
    (s.dgOpen t = false → let area := s.readMem t (s.rd (.dge t) 0x038 / 64 * 64) 224
      ((∀ y ∈ (s.tileAt t).dge.saves, y.1 ≠ area) → exec (.dgRestore t o) s = s.ends (g.flag (.dge t) 0x008 7)) ∧
      ∀ m fl, (s.tileAt t).dge.saves.find? (fun y => y.1 == area) = some (area, m, fl) → exec (.dgRestore t o) s =
        s.ends (((g.onDge t fun x => { x with msg := some m }).wr (.dge t) 0x008
          (1 + fl * 4 + s.rdField (.dge t) 0x008 7 6 * 64 + o.val * 256)).dgCount t m.data.length))

/-- A maintenance command of an absent tile raises BADADDR, and a bad or overlapping one only sets BADRANGE; otherwise it marks BUSY, and INV
drops the unlocked lines, CLEAN and FLUSH write dirty ones home, FLUSH drops the unlocked ones, UNLOCK unlocks, and LOCK never unlocks. A fill
clears its range and its poison, bar retired banks; a scrub poisons what it cannot correct, in its range, and counts it. The end of each
clears its busy bit and raises its interrupt, once. BANK_RET retires a bank for good: the near pool replaces the first, scratch the
others, and with none left the tile is failed. A logged error of memory outside a sachet's areas is rewritten and scrubbed, once as a
transient, and otherwise its bank is retired. -/
def Obligations.MemoryEngines : Prop :=
  (∀ (s : State) (t : TileId),
    let all (out : Out) : Prop := exec (.maintInv t) s = out ∧ exec (.maintClean t) s = out ∧ exec (.maintFlush t) s = out ∧
      exec (.maintLock t) s = out ∧ exec (.maintUnlock t) s = out
    (s.hasTile t = false → all (s.ends (s.decErr (regAddr (.mem t) 0x010) 0))) ∧
    (s.hasTile t = true → (s.rdField (.mem t) 0x01C 0 0 = 1 ∨ s.rd (.mem t) 0x018 = 0 ∨ s.rd (.mem t) 0x018 % 64 ≠ 0 ∨
      s.rd (.mem t) 0x014 % 64 ≠ 0) → all (s.ends (s.flag (.mem t) 0x01C 2))) ∧
    (s.hasTile t = true → s.rdField (.mem t) 0x01C 0 0 = 0 → s.rd (.mem t) 0x018 ≠ 0 → s.rd (.mem t) 0x018 % 64 = 0 →
      s.rd (.mem t) 0x014 % 64 = 0 →
      let mine (l : L2Line) : Prop := l.tile = t ∧ l.addr < s.rd (.mem t) 0x014 + s.rd (.mem t) 0x018 ∧ s.rd (.mem t) 0x014 < l.addr + 64
      let ran (c : Instr) (u : State) : Prop := exec c s = s.ends u ∧ u.rdField (.mem t) 0x01C 0 0 = 1 ∧ u.rdField (.mem t) 0x01C 1 1 = 0 ∧
        u = { s with mem := u.mem, regs := u.regs }
      (∃ u, ran (.maintInv t) u ∧ u.mem.cells = s.mem.cells ∧ u.mem.host = s.mem.host ∧
        ∀ l, l ∈ u.mem.lines ↔ l ∈ s.mem.lines ∧ (mine l → l.locked = true)) ∧
      (∃ u, ran (.maintClean t) u ∧
        (∀ l ∈ u.mem.lines, mine l → l.dirty = false) ∧ (∀ l, ¬ mine l → (l ∈ u.mem.lines ↔ l ∈ s.mem.lines)) ∧
        ((∀ l ∈ s.mem.lines, mine l → l.dirty = false) → u.mem.cells = s.mem.cells ∧ u.mem.host = s.mem.host ∧ u.mem.lines = s.mem.lines)) ∧
      (∃ u, ran (.maintFlush t) u ∧ (∀ l ∈ u.mem.lines, mine l → l.locked = true ∧ l.dirty = false) ∧
        ∀ l, ¬ mine l → (l ∈ u.mem.lines ↔ l ∈ s.mem.lines)) ∧
      (∃ u, ran (.maintLock t) u) ∧
      (∃ u, ran (.maintUnlock t) u ∧ (∀ l ∈ u.mem.lines, mine l → l.locked = false) ∧ u.mem.cells = s.mem.cells ∧ u.mem.host = s.mem.host ∧
        ∀ l, ¬ mine l → (l ∈ u.mem.lines ↔ l ∈ s.mem.lines)))) ∧
  (∀ (s : State) (t : TileId), let status := s.rdField (.mem t) 0x01C 0 0
    (status = 0 → exec (.maintDone t) s = s.ends s) ∧ (s.rdField (.mem t) 0x004 4 4 = 0 → exec (.fillDone t) s = s.ends s) ∧
    (s.rdField (.mem t) 0x004 5 5 = 0 → exec (.scrubDone t) s = s.ends s) ∧
    (status = 1 → exec (.maintDone t) s = s.ends (((s.unflag (.mem t) 0x01C 0).flag (.mem t) 0x01C 1).flag (.mem t) 0x074 3)) ∧
    (s.rdField (.mem t) 0x004 4 4 = 1 → exec (.fillDone t) s = s.ends ((s.unflag (.mem t) 0x004 4).flag (.mem t) 0x074 4)) ∧
    (s.rdField (.mem t) 0x004 5 5 = 1 → exec (.scrubDone t) s = s.ends ((s.unflag (.mem t) 0x004 5).flag (.mem t) 0x074 5))) ∧
  (∀ (s : State) (t : TileId) (found : List (Nat × Ecc)),
    (s.hasTile t = false → exec (.fill t) s = s.ends (s.decErr (regAddr (.mem t) 0x020) 0) ∧
      exec (.scrub t found) s = s.ends (s.decErr (regAddr (.mem t) 0x02C) 0)) ∧
    (s.hasTile t = true → s.rdField (.mem t) 0x004 4 4 = 1 → exec (.fill t) s = s.ends s) ∧
    (s.hasTile t = true → s.rdField (.mem t) 0x004 5 5 = 1 → exec (.scrub t found) s = s.ends s) ∧
    (s.hasTile t = true → s.rdField (.mem t) 0x004 4 4 = 0 → ∃ u : State, exec (.fill t) s = s.ends u ∧
      u.rdField (.mem t) 0x004 4 4 = 1 ∧ u = { s with mem := u.mem, regs := u.regs } ∧ u.mem.host = s.mem.host ∧ u.mem.lines = s.mem.lines ∧
      ∀ k, let inside := memKey t (s.rd (.mem t) 0x024 / 8 * 8) ≤ k ∧
          k < memKey t (s.rd (.mem t) 0x024 / 8 * 8) + s.rd (.mem t) 0x028 / 8 * 8 ∧ s.bankRetired k = false
        (inside → u.mem.readCell k = 0 ∧ k ∉ u.mem.poison) ∧
        (¬ inside → u.mem.readCell k = s.mem.readCell k ∧ (k ∈ u.mem.poison ↔ k ∈ s.mem.poison))) ∧
    (s.hasTile t = true → s.rdField (.mem t) 0x004 5 5 = 0 →
      let a := s.rd (.mem t) 0x030 / 8 * 8
      let len := s.rd (.mem t) 0x034 / 8 * 8
      ∃ u : State, exec (.scrub t found) s = s.ends u ∧ u.rdField (.mem t) 0x004 5 5 = 1 ∧ u.rd (.mem t) 0x038 = len / 8 ∧
        u = { s with mem := u.mem, regs := u.regs } ∧ u.mem.cells = s.mem.cells ∧ u.mem.host = s.mem.host ∧ u.mem.lines = s.mem.lines ∧
        ∀ k, k ∈ u.mem.poison ↔ k ∈ s.mem.poison ∨
          ∃ f ∈ found, f.2 = .ue ∧ a ≤ f.1 ∧ f.1 < a + len ∧ s.bankRetired (memKey t f.1) = false ∧ k = memKey t (f.1 / 8 * 8))) ∧
  (∀ (s : State) (found : List (TileId × Nat × Ecc)), ∃ u : State, exec (.hourlyScrub found) s = s.ends u ∧
    u = { s with mem := u.mem, regs := u.regs } ∧ u.mem.cells = s.mem.cells ∧ u.mem.host = s.mem.host ∧
    (∀ k ∈ s.mem.poison, k ∈ u.mem.poison) ∧ ∀ k ∈ s.tileIds, k < 8 → u.rd (.mem k) 0x038 = 0x01800000 / 8 ∧ u.rdField (.mem k) 0x074 5 5 = 1) ∧
  ∀ (s : State) (t : TileId),
    (∀ b : Fin 48, let off := if b.val < 32 then 0x04C else 0x050
      (s.hasTile t = false → exec (.bankRet t b) s = s.ends (s.decErr (regAddr (.mem t) off) 0)) ∧
      (s.hasTile t = true → bitN (s.rd (.mem t) off) (b.val % 32) = true → exec (.bankRet t b) s = s.ends s) ∧
      (s.hasTile t = true → bitN (s.rd (.mem t) off) (b.val % 32) = false → ∃ u : State, exec (.bankRet t b) s = s.ends u ∧
        (t.val, b.val) ∈ u.cfg.body.banks ∧
        (s.rdField (.mem t) 0x004 6 6 = 0 → bitN (u.rd (.mem t) off) (b.val % 32) = true ∧ u.rdField (.mem t) 0x004 6 6 = 1 ∧
          u.logs.retired = s.logs.retired ++ [⟨t.val, 4, b.val, 0xA2, s.logs.nextSeq⟩] ∧ u.mem.cells = s.mem.cells ∧ u.tiles = s.tiles) ∧
        (s.rdField (.mem t) 0x004 6 6 ≠ 0 → s.scr t + 2 ≤ 12 → u.scr t = s.scr t + 2 ∧
          u.logs.retired = s.logs.retired ++ [⟨t.val, 4, b.val, 0xA2, s.logs.nextSeq⟩]) ∧
        (s.rdField (.mem t) 0x004 6 6 ≠ 0 → 12 < s.scr t + 2 → ∃ v : State, u = v.tileFails t))) ∧
    ∀ (e : Fin 16) (clean : Bool) (gs : List (Nat × Nat)),
      let a := s.rd (.mem t) (0x080 + 8 * e)
      let info := s.rd (.mem t) (0x084 + 8 * e)
      let array := field info 13 10
      ((s.hasTile t = false ∨ field info 25 18 = 0 ∨ 1 < field info 9 8 ∨ (array ≠ 0 ∧ array ≠ 8)) →
        exec (.memoryErrorRetry t e clean gs) s = s.ends s) ∧
      (s.hasTile t = true → field info 25 18 ≠ 0 → field info 9 8 = 0 → array = 0 ∨ array = 8 → s.mem.poison.contains (memKey t a) = false →
        (clean = true → exec (.memoryErrorRetry t e clean gs) s = s.ends (s.logTransient 0xA2 t (a / 0x80000))) ∧
        (clean = false → a < 0x01800000 → exec (.memoryErrorRetry t e clean gs) s = s.ends (s.retireBank t (a / 0x80000) 0xA2)) ∧
        (clean = false → 0x01800000 ≤ a → exec (.memoryErrorRetry t e clean gs) s = s.ends (s.memError t a 0 8 15 127 false))) ∧
      (s.hasTile t = true → field info 25 18 ≠ 0 → field info 9 8 = 1 → array = 0 ∨ array = 8 → s.poolAreaAt t a = none → ∃ u : State,
        (clean = true → exec (.memoryErrorRetry t e clean gs) s = s.ends (u.logTransient 0xA2 t (a / 0x80000))) ∧
        (clean = false → a < 0x01800000 → exec (.memoryErrorRetry t e clean gs) s = s.ends (u.retireBank t (a / 0x80000) 0xA2)) ∧
        (clean = false → 0x01800000 ≤ a → exec (.memoryErrorRetry t e clean gs) s = s.ends (u.memError t a 1 8 15 127 false)) ∧
        (∀ k, memKey t a ≤ k → k < memKey t a + 8 → u.mem.readCell k = 0) ∧
        (∀ k, (k < memKey t a ∨ memKey t a + 8 ≤ k) → u.mem.readCell k = s.mem.readCell k) ∧ u.mem.poison = s.mem.poison.erase (memKey t a) ∧
        u.regs = s.regs)

/-- An engine's unit of work that ended with a parity error is repeated once: a success logs a transient, and puts a held job back on its
queue; a failure retires the engine, and with an XTS engine its eight channels. An engine with nothing held, still running, already retired,
or on an absent tile is left alone, and so is the compressor. A packet between adjacent tiles is replayed once; a failed replay retires the
link and fails the device. -/
def Obligations.EngineAndLinkRetries : Prop :=
  (∀ (s : State) (t : TileId) (e : Engine) (ok : Bool), s.hasTile t = false → exec (.engineParityRetry t e ok) s = s.ends s) ∧
  (∀ (s : State) (t : TileId) (ok : Bool), s.hasTile t = true → let x := s.tileAt t
    exec (.engineParityRetry t .cmp ok) s = s.ends s ∧
    (∀ c : Fin 2, let y := x.sift c
      ((y.held = none ∨ y.running.isSome = true ∨ y.retired.isSome = true) → exec (.engineParityRetry t (.sft c) ok) s = s.ends s) ∧
      ∀ d, y.held = some d → y.running = none → y.retired = none →
        exec (.engineParityRetry t (.sft c) true) s =
          s.ends (((s.onSift t c fun y => { y with held := none }).resubmitSift t c d).logTransient 0xA1 t (1 + c)) ∧
        ∃ u : State, exec (.engineParityRetry t (.sft c) false) s = s.ends u ∧ ((u.tileAt t).sift c).retired = some 0xA1 ∧
          ((u.tileAt t).sift c).held = none ∧ ((u.tileAt t).sift (1 - c)).retired = (x.sift (1 - c)).retired ∧
          u.logs.retired = s.logs.retired ++ [⟨t.val, 3, 1 + c.val, 0xA1, s.logs.nextSeq⟩]) ∧
    ((x.idx.held = none ∨ x.idx.running.isSome = true ∨ x.idx.retired.isSome = true) → exec (.engineParityRetry t .idx ok) s = s.ends s) ∧
    ((x.cqe.held = none ∨ x.cqe.running.isSome = true ∨ x.cqe.retired.isSome = true) → exec (.engineParityRetry t .cqe ok) s = s.ends s) ∧
    (∀ q d, x.idx.held = some (q, d) → x.idx.running = none → x.idx.retired = none →
      exec (.engineParityRetry t .idx true) s = s.ends (((s.onTile t fun x => { x with idx := { x.idx with held := none } }).resubmit t
        (.idx t) q d).logTransient 0xA1 t 5) ∧
      ∃ u : State, exec (.engineParityRetry t .idx false) s = s.ends u ∧ (u.tileAt t).idx.retired = some 0xA1 ∧ (u.tileAt t).idx.held = none ∧
        u.logs.retired = s.logs.retired ++ [⟨t.val, 3, 5, 0xA1, s.logs.nextSeq⟩]) ∧
    (∀ q d, x.cqe.held = some (q, d) → x.cqe.running = none → x.cqe.retired = none →
      exec (.engineParityRetry t .cqe true) s = s.ends (((s.onCqe t fun x => { x with held := none }).resubmit t (.cqe t) q d).logTransient
        0xA1 t 6) ∧
      ∃ u : State, exec (.engineParityRetry t .cqe false) s = s.ends u ∧ (u.tileAt t).cqe.retired = some 0xA1 ∧ (u.tileAt t).cqe.held = none ∧
        u.logs.retired = s.logs.retired ++ [⟨t.val, 3, 6, 0xA1, s.logs.nextSeq⟩]) ∧
    (x.dge.retired.isSome = true → exec (.engineParityRetry t .dge ok) s = s.ends s) ∧
    (x.dge.retired = none → exec (.engineParityRetry t .dge true) s =
        s.ends ((s.onDge t fun y => { y with held := false }).logTransient 0xA1 t 7) ∧
      ∃ u : State, exec (.engineParityRetry t .dge false) s = s.ends u ∧ (u.tileAt t).dge.retired = some 0xA1 ∧ (u.tileAt t).dge.msg = none ∧
        u.dgOpen t = false ∧ u.dgBusy t = false ∧ u.logs.retired = s.logs.retired ++ [⟨t.val, 3, 7, 0xA1, s.logs.nextSeq⟩]) ∧
    ∀ c : Fin 2, let xts (x : Tile) := if c.val = 0 then x.xtsA else x.xtsB
      ((xts x).retired.isSome = true → exec (.engineParityRetry t (.xts c) ok) s = s.ends s) ∧
      ((xts x).retired = none → exec (.engineParityRetry t (.xts c) true) s = s.ends (s.logTransient 0xA1 t (3 + c.val)) ∧
        ∃ u : State, exec (.engineParityRetry t (.xts c) false) s = s.ends u ∧ (xts (u.tileAt t)).retired = some 0xA1 ∧
          (∀ i, i < 8 → (u.tileAt t).chanUp (8 * c.val + i) = false) ∧
          (⟨t.val, 3, 3 + c.val, 0xA1, s.logs.nextSeq⟩ : Retired) ∈ u.logs.retired)) ∧
  ∀ (s : State) (a b : TileId),
    ((s.hasTile a = false ∨ s.hasTile b = false ∨ s.hops a b ≠ 1) → ∀ ok, exec (.fabricLinkReplay a b ok) s = s.ends s) ∧
    (s.hasTile a = true → s.hasTile b = true → s.hops a b = 1 →
      exec (.fabricLinkReplay a b true) s = s.ends (s.logTransient 0xA5 a b) ∧
      exec (.fabricLinkReplay a b false) s = s.ends ((s.retireNotice a 6 b 0xA5).failDevice 0xA5 a b))
end

