-- ==== Sys2Proof/Laws/State.lean ====
section
/-! SUPPORT. Laws/State.lean: what each named update of the state leaves as it was, one lemma for each field. -/

namespace Sys2Proof.Machine

open Sys2Proof

@[simp] theorem State.onTile_fuses (s : State) (t : TileId) (f : Tile → Tile) : (s.onTile t f).fuses = s.fuses := rfl
@[simp] theorem State.onTile_regs (s : State) (t : TileId) (f : Tile → Tile) : (s.onTile t f).regs = s.regs := rfl
@[simp] theorem State.onTile_cinch (s : State) (t : TileId) (f : Tile → Tile) : (s.onTile t f).cinch = s.cinch := rfl
@[simp] theorem State.onTile_mem (s : State) (t : TileId) (f : Tile → Tile) : (s.onTile t f).mem = s.mem := rfl
@[simp] theorem State.onTile_host (s : State) (t : TileId) (f : Tile → Tile) : (s.onTile t f).host = s.host := rfl
@[simp] theorem State.onTile_lmcs (s : State) (t : TileId) (f : Tile → Tile) : (s.onTile t f).lmcs = s.lmcs := rfl
@[simp] theorem State.onTile_cfg (s : State) (t : TileId) (f : Tile → Tile) : (s.onTile t f).cfg = s.cfg := rfl
@[simp] theorem State.onTile_ns (s : State) (t : TileId) (f : Tile → Tile) : (s.onTile t f).ns = s.ns := rfl
@[simp] theorem State.onTile_ses (s : State) (t : TileId) (f : Tile → Tile) : (s.onTile t f).ses = s.ses := rfl
@[simp] theorem State.onTile_sift (s : State) (t : TileId) (f : Tile → Tile) : (s.onTile t f).sift = s.sift := rfl
@[simp] theorem State.onTile_cores (s : State) (t : TileId) (f : Tile → Tile) : (s.onTile t f).cores = s.cores := rfl
@[simp] theorem State.onTile_keys (s : State) (t : TileId) (f : Tile → Tile) : (s.onTile t f).keys = s.keys := rfl
@[simp] theorem State.onTile_pins (s : State) (t : TileId) (f : Tile → Tile) : (s.onTile t f).pins = s.pins := rfl
@[simp] theorem State.onTile_mirror (s : State) (t : TileId) (f : Tile → Tile) : (s.onTile t f).mirror = s.mirror := rfl
@[simp] theorem State.onTile_ident (s : State) (t : TileId) (f : Tile → Tile) : (s.onTile t f).ident = s.ident := rfl
@[simp] theorem State.onTile_boot (s : State) (t : TileId) (f : Tile → Tile) : (s.onTile t f).boot = s.boot := rfl
@[simp] theorem State.onTile_power (s : State) (t : TileId) (f : Tile → Tile) : (s.onTile t f).power = s.power := rfl
@[simp] theorem State.onTile_logs (s : State) (t : TileId) (f : Tile → Tile) : (s.onTile t f).logs = s.logs := rfl
@[simp] theorem State.onTile_now (s : State) (t : TileId) (f : Tile → Tile) : (s.onTile t f).now = s.now := rfl
@[simp] theorem State.onTile_free (s : State) (t : TileId) (f : Tile → Tile) : (s.onTile t f).free = s.free := rfl
@[simp] theorem State.onTile_pending (s : State) (t : TileId) (f : Tile → Tile) : (s.onTile t f).pending = s.pending := rfl

@[simp] theorem State.onTileAt_fuses (s : State) (t : Nat) (f : Tile → Tile) : (s.onTileAt t f).fuses = s.fuses := by unfold State.onTileAt; split <;> rfl
@[simp] theorem State.onTileAt_regs (s : State) (t : Nat) (f : Tile → Tile) : (s.onTileAt t f).regs = s.regs := by unfold State.onTileAt; split <;> rfl
@[simp] theorem State.onTileAt_cinch (s : State) (t : Nat) (f : Tile → Tile) : (s.onTileAt t f).cinch = s.cinch := by unfold State.onTileAt; split <;> rfl
@[simp] theorem State.onTileAt_mem (s : State) (t : Nat) (f : Tile → Tile) : (s.onTileAt t f).mem = s.mem := by unfold State.onTileAt; split <;> rfl
@[simp] theorem State.onTileAt_host (s : State) (t : Nat) (f : Tile → Tile) : (s.onTileAt t f).host = s.host := by unfold State.onTileAt; split <;> rfl
@[simp] theorem State.onTileAt_lmcs (s : State) (t : Nat) (f : Tile → Tile) : (s.onTileAt t f).lmcs = s.lmcs := by unfold State.onTileAt; split <;> rfl
@[simp] theorem State.onTileAt_cfg (s : State) (t : Nat) (f : Tile → Tile) : (s.onTileAt t f).cfg = s.cfg := by unfold State.onTileAt; split <;> rfl
@[simp] theorem State.onTileAt_ns (s : State) (t : Nat) (f : Tile → Tile) : (s.onTileAt t f).ns = s.ns := by unfold State.onTileAt; split <;> rfl
@[simp] theorem State.onTileAt_ses (s : State) (t : Nat) (f : Tile → Tile) : (s.onTileAt t f).ses = s.ses := by unfold State.onTileAt; split <;> rfl
@[simp] theorem State.onTileAt_sift (s : State) (t : Nat) (f : Tile → Tile) : (s.onTileAt t f).sift = s.sift := by unfold State.onTileAt; split <;> rfl
@[simp] theorem State.onTileAt_cores (s : State) (t : Nat) (f : Tile → Tile) : (s.onTileAt t f).cores = s.cores := by unfold State.onTileAt; split <;> rfl
@[simp] theorem State.onTileAt_keys (s : State) (t : Nat) (f : Tile → Tile) : (s.onTileAt t f).keys = s.keys := by unfold State.onTileAt; split <;> rfl
@[simp] theorem State.onTileAt_pins (s : State) (t : Nat) (f : Tile → Tile) : (s.onTileAt t f).pins = s.pins := by unfold State.onTileAt; split <;> rfl
@[simp] theorem State.onTileAt_mirror (s : State) (t : Nat) (f : Tile → Tile) : (s.onTileAt t f).mirror = s.mirror := by unfold State.onTileAt; split <;> rfl
@[simp] theorem State.onTileAt_ident (s : State) (t : Nat) (f : Tile → Tile) : (s.onTileAt t f).ident = s.ident := by unfold State.onTileAt; split <;> rfl
@[simp] theorem State.onTileAt_boot (s : State) (t : Nat) (f : Tile → Tile) : (s.onTileAt t f).boot = s.boot := by unfold State.onTileAt; split <;> rfl
@[simp] theorem State.onTileAt_power (s : State) (t : Nat) (f : Tile → Tile) : (s.onTileAt t f).power = s.power := by unfold State.onTileAt; split <;> rfl
@[simp] theorem State.onTileAt_logs (s : State) (t : Nat) (f : Tile → Tile) : (s.onTileAt t f).logs = s.logs := by unfold State.onTileAt; split <;> rfl
@[simp] theorem State.onTileAt_now (s : State) (t : Nat) (f : Tile → Tile) : (s.onTileAt t f).now = s.now := by unfold State.onTileAt; split <;> rfl
@[simp] theorem State.onTileAt_free (s : State) (t : Nat) (f : Tile → Tile) : (s.onTileAt t f).free = s.free := by unfold State.onTileAt; split <;> rfl
@[simp] theorem State.onTileAt_pending (s : State) (t : Nat) (f : Tile → Tile) : (s.onTileAt t f).pending = s.pending := by unfold State.onTileAt; split <;> rfl

@[simp] theorem State.setReg_fuses (s : State) (a : Nat) (v : Word) : (s.setReg a v).fuses = s.fuses := rfl
@[simp] theorem State.setReg_cinch (s : State) (a : Nat) (v : Word) : (s.setReg a v).cinch = s.cinch := rfl
@[simp] theorem State.setReg_mem (s : State) (a : Nat) (v : Word) : (s.setReg a v).mem = s.mem := rfl
@[simp] theorem State.setReg_tiles (s : State) (a : Nat) (v : Word) : (s.setReg a v).tiles = s.tiles := rfl
@[simp] theorem State.setReg_host (s : State) (a : Nat) (v : Word) : (s.setReg a v).host = s.host := rfl
@[simp] theorem State.setReg_lmcs (s : State) (a : Nat) (v : Word) : (s.setReg a v).lmcs = s.lmcs := rfl
@[simp] theorem State.setReg_cfg (s : State) (a : Nat) (v : Word) : (s.setReg a v).cfg = s.cfg := rfl
@[simp] theorem State.setReg_ns (s : State) (a : Nat) (v : Word) : (s.setReg a v).ns = s.ns := rfl
@[simp] theorem State.setReg_ses (s : State) (a : Nat) (v : Word) : (s.setReg a v).ses = s.ses := rfl
@[simp] theorem State.setReg_sift (s : State) (a : Nat) (v : Word) : (s.setReg a v).sift = s.sift := rfl
@[simp] theorem State.setReg_cores (s : State) (a : Nat) (v : Word) : (s.setReg a v).cores = s.cores := rfl
@[simp] theorem State.setReg_keys (s : State) (a : Nat) (v : Word) : (s.setReg a v).keys = s.keys := rfl
@[simp] theorem State.setReg_pins (s : State) (a : Nat) (v : Word) : (s.setReg a v).pins = s.pins := rfl
@[simp] theorem State.setReg_mirror (s : State) (a : Nat) (v : Word) : (s.setReg a v).mirror = s.mirror := rfl
@[simp] theorem State.setReg_ident (s : State) (a : Nat) (v : Word) : (s.setReg a v).ident = s.ident := rfl
@[simp] theorem State.setReg_boot (s : State) (a : Nat) (v : Word) : (s.setReg a v).boot = s.boot := rfl
@[simp] theorem State.setReg_power (s : State) (a : Nat) (v : Word) : (s.setReg a v).power = s.power := rfl
@[simp] theorem State.setReg_logs (s : State) (a : Nat) (v : Word) : (s.setReg a v).logs = s.logs := rfl
@[simp] theorem State.setReg_now (s : State) (a : Nat) (v : Word) : (s.setReg a v).now = s.now := rfl
@[simp] theorem State.setReg_free (s : State) (a : Nat) (v : Word) : (s.setReg a v).free = s.free := rfl
@[simp] theorem State.setReg_pending (s : State) (a : Nat) (v : Word) : (s.setReg a v).pending = s.pending := rfl

@[simp] theorem State.wr_fuses (s : State) (b : Block) (o v : Nat) : (s.wr b o v).fuses = s.fuses := rfl
@[simp] theorem State.wr_cinch (s : State) (b : Block) (o v : Nat) : (s.wr b o v).cinch = s.cinch := rfl
@[simp] theorem State.wr_mem (s : State) (b : Block) (o v : Nat) : (s.wr b o v).mem = s.mem := rfl
@[simp] theorem State.wr_tiles (s : State) (b : Block) (o v : Nat) : (s.wr b o v).tiles = s.tiles := rfl
@[simp] theorem State.wr_host (s : State) (b : Block) (o v : Nat) : (s.wr b o v).host = s.host := rfl
@[simp] theorem State.wr_lmcs (s : State) (b : Block) (o v : Nat) : (s.wr b o v).lmcs = s.lmcs := rfl
@[simp] theorem State.wr_cfg (s : State) (b : Block) (o v : Nat) : (s.wr b o v).cfg = s.cfg := rfl
@[simp] theorem State.wr_ns (s : State) (b : Block) (o v : Nat) : (s.wr b o v).ns = s.ns := rfl
@[simp] theorem State.wr_ses (s : State) (b : Block) (o v : Nat) : (s.wr b o v).ses = s.ses := rfl
@[simp] theorem State.wr_sift (s : State) (b : Block) (o v : Nat) : (s.wr b o v).sift = s.sift := rfl
@[simp] theorem State.wr_cores (s : State) (b : Block) (o v : Nat) : (s.wr b o v).cores = s.cores := rfl
@[simp] theorem State.wr_keys (s : State) (b : Block) (o v : Nat) : (s.wr b o v).keys = s.keys := rfl
@[simp] theorem State.wr_pins (s : State) (b : Block) (o v : Nat) : (s.wr b o v).pins = s.pins := rfl
@[simp] theorem State.wr_mirror (s : State) (b : Block) (o v : Nat) : (s.wr b o v).mirror = s.mirror := rfl
@[simp] theorem State.wr_ident (s : State) (b : Block) (o v : Nat) : (s.wr b o v).ident = s.ident := rfl
@[simp] theorem State.wr_boot (s : State) (b : Block) (o v : Nat) : (s.wr b o v).boot = s.boot := rfl
@[simp] theorem State.wr_power (s : State) (b : Block) (o v : Nat) : (s.wr b o v).power = s.power := rfl
@[simp] theorem State.wr_logs (s : State) (b : Block) (o v : Nat) : (s.wr b o v).logs = s.logs := rfl
@[simp] theorem State.wr_now (s : State) (b : Block) (o v : Nat) : (s.wr b o v).now = s.now := rfl
@[simp] theorem State.wr_free (s : State) (b : Block) (o v : Nat) : (s.wr b o v).free = s.free := rfl
@[simp] theorem State.wr_pending (s : State) (b : Block) (o v : Nat) : (s.wr b o v).pending = s.pending := rfl

@[simp] theorem State.wrField_fuses (s : State) (b : Block) (o hi lo v : Nat) : (s.wrField b o hi lo v).fuses = s.fuses := rfl
@[simp] theorem State.wrField_cinch (s : State) (b : Block) (o hi lo v : Nat) : (s.wrField b o hi lo v).cinch = s.cinch := rfl
@[simp] theorem State.wrField_mem (s : State) (b : Block) (o hi lo v : Nat) : (s.wrField b o hi lo v).mem = s.mem := rfl
@[simp] theorem State.wrField_tiles (s : State) (b : Block) (o hi lo v : Nat) : (s.wrField b o hi lo v).tiles = s.tiles := rfl
@[simp] theorem State.wrField_host (s : State) (b : Block) (o hi lo v : Nat) : (s.wrField b o hi lo v).host = s.host := rfl
@[simp] theorem State.wrField_lmcs (s : State) (b : Block) (o hi lo v : Nat) : (s.wrField b o hi lo v).lmcs = s.lmcs := rfl
@[simp] theorem State.wrField_cfg (s : State) (b : Block) (o hi lo v : Nat) : (s.wrField b o hi lo v).cfg = s.cfg := rfl
@[simp] theorem State.wrField_ns (s : State) (b : Block) (o hi lo v : Nat) : (s.wrField b o hi lo v).ns = s.ns := rfl
@[simp] theorem State.wrField_ses (s : State) (b : Block) (o hi lo v : Nat) : (s.wrField b o hi lo v).ses = s.ses := rfl
@[simp] theorem State.wrField_sift (s : State) (b : Block) (o hi lo v : Nat) : (s.wrField b o hi lo v).sift = s.sift := rfl
@[simp] theorem State.wrField_cores (s : State) (b : Block) (o hi lo v : Nat) : (s.wrField b o hi lo v).cores = s.cores := rfl
@[simp] theorem State.wrField_keys (s : State) (b : Block) (o hi lo v : Nat) : (s.wrField b o hi lo v).keys = s.keys := rfl
@[simp] theorem State.wrField_pins (s : State) (b : Block) (o hi lo v : Nat) : (s.wrField b o hi lo v).pins = s.pins := rfl
@[simp] theorem State.wrField_mirror (s : State) (b : Block) (o hi lo v : Nat) : (s.wrField b o hi lo v).mirror = s.mirror := rfl
@[simp] theorem State.wrField_ident (s : State) (b : Block) (o hi lo v : Nat) : (s.wrField b o hi lo v).ident = s.ident := rfl
@[simp] theorem State.wrField_boot (s : State) (b : Block) (o hi lo v : Nat) : (s.wrField b o hi lo v).boot = s.boot := rfl
@[simp] theorem State.wrField_power (s : State) (b : Block) (o hi lo v : Nat) : (s.wrField b o hi lo v).power = s.power := rfl
@[simp] theorem State.wrField_logs (s : State) (b : Block) (o hi lo v : Nat) : (s.wrField b o hi lo v).logs = s.logs := rfl
@[simp] theorem State.wrField_now (s : State) (b : Block) (o hi lo v : Nat) : (s.wrField b o hi lo v).now = s.now := rfl
@[simp] theorem State.wrField_free (s : State) (b : Block) (o hi lo v : Nat) : (s.wrField b o hi lo v).free = s.free := rfl
@[simp] theorem State.wrField_pending (s : State) (b : Block) (o hi lo v : Nat) : (s.wrField b o hi lo v).pending = s.pending := rfl

@[simp] theorem State.count_fuses (s : State) (b : Block) (o k : Nat) : (s.count b o k).fuses = s.fuses := rfl
@[simp] theorem State.count_cinch (s : State) (b : Block) (o k : Nat) : (s.count b o k).cinch = s.cinch := rfl
@[simp] theorem State.count_mem (s : State) (b : Block) (o k : Nat) : (s.count b o k).mem = s.mem := rfl
@[simp] theorem State.count_tiles (s : State) (b : Block) (o k : Nat) : (s.count b o k).tiles = s.tiles := rfl
@[simp] theorem State.count_host (s : State) (b : Block) (o k : Nat) : (s.count b o k).host = s.host := rfl
@[simp] theorem State.count_lmcs (s : State) (b : Block) (o k : Nat) : (s.count b o k).lmcs = s.lmcs := rfl
@[simp] theorem State.count_cfg (s : State) (b : Block) (o k : Nat) : (s.count b o k).cfg = s.cfg := rfl
@[simp] theorem State.count_ns (s : State) (b : Block) (o k : Nat) : (s.count b o k).ns = s.ns := rfl
@[simp] theorem State.count_ses (s : State) (b : Block) (o k : Nat) : (s.count b o k).ses = s.ses := rfl
@[simp] theorem State.count_sift (s : State) (b : Block) (o k : Nat) : (s.count b o k).sift = s.sift := rfl
@[simp] theorem State.count_cores (s : State) (b : Block) (o k : Nat) : (s.count b o k).cores = s.cores := rfl
@[simp] theorem State.count_keys (s : State) (b : Block) (o k : Nat) : (s.count b o k).keys = s.keys := rfl
@[simp] theorem State.count_pins (s : State) (b : Block) (o k : Nat) : (s.count b o k).pins = s.pins := rfl
@[simp] theorem State.count_mirror (s : State) (b : Block) (o k : Nat) : (s.count b o k).mirror = s.mirror := rfl
@[simp] theorem State.count_ident (s : State) (b : Block) (o k : Nat) : (s.count b o k).ident = s.ident := rfl
@[simp] theorem State.count_boot (s : State) (b : Block) (o k : Nat) : (s.count b o k).boot = s.boot := rfl
@[simp] theorem State.count_power (s : State) (b : Block) (o k : Nat) : (s.count b o k).power = s.power := rfl
@[simp] theorem State.count_logs (s : State) (b : Block) (o k : Nat) : (s.count b o k).logs = s.logs := rfl
@[simp] theorem State.count_now (s : State) (b : Block) (o k : Nat) : (s.count b o k).now = s.now := rfl
@[simp] theorem State.count_free (s : State) (b : Block) (o k : Nat) : (s.count b o k).free = s.free := rfl
@[simp] theorem State.count_pending (s : State) (b : Block) (o k : Nat) : (s.count b o k).pending = s.pending := rfl

@[simp] theorem State.flag_fuses (s : State) (b : Block) (o i : Nat) : (s.flag b o i).fuses = s.fuses := rfl
@[simp] theorem State.flag_cinch (s : State) (b : Block) (o i : Nat) : (s.flag b o i).cinch = s.cinch := rfl
@[simp] theorem State.flag_mem (s : State) (b : Block) (o i : Nat) : (s.flag b o i).mem = s.mem := rfl
@[simp] theorem State.flag_tiles (s : State) (b : Block) (o i : Nat) : (s.flag b o i).tiles = s.tiles := rfl
@[simp] theorem State.flag_host (s : State) (b : Block) (o i : Nat) : (s.flag b o i).host = s.host := rfl
@[simp] theorem State.flag_lmcs (s : State) (b : Block) (o i : Nat) : (s.flag b o i).lmcs = s.lmcs := rfl
@[simp] theorem State.flag_cfg (s : State) (b : Block) (o i : Nat) : (s.flag b o i).cfg = s.cfg := rfl
@[simp] theorem State.flag_ns (s : State) (b : Block) (o i : Nat) : (s.flag b o i).ns = s.ns := rfl
@[simp] theorem State.flag_ses (s : State) (b : Block) (o i : Nat) : (s.flag b o i).ses = s.ses := rfl
@[simp] theorem State.flag_sift (s : State) (b : Block) (o i : Nat) : (s.flag b o i).sift = s.sift := rfl
@[simp] theorem State.flag_cores (s : State) (b : Block) (o i : Nat) : (s.flag b o i).cores = s.cores := rfl
@[simp] theorem State.flag_keys (s : State) (b : Block) (o i : Nat) : (s.flag b o i).keys = s.keys := rfl
@[simp] theorem State.flag_pins (s : State) (b : Block) (o i : Nat) : (s.flag b o i).pins = s.pins := rfl
@[simp] theorem State.flag_mirror (s : State) (b : Block) (o i : Nat) : (s.flag b o i).mirror = s.mirror := rfl
@[simp] theorem State.flag_ident (s : State) (b : Block) (o i : Nat) : (s.flag b o i).ident = s.ident := rfl
@[simp] theorem State.flag_boot (s : State) (b : Block) (o i : Nat) : (s.flag b o i).boot = s.boot := rfl
@[simp] theorem State.flag_power (s : State) (b : Block) (o i : Nat) : (s.flag b o i).power = s.power := rfl
@[simp] theorem State.flag_logs (s : State) (b : Block) (o i : Nat) : (s.flag b o i).logs = s.logs := rfl
@[simp] theorem State.flag_now (s : State) (b : Block) (o i : Nat) : (s.flag b o i).now = s.now := rfl
@[simp] theorem State.flag_free (s : State) (b : Block) (o i : Nat) : (s.flag b o i).free = s.free := rfl
@[simp] theorem State.flag_pending (s : State) (b : Block) (o i : Nat) : (s.flag b o i).pending = s.pending := rfl

@[simp] theorem State.unflag_fuses (s : State) (b : Block) (o i : Nat) : (s.unflag b o i).fuses = s.fuses := rfl
@[simp] theorem State.unflag_cinch (s : State) (b : Block) (o i : Nat) : (s.unflag b o i).cinch = s.cinch := rfl
@[simp] theorem State.unflag_mem (s : State) (b : Block) (o i : Nat) : (s.unflag b o i).mem = s.mem := rfl
@[simp] theorem State.unflag_tiles (s : State) (b : Block) (o i : Nat) : (s.unflag b o i).tiles = s.tiles := rfl
@[simp] theorem State.unflag_host (s : State) (b : Block) (o i : Nat) : (s.unflag b o i).host = s.host := rfl
@[simp] theorem State.unflag_lmcs (s : State) (b : Block) (o i : Nat) : (s.unflag b o i).lmcs = s.lmcs := rfl
@[simp] theorem State.unflag_cfg (s : State) (b : Block) (o i : Nat) : (s.unflag b o i).cfg = s.cfg := rfl
@[simp] theorem State.unflag_ns (s : State) (b : Block) (o i : Nat) : (s.unflag b o i).ns = s.ns := rfl
@[simp] theorem State.unflag_ses (s : State) (b : Block) (o i : Nat) : (s.unflag b o i).ses = s.ses := rfl
@[simp] theorem State.unflag_sift (s : State) (b : Block) (o i : Nat) : (s.unflag b o i).sift = s.sift := rfl
@[simp] theorem State.unflag_cores (s : State) (b : Block) (o i : Nat) : (s.unflag b o i).cores = s.cores := rfl
@[simp] theorem State.unflag_keys (s : State) (b : Block) (o i : Nat) : (s.unflag b o i).keys = s.keys := rfl
@[simp] theorem State.unflag_pins (s : State) (b : Block) (o i : Nat) : (s.unflag b o i).pins = s.pins := rfl
@[simp] theorem State.unflag_mirror (s : State) (b : Block) (o i : Nat) : (s.unflag b o i).mirror = s.mirror := rfl
@[simp] theorem State.unflag_ident (s : State) (b : Block) (o i : Nat) : (s.unflag b o i).ident = s.ident := rfl
@[simp] theorem State.unflag_boot (s : State) (b : Block) (o i : Nat) : (s.unflag b o i).boot = s.boot := rfl
@[simp] theorem State.unflag_power (s : State) (b : Block) (o i : Nat) : (s.unflag b o i).power = s.power := rfl
@[simp] theorem State.unflag_logs (s : State) (b : Block) (o i : Nat) : (s.unflag b o i).logs = s.logs := rfl
@[simp] theorem State.unflag_now (s : State) (b : Block) (o i : Nat) : (s.unflag b o i).now = s.now := rfl
@[simp] theorem State.unflag_free (s : State) (b : Block) (o i : Nat) : (s.unflag b o i).free = s.free := rfl
@[simp] theorem State.unflag_pending (s : State) (b : Block) (o i : Nat) : (s.unflag b o i).pending = s.pending := rfl

@[simp] theorem State.decErr_fuses (s : State) (a i : Nat) : (s.decErr a i).fuses = s.fuses := by unfold State.decErr; dsimp only; split <;> rfl
@[simp] theorem State.decErr_cinch (s : State) (a i : Nat) : (s.decErr a i).cinch = s.cinch := by unfold State.decErr; dsimp only; split <;> rfl
@[simp] theorem State.decErr_mem (s : State) (a i : Nat) : (s.decErr a i).mem = s.mem := by unfold State.decErr; dsimp only; split <;> rfl
@[simp] theorem State.decErr_tiles (s : State) (a i : Nat) : (s.decErr a i).tiles = s.tiles := by unfold State.decErr; dsimp only; split <;> rfl
@[simp] theorem State.decErr_host (s : State) (a i : Nat) : (s.decErr a i).host = s.host := by unfold State.decErr; dsimp only; split <;> rfl
@[simp] theorem State.decErr_lmcs (s : State) (a i : Nat) : (s.decErr a i).lmcs = s.lmcs := by unfold State.decErr; dsimp only; split <;> rfl
@[simp] theorem State.decErr_cfg (s : State) (a i : Nat) : (s.decErr a i).cfg = s.cfg := by unfold State.decErr; dsimp only; split <;> rfl
@[simp] theorem State.decErr_ns (s : State) (a i : Nat) : (s.decErr a i).ns = s.ns := by unfold State.decErr; dsimp only; split <;> rfl
@[simp] theorem State.decErr_ses (s : State) (a i : Nat) : (s.decErr a i).ses = s.ses := by unfold State.decErr; dsimp only; split <;> rfl
@[simp] theorem State.decErr_sift (s : State) (a i : Nat) : (s.decErr a i).sift = s.sift := by unfold State.decErr; dsimp only; split <;> rfl
@[simp] theorem State.decErr_cores (s : State) (a i : Nat) : (s.decErr a i).cores = s.cores := by unfold State.decErr; dsimp only; split <;> rfl
@[simp] theorem State.decErr_keys (s : State) (a i : Nat) : (s.decErr a i).keys = s.keys := by unfold State.decErr; dsimp only; split <;> rfl
@[simp] theorem State.decErr_pins (s : State) (a i : Nat) : (s.decErr a i).pins = s.pins := by unfold State.decErr; dsimp only; split <;> rfl
@[simp] theorem State.decErr_mirror (s : State) (a i : Nat) : (s.decErr a i).mirror = s.mirror := by unfold State.decErr; dsimp only; split <;> rfl
@[simp] theorem State.decErr_ident (s : State) (a i : Nat) : (s.decErr a i).ident = s.ident := by unfold State.decErr; dsimp only; split <;> rfl
@[simp] theorem State.decErr_boot (s : State) (a i : Nat) : (s.decErr a i).boot = s.boot := by unfold State.decErr; dsimp only; split <;> rfl
@[simp] theorem State.decErr_power (s : State) (a i : Nat) : (s.decErr a i).power = s.power := by unfold State.decErr; dsimp only; split <;> rfl
@[simp] theorem State.decErr_logs (s : State) (a i : Nat) : (s.decErr a i).logs = s.logs := by unfold State.decErr; dsimp only; split <;> rfl
@[simp] theorem State.decErr_now (s : State) (a i : Nat) : (s.decErr a i).now = s.now := by unfold State.decErr; dsimp only; split <;> rfl
@[simp] theorem State.decErr_free (s : State) (a i : Nat) : (s.decErr a i).free = s.free := by unfold State.decErr; dsimp only; split <;> rfl
@[simp] theorem State.decErr_pending (s : State) (a i : Nat) : (s.decErr a i).pending = s.pending := by unfold State.decErr; dsimp only; split <;> rfl

@[simp] theorem State.draw_fuses (s : State) : (s.draw.2).fuses = s.fuses := rfl
@[simp] theorem State.draw_regs (s : State) : (s.draw.2).regs = s.regs := rfl
@[simp] theorem State.draw_cinch (s : State) : (s.draw.2).cinch = s.cinch := rfl
@[simp] theorem State.draw_mem (s : State) : (s.draw.2).mem = s.mem := rfl
@[simp] theorem State.draw_tiles (s : State) : (s.draw.2).tiles = s.tiles := rfl
@[simp] theorem State.draw_host (s : State) : (s.draw.2).host = s.host := rfl
@[simp] theorem State.draw_lmcs (s : State) : (s.draw.2).lmcs = s.lmcs := rfl
@[simp] theorem State.draw_cfg (s : State) : (s.draw.2).cfg = s.cfg := rfl
@[simp] theorem State.draw_ns (s : State) : (s.draw.2).ns = s.ns := rfl
@[simp] theorem State.draw_ses (s : State) : (s.draw.2).ses = s.ses := rfl
@[simp] theorem State.draw_sift (s : State) : (s.draw.2).sift = s.sift := rfl
@[simp] theorem State.draw_cores (s : State) : (s.draw.2).cores = s.cores := rfl
@[simp] theorem State.draw_keys (s : State) : (s.draw.2).keys = s.keys := rfl
@[simp] theorem State.draw_pins (s : State) : (s.draw.2).pins = s.pins := rfl
@[simp] theorem State.draw_mirror (s : State) : (s.draw.2).mirror = s.mirror := rfl
@[simp] theorem State.draw_ident (s : State) : (s.draw.2).ident = s.ident := rfl
@[simp] theorem State.draw_boot (s : State) : (s.draw.2).boot = s.boot := rfl
@[simp] theorem State.draw_power (s : State) : (s.draw.2).power = s.power := rfl
@[simp] theorem State.draw_logs (s : State) : (s.draw.2).logs = s.logs := rfl
@[simp] theorem State.draw_now (s : State) : (s.draw.2).now = s.now := rfl
@[simp] theorem State.draw_pending (s : State) : (s.draw.2).pending = s.pending := rfl

@[simp] theorem State.drawBytes_fuses (s : State) (k : Nat) : ((s.drawBytes k).2).fuses = s.fuses := rfl
@[simp] theorem State.drawBytes_regs (s : State) (k : Nat) : ((s.drawBytes k).2).regs = s.regs := rfl
@[simp] theorem State.drawBytes_cinch (s : State) (k : Nat) : ((s.drawBytes k).2).cinch = s.cinch := rfl
@[simp] theorem State.drawBytes_mem (s : State) (k : Nat) : ((s.drawBytes k).2).mem = s.mem := rfl
@[simp] theorem State.drawBytes_tiles (s : State) (k : Nat) : ((s.drawBytes k).2).tiles = s.tiles := rfl
@[simp] theorem State.drawBytes_host (s : State) (k : Nat) : ((s.drawBytes k).2).host = s.host := rfl
@[simp] theorem State.drawBytes_lmcs (s : State) (k : Nat) : ((s.drawBytes k).2).lmcs = s.lmcs := rfl
@[simp] theorem State.drawBytes_cfg (s : State) (k : Nat) : ((s.drawBytes k).2).cfg = s.cfg := rfl
@[simp] theorem State.drawBytes_ns (s : State) (k : Nat) : ((s.drawBytes k).2).ns = s.ns := rfl
@[simp] theorem State.drawBytes_ses (s : State) (k : Nat) : ((s.drawBytes k).2).ses = s.ses := rfl
@[simp] theorem State.drawBytes_sift (s : State) (k : Nat) : ((s.drawBytes k).2).sift = s.sift := rfl
@[simp] theorem State.drawBytes_cores (s : State) (k : Nat) : ((s.drawBytes k).2).cores = s.cores := rfl
@[simp] theorem State.drawBytes_keys (s : State) (k : Nat) : ((s.drawBytes k).2).keys = s.keys := rfl
@[simp] theorem State.drawBytes_pins (s : State) (k : Nat) : ((s.drawBytes k).2).pins = s.pins := rfl
@[simp] theorem State.drawBytes_mirror (s : State) (k : Nat) : ((s.drawBytes k).2).mirror = s.mirror := rfl
@[simp] theorem State.drawBytes_ident (s : State) (k : Nat) : ((s.drawBytes k).2).ident = s.ident := rfl
@[simp] theorem State.drawBytes_boot (s : State) (k : Nat) : ((s.drawBytes k).2).boot = s.boot := rfl
@[simp] theorem State.drawBytes_power (s : State) (k : Nat) : ((s.drawBytes k).2).power = s.power := rfl
@[simp] theorem State.drawBytes_logs (s : State) (k : Nat) : ((s.drawBytes k).2).logs = s.logs := rfl
@[simp] theorem State.drawBytes_now (s : State) (k : Nat) : ((s.drawBytes k).2).now = s.now := rfl
@[simp] theorem State.drawBytes_pending (s : State) (k : Nat) : ((s.drawBytes k).2).pending = s.pending := rfl

@[simp] theorem State.setThr_fuses (s : State) (x : Thread) : (s.setThr x).fuses = s.fuses := rfl
@[simp] theorem State.setThr_regs (s : State) (x : Thread) : (s.setThr x).regs = s.regs := rfl
@[simp] theorem State.setThr_cinch (s : State) (x : Thread) : (s.setThr x).cinch = s.cinch := rfl
@[simp] theorem State.setThr_mem (s : State) (x : Thread) : (s.setThr x).mem = s.mem := rfl
@[simp] theorem State.setThr_tiles (s : State) (x : Thread) : (s.setThr x).tiles = s.tiles := rfl
@[simp] theorem State.setThr_host (s : State) (x : Thread) : (s.setThr x).host = s.host := rfl
@[simp] theorem State.setThr_lmcs (s : State) (x : Thread) : (s.setThr x).lmcs = s.lmcs := rfl
@[simp] theorem State.setThr_cfg (s : State) (x : Thread) : (s.setThr x).cfg = s.cfg := rfl
@[simp] theorem State.setThr_ns (s : State) (x : Thread) : (s.setThr x).ns = s.ns := rfl
@[simp] theorem State.setThr_ses (s : State) (x : Thread) : (s.setThr x).ses = s.ses := rfl
@[simp] theorem State.setThr_sift (s : State) (x : Thread) : (s.setThr x).sift = s.sift := rfl
@[simp] theorem State.setThr_keys (s : State) (x : Thread) : (s.setThr x).keys = s.keys := rfl
@[simp] theorem State.setThr_pins (s : State) (x : Thread) : (s.setThr x).pins = s.pins := rfl
@[simp] theorem State.setThr_mirror (s : State) (x : Thread) : (s.setThr x).mirror = s.mirror := rfl
@[simp] theorem State.setThr_ident (s : State) (x : Thread) : (s.setThr x).ident = s.ident := rfl
@[simp] theorem State.setThr_boot (s : State) (x : Thread) : (s.setThr x).boot = s.boot := rfl
@[simp] theorem State.setThr_power (s : State) (x : Thread) : (s.setThr x).power = s.power := rfl
@[simp] theorem State.setThr_logs (s : State) (x : Thread) : (s.setThr x).logs = s.logs := rfl
@[simp] theorem State.setThr_now (s : State) (x : Thread) : (s.setThr x).now = s.now := rfl
@[simp] theorem State.setThr_free (s : State) (x : Thread) : (s.setThr x).free = s.free := rfl
@[simp] theorem State.setThr_pending (s : State) (x : Thread) : (s.setThr x).pending = s.pending := rfl

@[simp] theorem State.issued_fuses (s : State) (h : ThrId) : (s.issued h).fuses = s.fuses := by unfold State.issued; split <;> rfl
@[simp] theorem State.issued_regs (s : State) (h : ThrId) : (s.issued h).regs = s.regs := by unfold State.issued; split <;> rfl
@[simp] theorem State.issued_cinch (s : State) (h : ThrId) : (s.issued h).cinch = s.cinch := by unfold State.issued; split <;> rfl
@[simp] theorem State.issued_mem (s : State) (h : ThrId) : (s.issued h).mem = s.mem := by unfold State.issued; split <;> rfl
@[simp] theorem State.issued_tiles (s : State) (h : ThrId) : (s.issued h).tiles = s.tiles := by unfold State.issued; split <;> rfl
@[simp] theorem State.issued_host (s : State) (h : ThrId) : (s.issued h).host = s.host := by unfold State.issued; split <;> rfl
@[simp] theorem State.issued_lmcs (s : State) (h : ThrId) : (s.issued h).lmcs = s.lmcs := by unfold State.issued; split <;> rfl
@[simp] theorem State.issued_cfg (s : State) (h : ThrId) : (s.issued h).cfg = s.cfg := by unfold State.issued; split <;> rfl
@[simp] theorem State.issued_ns (s : State) (h : ThrId) : (s.issued h).ns = s.ns := by unfold State.issued; split <;> rfl
@[simp] theorem State.issued_ses (s : State) (h : ThrId) : (s.issued h).ses = s.ses := by unfold State.issued; split <;> rfl
@[simp] theorem State.issued_sift (s : State) (h : ThrId) : (s.issued h).sift = s.sift := by unfold State.issued; split <;> rfl
@[simp] theorem State.issued_keys (s : State) (h : ThrId) : (s.issued h).keys = s.keys := by unfold State.issued; split <;> rfl
@[simp] theorem State.issued_pins (s : State) (h : ThrId) : (s.issued h).pins = s.pins := by unfold State.issued; split <;> rfl
@[simp] theorem State.issued_mirror (s : State) (h : ThrId) : (s.issued h).mirror = s.mirror := by unfold State.issued; split <;> rfl
@[simp] theorem State.issued_ident (s : State) (h : ThrId) : (s.issued h).ident = s.ident := by unfold State.issued; split <;> rfl
@[simp] theorem State.issued_boot (s : State) (h : ThrId) : (s.issued h).boot = s.boot := by unfold State.issued; split <;> rfl
@[simp] theorem State.issued_power (s : State) (h : ThrId) : (s.issued h).power = s.power := by unfold State.issued; split <;> rfl
@[simp] theorem State.issued_logs (s : State) (h : ThrId) : (s.issued h).logs = s.logs := by unfold State.issued; split <;> rfl
@[simp] theorem State.issued_now (s : State) (h : ThrId) : (s.issued h).now = s.now := by unfold State.issued; split <;> rfl
@[simp] theorem State.issued_free (s : State) (h : ThrId) : (s.issued h).free = s.free := by unfold State.issued; split <;> rfl
@[simp] theorem State.issued_pending (s : State) (h : ThrId) : (s.issued h).pending = s.pending := by unfold State.issued; split <;> rfl

@[simp] theorem State.putSlot_fuses (s : State) (x : KeySlot) : (s.putSlot x).fuses = s.fuses := rfl
@[simp] theorem State.putSlot_regs (s : State) (x : KeySlot) : (s.putSlot x).regs = s.regs := rfl
@[simp] theorem State.putSlot_cinch (s : State) (x : KeySlot) : (s.putSlot x).cinch = s.cinch := rfl
@[simp] theorem State.putSlot_mem (s : State) (x : KeySlot) : (s.putSlot x).mem = s.mem := rfl
@[simp] theorem State.putSlot_tiles (s : State) (x : KeySlot) : (s.putSlot x).tiles = s.tiles := rfl
@[simp] theorem State.putSlot_host (s : State) (x : KeySlot) : (s.putSlot x).host = s.host := rfl
@[simp] theorem State.putSlot_lmcs (s : State) (x : KeySlot) : (s.putSlot x).lmcs = s.lmcs := rfl
@[simp] theorem State.putSlot_cfg (s : State) (x : KeySlot) : (s.putSlot x).cfg = s.cfg := rfl
@[simp] theorem State.putSlot_ns (s : State) (x : KeySlot) : (s.putSlot x).ns = s.ns := rfl
@[simp] theorem State.putSlot_ses (s : State) (x : KeySlot) : (s.putSlot x).ses = s.ses := rfl
@[simp] theorem State.putSlot_sift (s : State) (x : KeySlot) : (s.putSlot x).sift = s.sift := rfl
@[simp] theorem State.putSlot_cores (s : State) (x : KeySlot) : (s.putSlot x).cores = s.cores := rfl
@[simp] theorem State.putSlot_pins (s : State) (x : KeySlot) : (s.putSlot x).pins = s.pins := rfl
@[simp] theorem State.putSlot_mirror (s : State) (x : KeySlot) : (s.putSlot x).mirror = s.mirror := rfl
@[simp] theorem State.putSlot_ident (s : State) (x : KeySlot) : (s.putSlot x).ident = s.ident := rfl
@[simp] theorem State.putSlot_boot (s : State) (x : KeySlot) : (s.putSlot x).boot = s.boot := rfl
@[simp] theorem State.putSlot_power (s : State) (x : KeySlot) : (s.putSlot x).power = s.power := rfl
@[simp] theorem State.putSlot_logs (s : State) (x : KeySlot) : (s.putSlot x).logs = s.logs := rfl
@[simp] theorem State.putSlot_now (s : State) (x : KeySlot) : (s.putSlot x).now = s.now := rfl
@[simp] theorem State.putSlot_free (s : State) (x : KeySlot) : (s.putSlot x).free = s.free := rfl
@[simp] theorem State.putSlot_pending (s : State) (x : KeySlot) : (s.putSlot x).pending = s.pending := rfl

@[simp] theorem State.keyGrant_fuses (s : State) (i : Nat) : (s.keyGrant i).fuses = s.fuses := rfl
@[simp] theorem State.keyGrant_regs (s : State) (i : Nat) : (s.keyGrant i).regs = s.regs := rfl
@[simp] theorem State.keyGrant_cinch (s : State) (i : Nat) : (s.keyGrant i).cinch = s.cinch := rfl
@[simp] theorem State.keyGrant_mem (s : State) (i : Nat) : (s.keyGrant i).mem = s.mem := rfl
@[simp] theorem State.keyGrant_tiles (s : State) (i : Nat) : (s.keyGrant i).tiles = s.tiles := rfl
@[simp] theorem State.keyGrant_host (s : State) (i : Nat) : (s.keyGrant i).host = s.host := rfl
@[simp] theorem State.keyGrant_lmcs (s : State) (i : Nat) : (s.keyGrant i).lmcs = s.lmcs := rfl
@[simp] theorem State.keyGrant_cfg (s : State) (i : Nat) : (s.keyGrant i).cfg = s.cfg := rfl
@[simp] theorem State.keyGrant_ns (s : State) (i : Nat) : (s.keyGrant i).ns = s.ns := rfl
@[simp] theorem State.keyGrant_ses (s : State) (i : Nat) : (s.keyGrant i).ses = s.ses := rfl
@[simp] theorem State.keyGrant_sift (s : State) (i : Nat) : (s.keyGrant i).sift = s.sift := rfl
@[simp] theorem State.keyGrant_cores (s : State) (i : Nat) : (s.keyGrant i).cores = s.cores := rfl
@[simp] theorem State.keyGrant_pins (s : State) (i : Nat) : (s.keyGrant i).pins = s.pins := rfl
@[simp] theorem State.keyGrant_mirror (s : State) (i : Nat) : (s.keyGrant i).mirror = s.mirror := rfl
@[simp] theorem State.keyGrant_ident (s : State) (i : Nat) : (s.keyGrant i).ident = s.ident := rfl
@[simp] theorem State.keyGrant_boot (s : State) (i : Nat) : (s.keyGrant i).boot = s.boot := rfl
@[simp] theorem State.keyGrant_power (s : State) (i : Nat) : (s.keyGrant i).power = s.power := rfl
@[simp] theorem State.keyGrant_logs (s : State) (i : Nat) : (s.keyGrant i).logs = s.logs := rfl
@[simp] theorem State.keyGrant_now (s : State) (i : Nat) : (s.keyGrant i).now = s.now := rfl
@[simp] theorem State.keyGrant_free (s : State) (i : Nat) : (s.keyGrant i).free = s.free := rfl
@[simp] theorem State.keyGrant_pending (s : State) (i : Nat) : (s.keyGrant i).pending = s.pending := rfl

@[simp] theorem State.log_fuses (s : State) (a b c d e f : Nat) : (s.log a b c d e f).fuses = s.fuses := rfl
@[simp] theorem State.log_regs (s : State) (a b c d e f : Nat) : (s.log a b c d e f).regs = s.regs := rfl
@[simp] theorem State.log_cinch (s : State) (a b c d e f : Nat) : (s.log a b c d e f).cinch = s.cinch := rfl
@[simp] theorem State.log_mem (s : State) (a b c d e f : Nat) : (s.log a b c d e f).mem = s.mem := rfl
@[simp] theorem State.log_tiles (s : State) (a b c d e f : Nat) : (s.log a b c d e f).tiles = s.tiles := rfl
@[simp] theorem State.log_host (s : State) (a b c d e f : Nat) : (s.log a b c d e f).host = s.host := rfl
@[simp] theorem State.log_lmcs (s : State) (a b c d e f : Nat) : (s.log a b c d e f).lmcs = s.lmcs := rfl
@[simp] theorem State.log_cfg (s : State) (a b c d e f : Nat) : (s.log a b c d e f).cfg = s.cfg := rfl
@[simp] theorem State.log_ns (s : State) (a b c d e f : Nat) : (s.log a b c d e f).ns = s.ns := rfl
@[simp] theorem State.log_ses (s : State) (a b c d e f : Nat) : (s.log a b c d e f).ses = s.ses := rfl
@[simp] theorem State.log_sift (s : State) (a b c d e f : Nat) : (s.log a b c d e f).sift = s.sift := rfl
@[simp] theorem State.log_cores (s : State) (a b c d e f : Nat) : (s.log a b c d e f).cores = s.cores := rfl
@[simp] theorem State.log_keys (s : State) (a b c d e f : Nat) : (s.log a b c d e f).keys = s.keys := rfl
@[simp] theorem State.log_pins (s : State) (a b c d e f : Nat) : (s.log a b c d e f).pins = s.pins := rfl
@[simp] theorem State.log_mirror (s : State) (a b c d e f : Nat) : (s.log a b c d e f).mirror = s.mirror := rfl
@[simp] theorem State.log_ident (s : State) (a b c d e f : Nat) : (s.log a b c d e f).ident = s.ident := rfl
@[simp] theorem State.log_boot (s : State) (a b c d e f : Nat) : (s.log a b c d e f).boot = s.boot := rfl
@[simp] theorem State.log_power (s : State) (a b c d e f : Nat) : (s.log a b c d e f).power = s.power := rfl
@[simp] theorem State.log_now (s : State) (a b c d e f : Nat) : (s.log a b c d e f).now = s.now := rfl
@[simp] theorem State.log_free (s : State) (a b c d e f : Nat) : (s.log a b c d e f).free = s.free := rfl
@[simp] theorem State.log_pending (s : State) (a b c d e f : Nat) : (s.log a b c d e f).pending = s.pending := rfl

@[simp] theorem State.onCtrl_fuses (s : State) (f : FnId) (g : Controller → Controller) : (s.onCtrl f g).fuses = s.fuses := rfl
@[simp] theorem State.onCtrl_regs (s : State) (f : FnId) (g : Controller → Controller) : (s.onCtrl f g).regs = s.regs := rfl
@[simp] theorem State.onCtrl_cinch (s : State) (f : FnId) (g : Controller → Controller) : (s.onCtrl f g).cinch = s.cinch := rfl
@[simp] theorem State.onCtrl_mem (s : State) (f : FnId) (g : Controller → Controller) : (s.onCtrl f g).mem = s.mem := rfl
@[simp] theorem State.onCtrl_tiles (s : State) (f : FnId) (g : Controller → Controller) : (s.onCtrl f g).tiles = s.tiles := rfl
@[simp] theorem State.onCtrl_lmcs (s : State) (f : FnId) (g : Controller → Controller) : (s.onCtrl f g).lmcs = s.lmcs := rfl
@[simp] theorem State.onCtrl_cfg (s : State) (f : FnId) (g : Controller → Controller) : (s.onCtrl f g).cfg = s.cfg := rfl
@[simp] theorem State.onCtrl_ns (s : State) (f : FnId) (g : Controller → Controller) : (s.onCtrl f g).ns = s.ns := rfl
@[simp] theorem State.onCtrl_ses (s : State) (f : FnId) (g : Controller → Controller) : (s.onCtrl f g).ses = s.ses := rfl
@[simp] theorem State.onCtrl_sift (s : State) (f : FnId) (g : Controller → Controller) : (s.onCtrl f g).sift = s.sift := rfl
@[simp] theorem State.onCtrl_cores (s : State) (f : FnId) (g : Controller → Controller) : (s.onCtrl f g).cores = s.cores := rfl
@[simp] theorem State.onCtrl_keys (s : State) (f : FnId) (g : Controller → Controller) : (s.onCtrl f g).keys = s.keys := rfl
@[simp] theorem State.onCtrl_pins (s : State) (f : FnId) (g : Controller → Controller) : (s.onCtrl f g).pins = s.pins := rfl
@[simp] theorem State.onCtrl_mirror (s : State) (f : FnId) (g : Controller → Controller) : (s.onCtrl f g).mirror = s.mirror := rfl
@[simp] theorem State.onCtrl_ident (s : State) (f : FnId) (g : Controller → Controller) : (s.onCtrl f g).ident = s.ident := rfl
@[simp] theorem State.onCtrl_boot (s : State) (f : FnId) (g : Controller → Controller) : (s.onCtrl f g).boot = s.boot := rfl
@[simp] theorem State.onCtrl_power (s : State) (f : FnId) (g : Controller → Controller) : (s.onCtrl f g).power = s.power := rfl
@[simp] theorem State.onCtrl_logs (s : State) (f : FnId) (g : Controller → Controller) : (s.onCtrl f g).logs = s.logs := rfl
@[simp] theorem State.onCtrl_now (s : State) (f : FnId) (g : Controller → Controller) : (s.onCtrl f g).now = s.now := rfl
@[simp] theorem State.onCtrl_free (s : State) (f : FnId) (g : Controller → Controller) : (s.onCtrl f g).free = s.free := rfl
@[simp] theorem State.onCtrl_pending (s : State) (f : FnId) (g : Controller → Controller) : (s.onCtrl f g).pending = s.pending := rfl

@[simp] theorem State.post_fuses (s : State) (c : Cqe) : (s.post c).fuses = s.fuses := rfl
@[simp] theorem State.post_regs (s : State) (c : Cqe) : (s.post c).regs = s.regs := rfl
@[simp] theorem State.post_cinch (s : State) (c : Cqe) : (s.post c).cinch = s.cinch := rfl
@[simp] theorem State.post_mem (s : State) (c : Cqe) : (s.post c).mem = s.mem := rfl
@[simp] theorem State.post_tiles (s : State) (c : Cqe) : (s.post c).tiles = s.tiles := rfl
@[simp] theorem State.post_lmcs (s : State) (c : Cqe) : (s.post c).lmcs = s.lmcs := rfl
@[simp] theorem State.post_cfg (s : State) (c : Cqe) : (s.post c).cfg = s.cfg := rfl
@[simp] theorem State.post_ns (s : State) (c : Cqe) : (s.post c).ns = s.ns := rfl
@[simp] theorem State.post_ses (s : State) (c : Cqe) : (s.post c).ses = s.ses := rfl
@[simp] theorem State.post_sift (s : State) (c : Cqe) : (s.post c).sift = s.sift := rfl
@[simp] theorem State.post_cores (s : State) (c : Cqe) : (s.post c).cores = s.cores := rfl
@[simp] theorem State.post_keys (s : State) (c : Cqe) : (s.post c).keys = s.keys := rfl
@[simp] theorem State.post_pins (s : State) (c : Cqe) : (s.post c).pins = s.pins := rfl
@[simp] theorem State.post_mirror (s : State) (c : Cqe) : (s.post c).mirror = s.mirror := rfl
@[simp] theorem State.post_ident (s : State) (c : Cqe) : (s.post c).ident = s.ident := rfl
@[simp] theorem State.post_boot (s : State) (c : Cqe) : (s.post c).boot = s.boot := rfl
@[simp] theorem State.post_power (s : State) (c : Cqe) : (s.post c).power = s.power := rfl
@[simp] theorem State.post_now (s : State) (c : Cqe) : (s.post c).now = s.now := rfl
@[simp] theorem State.post_free (s : State) (c : Cqe) : (s.post c).free = s.free := rfl
@[simp] theorem State.post_pending (s : State) (c : Cqe) : (s.post c).pending = s.pending := rfl

@[simp] theorem State.onBox_fuses (s : State) (f : FnId) (m : Nat) (g : Mailbox → Mailbox) : (s.onBox f m g).fuses = s.fuses := rfl
@[simp] theorem State.onBox_regs (s : State) (f : FnId) (m : Nat) (g : Mailbox → Mailbox) : (s.onBox f m g).regs = s.regs := rfl
@[simp] theorem State.onBox_cinch (s : State) (f : FnId) (m : Nat) (g : Mailbox → Mailbox) : (s.onBox f m g).cinch = s.cinch := rfl
@[simp] theorem State.onBox_mem (s : State) (f : FnId) (m : Nat) (g : Mailbox → Mailbox) : (s.onBox f m g).mem = s.mem := rfl
@[simp] theorem State.onBox_tiles (s : State) (f : FnId) (m : Nat) (g : Mailbox → Mailbox) : (s.onBox f m g).tiles = s.tiles := rfl
@[simp] theorem State.onBox_host (s : State) (f : FnId) (m : Nat) (g : Mailbox → Mailbox) : (s.onBox f m g).host = s.host := rfl
@[simp] theorem State.onBox_cfg (s : State) (f : FnId) (m : Nat) (g : Mailbox → Mailbox) : (s.onBox f m g).cfg = s.cfg := rfl
@[simp] theorem State.onBox_ns (s : State) (f : FnId) (m : Nat) (g : Mailbox → Mailbox) : (s.onBox f m g).ns = s.ns := rfl
@[simp] theorem State.onBox_ses (s : State) (f : FnId) (m : Nat) (g : Mailbox → Mailbox) : (s.onBox f m g).ses = s.ses := rfl
@[simp] theorem State.onBox_sift (s : State) (f : FnId) (m : Nat) (g : Mailbox → Mailbox) : (s.onBox f m g).sift = s.sift := rfl
@[simp] theorem State.onBox_cores (s : State) (f : FnId) (m : Nat) (g : Mailbox → Mailbox) : (s.onBox f m g).cores = s.cores := rfl
@[simp] theorem State.onBox_keys (s : State) (f : FnId) (m : Nat) (g : Mailbox → Mailbox) : (s.onBox f m g).keys = s.keys := rfl
@[simp] theorem State.onBox_pins (s : State) (f : FnId) (m : Nat) (g : Mailbox → Mailbox) : (s.onBox f m g).pins = s.pins := rfl
@[simp] theorem State.onBox_mirror (s : State) (f : FnId) (m : Nat) (g : Mailbox → Mailbox) : (s.onBox f m g).mirror = s.mirror := rfl
@[simp] theorem State.onBox_ident (s : State) (f : FnId) (m : Nat) (g : Mailbox → Mailbox) : (s.onBox f m g).ident = s.ident := rfl
@[simp] theorem State.onBox_boot (s : State) (f : FnId) (m : Nat) (g : Mailbox → Mailbox) : (s.onBox f m g).boot = s.boot := rfl
@[simp] theorem State.onBox_power (s : State) (f : FnId) (m : Nat) (g : Mailbox → Mailbox) : (s.onBox f m g).power = s.power := rfl
@[simp] theorem State.onBox_logs (s : State) (f : FnId) (m : Nat) (g : Mailbox → Mailbox) : (s.onBox f m g).logs = s.logs := rfl
@[simp] theorem State.onBox_now (s : State) (f : FnId) (m : Nat) (g : Mailbox → Mailbox) : (s.onBox f m g).now = s.now := rfl
@[simp] theorem State.onBox_free (s : State) (f : FnId) (m : Nat) (g : Mailbox → Mailbox) : (s.onBox f m g).free = s.free := rfl
@[simp] theorem State.onBox_pending (s : State) (f : FnId) (m : Nat) (g : Mailbox → Mailbox) : (s.onBox f m g).pending = s.pending := rfl

@[simp] theorem State.onRein_fuses (s : State) (f : Rein → Rein) : (s.onRein f).fuses = s.fuses := rfl
@[simp] theorem State.onRein_regs (s : State) (f : Rein → Rein) : (s.onRein f).regs = s.regs := rfl
@[simp] theorem State.onRein_cinch (s : State) (f : Rein → Rein) : (s.onRein f).cinch = s.cinch := rfl
@[simp] theorem State.onRein_mem (s : State) (f : Rein → Rein) : (s.onRein f).mem = s.mem := rfl
@[simp] theorem State.onRein_tiles (s : State) (f : Rein → Rein) : (s.onRein f).tiles = s.tiles := rfl
@[simp] theorem State.onRein_host (s : State) (f : Rein → Rein) : (s.onRein f).host = s.host := rfl
@[simp] theorem State.onRein_lmcs (s : State) (f : Rein → Rein) : (s.onRein f).lmcs = s.lmcs := rfl
@[simp] theorem State.onRein_cfg (s : State) (f : Rein → Rein) : (s.onRein f).cfg = s.cfg := rfl
@[simp] theorem State.onRein_ns (s : State) (f : Rein → Rein) : (s.onRein f).ns = s.ns := rfl
@[simp] theorem State.onRein_ses (s : State) (f : Rein → Rein) : (s.onRein f).ses = s.ses := rfl
@[simp] theorem State.onRein_sift (s : State) (f : Rein → Rein) : (s.onRein f).sift = s.sift := rfl
@[simp] theorem State.onRein_cores (s : State) (f : Rein → Rein) : (s.onRein f).cores = s.cores := rfl
@[simp] theorem State.onRein_keys (s : State) (f : Rein → Rein) : (s.onRein f).keys = s.keys := rfl
@[simp] theorem State.onRein_pins (s : State) (f : Rein → Rein) : (s.onRein f).pins = s.pins := rfl
@[simp] theorem State.onRein_ident (s : State) (f : Rein → Rein) : (s.onRein f).ident = s.ident := rfl
@[simp] theorem State.onRein_boot (s : State) (f : Rein → Rein) : (s.onRein f).boot = s.boot := rfl
@[simp] theorem State.onRein_power (s : State) (f : Rein → Rein) : (s.onRein f).power = s.power := rfl
@[simp] theorem State.onRein_logs (s : State) (f : Rein → Rein) : (s.onRein f).logs = s.logs := rfl
@[simp] theorem State.onRein_now (s : State) (f : Rein → Rein) : (s.onRein f).now = s.now := rfl
@[simp] theorem State.onRein_free (s : State) (f : Rein → Rein) : (s.onRein f).free = s.free := rfl
@[simp] theorem State.onRein_pending (s : State) (f : Rein → Rein) : (s.onRein f).pending = s.pending := rfl

@[simp] theorem State.onCqe_fuses (s : State) (t : Nat) (f : CipherEng → CipherEng) : (s.onCqe t f).fuses = s.fuses := by simp [State.onCqe]
@[simp] theorem State.onCqe_regs (s : State) (t : Nat) (f : CipherEng → CipherEng) : (s.onCqe t f).regs = s.regs := by simp [State.onCqe]
@[simp] theorem State.onCqe_cinch (s : State) (t : Nat) (f : CipherEng → CipherEng) : (s.onCqe t f).cinch = s.cinch := by simp [State.onCqe]
@[simp] theorem State.onCqe_mem (s : State) (t : Nat) (f : CipherEng → CipherEng) : (s.onCqe t f).mem = s.mem := by simp [State.onCqe]
@[simp] theorem State.onCqe_host (s : State) (t : Nat) (f : CipherEng → CipherEng) : (s.onCqe t f).host = s.host := by simp [State.onCqe]
@[simp] theorem State.onCqe_lmcs (s : State) (t : Nat) (f : CipherEng → CipherEng) : (s.onCqe t f).lmcs = s.lmcs := by simp [State.onCqe]
@[simp] theorem State.onCqe_cfg (s : State) (t : Nat) (f : CipherEng → CipherEng) : (s.onCqe t f).cfg = s.cfg := by simp [State.onCqe]
@[simp] theorem State.onCqe_ns (s : State) (t : Nat) (f : CipherEng → CipherEng) : (s.onCqe t f).ns = s.ns := by simp [State.onCqe]
@[simp] theorem State.onCqe_ses (s : State) (t : Nat) (f : CipherEng → CipherEng) : (s.onCqe t f).ses = s.ses := by simp [State.onCqe]
@[simp] theorem State.onCqe_sift (s : State) (t : Nat) (f : CipherEng → CipherEng) : (s.onCqe t f).sift = s.sift := by simp [State.onCqe]
@[simp] theorem State.onCqe_cores (s : State) (t : Nat) (f : CipherEng → CipherEng) : (s.onCqe t f).cores = s.cores := by simp [State.onCqe]
@[simp] theorem State.onCqe_keys (s : State) (t : Nat) (f : CipherEng → CipherEng) : (s.onCqe t f).keys = s.keys := by simp [State.onCqe]
@[simp] theorem State.onCqe_pins (s : State) (t : Nat) (f : CipherEng → CipherEng) : (s.onCqe t f).pins = s.pins := by simp [State.onCqe]
@[simp] theorem State.onCqe_mirror (s : State) (t : Nat) (f : CipherEng → CipherEng) : (s.onCqe t f).mirror = s.mirror := by simp [State.onCqe]
@[simp] theorem State.onCqe_ident (s : State) (t : Nat) (f : CipherEng → CipherEng) : (s.onCqe t f).ident = s.ident := by simp [State.onCqe]
@[simp] theorem State.onCqe_boot (s : State) (t : Nat) (f : CipherEng → CipherEng) : (s.onCqe t f).boot = s.boot := by simp [State.onCqe]
@[simp] theorem State.onCqe_power (s : State) (t : Nat) (f : CipherEng → CipherEng) : (s.onCqe t f).power = s.power := by simp [State.onCqe]
@[simp] theorem State.onCqe_logs (s : State) (t : Nat) (f : CipherEng → CipherEng) : (s.onCqe t f).logs = s.logs := by simp [State.onCqe]
@[simp] theorem State.onCqe_now (s : State) (t : Nat) (f : CipherEng → CipherEng) : (s.onCqe t f).now = s.now := by simp [State.onCqe]
@[simp] theorem State.onCqe_free (s : State) (t : Nat) (f : CipherEng → CipherEng) : (s.onCqe t f).free = s.free := by simp [State.onCqe]
@[simp] theorem State.onCqe_pending (s : State) (t : Nat) (f : CipherEng → CipherEng) : (s.onCqe t f).pending = s.pending := by simp [State.onCqe]

@[simp] theorem State.onDge_fuses (s : State) (t : Nat) (f : Dge → Dge) : (s.onDge t f).fuses = s.fuses := by simp [State.onDge]
@[simp] theorem State.onDge_regs (s : State) (t : Nat) (f : Dge → Dge) : (s.onDge t f).regs = s.regs := by simp [State.onDge]
@[simp] theorem State.onDge_cinch (s : State) (t : Nat) (f : Dge → Dge) : (s.onDge t f).cinch = s.cinch := by simp [State.onDge]
@[simp] theorem State.onDge_mem (s : State) (t : Nat) (f : Dge → Dge) : (s.onDge t f).mem = s.mem := by simp [State.onDge]
@[simp] theorem State.onDge_host (s : State) (t : Nat) (f : Dge → Dge) : (s.onDge t f).host = s.host := by simp [State.onDge]
@[simp] theorem State.onDge_lmcs (s : State) (t : Nat) (f : Dge → Dge) : (s.onDge t f).lmcs = s.lmcs := by simp [State.onDge]
@[simp] theorem State.onDge_cfg (s : State) (t : Nat) (f : Dge → Dge) : (s.onDge t f).cfg = s.cfg := by simp [State.onDge]
@[simp] theorem State.onDge_ns (s : State) (t : Nat) (f : Dge → Dge) : (s.onDge t f).ns = s.ns := by simp [State.onDge]
@[simp] theorem State.onDge_ses (s : State) (t : Nat) (f : Dge → Dge) : (s.onDge t f).ses = s.ses := by simp [State.onDge]
@[simp] theorem State.onDge_sift (s : State) (t : Nat) (f : Dge → Dge) : (s.onDge t f).sift = s.sift := by simp [State.onDge]
@[simp] theorem State.onDge_cores (s : State) (t : Nat) (f : Dge → Dge) : (s.onDge t f).cores = s.cores := by simp [State.onDge]
@[simp] theorem State.onDge_keys (s : State) (t : Nat) (f : Dge → Dge) : (s.onDge t f).keys = s.keys := by simp [State.onDge]
@[simp] theorem State.onDge_pins (s : State) (t : Nat) (f : Dge → Dge) : (s.onDge t f).pins = s.pins := by simp [State.onDge]
@[simp] theorem State.onDge_mirror (s : State) (t : Nat) (f : Dge → Dge) : (s.onDge t f).mirror = s.mirror := by simp [State.onDge]
@[simp] theorem State.onDge_ident (s : State) (t : Nat) (f : Dge → Dge) : (s.onDge t f).ident = s.ident := by simp [State.onDge]
@[simp] theorem State.onDge_boot (s : State) (t : Nat) (f : Dge → Dge) : (s.onDge t f).boot = s.boot := by simp [State.onDge]
@[simp] theorem State.onDge_power (s : State) (t : Nat) (f : Dge → Dge) : (s.onDge t f).power = s.power := by simp [State.onDge]
@[simp] theorem State.onDge_logs (s : State) (t : Nat) (f : Dge → Dge) : (s.onDge t f).logs = s.logs := by simp [State.onDge]
@[simp] theorem State.onDge_now (s : State) (t : Nat) (f : Dge → Dge) : (s.onDge t f).now = s.now := by simp [State.onDge]
@[simp] theorem State.onDge_free (s : State) (t : Nat) (f : Dge → Dge) : (s.onDge t f).free = s.free := by simp [State.onDge]
@[simp] theorem State.onDge_pending (s : State) (t : Nat) (f : Dge → Dge) : (s.onDge t f).pending = s.pending := by simp [State.onDge]

@[simp] theorem State.onSift_fuses (s : State) (t c : Nat) (f : SiftEng → SiftEng) : (s.onSift t c f).fuses = s.fuses := by simp [State.onSift]
@[simp] theorem State.onSift_regs (s : State) (t c : Nat) (f : SiftEng → SiftEng) : (s.onSift t c f).regs = s.regs := by simp [State.onSift]
@[simp] theorem State.onSift_cinch (s : State) (t c : Nat) (f : SiftEng → SiftEng) : (s.onSift t c f).cinch = s.cinch := by simp [State.onSift]
@[simp] theorem State.onSift_mem (s : State) (t c : Nat) (f : SiftEng → SiftEng) : (s.onSift t c f).mem = s.mem := by simp [State.onSift]
@[simp] theorem State.onSift_host (s : State) (t c : Nat) (f : SiftEng → SiftEng) : (s.onSift t c f).host = s.host := by simp [State.onSift]
@[simp] theorem State.onSift_lmcs (s : State) (t c : Nat) (f : SiftEng → SiftEng) : (s.onSift t c f).lmcs = s.lmcs := by simp [State.onSift]
@[simp] theorem State.onSift_cfg (s : State) (t c : Nat) (f : SiftEng → SiftEng) : (s.onSift t c f).cfg = s.cfg := by simp [State.onSift]
@[simp] theorem State.onSift_ns (s : State) (t c : Nat) (f : SiftEng → SiftEng) : (s.onSift t c f).ns = s.ns := by simp [State.onSift]
@[simp] theorem State.onSift_ses (s : State) (t c : Nat) (f : SiftEng → SiftEng) : (s.onSift t c f).ses = s.ses := by simp [State.onSift]
@[simp] theorem State.onSift_sift (s : State) (t c : Nat) (f : SiftEng → SiftEng) : (s.onSift t c f).sift = s.sift := by simp [State.onSift]
@[simp] theorem State.onSift_cores (s : State) (t c : Nat) (f : SiftEng → SiftEng) : (s.onSift t c f).cores = s.cores := by simp [State.onSift]
@[simp] theorem State.onSift_keys (s : State) (t c : Nat) (f : SiftEng → SiftEng) : (s.onSift t c f).keys = s.keys := by simp [State.onSift]
@[simp] theorem State.onSift_pins (s : State) (t c : Nat) (f : SiftEng → SiftEng) : (s.onSift t c f).pins = s.pins := by simp [State.onSift]
@[simp] theorem State.onSift_mirror (s : State) (t c : Nat) (f : SiftEng → SiftEng) : (s.onSift t c f).mirror = s.mirror := by simp [State.onSift]
@[simp] theorem State.onSift_ident (s : State) (t c : Nat) (f : SiftEng → SiftEng) : (s.onSift t c f).ident = s.ident := by simp [State.onSift]
@[simp] theorem State.onSift_boot (s : State) (t c : Nat) (f : SiftEng → SiftEng) : (s.onSift t c f).boot = s.boot := by simp [State.onSift]
@[simp] theorem State.onSift_power (s : State) (t c : Nat) (f : SiftEng → SiftEng) : (s.onSift t c f).power = s.power := by simp [State.onSift]
@[simp] theorem State.onSift_logs (s : State) (t c : Nat) (f : SiftEng → SiftEng) : (s.onSift t c f).logs = s.logs := by simp [State.onSift]
@[simp] theorem State.onSift_now (s : State) (t c : Nat) (f : SiftEng → SiftEng) : (s.onSift t c f).now = s.now := by simp [State.onSift]
@[simp] theorem State.onSift_free (s : State) (t c : Nat) (f : SiftEng → SiftEng) : (s.onSift t c f).free = s.free := by simp [State.onSift]
@[simp] theorem State.onSift_pending (s : State) (t c : Nat) (f : SiftEng → SiftEng) : (s.onSift t c f).pending = s.pending := by simp [State.onSift]

@[simp] theorem State.acting_fuses (s : State) : (s.acting).fuses = s.fuses := rfl
@[simp] theorem State.acting_regs (s : State) : (s.acting).regs = s.regs := rfl
@[simp] theorem State.acting_cinch (s : State) : (s.acting).cinch = s.cinch := rfl
@[simp] theorem State.acting_mem (s : State) : (s.acting).mem = s.mem := rfl
@[simp] theorem State.acting_tiles (s : State) : (s.acting).tiles = s.tiles := rfl
@[simp] theorem State.acting_host (s : State) : (s.acting).host = s.host := rfl
@[simp] theorem State.acting_lmcs (s : State) : (s.acting).lmcs = s.lmcs := rfl
@[simp] theorem State.acting_cfg (s : State) : (s.acting).cfg = s.cfg := rfl
@[simp] theorem State.acting_ns (s : State) : (s.acting).ns = s.ns := rfl
@[simp] theorem State.acting_ses (s : State) : (s.acting).ses = s.ses := rfl
@[simp] theorem State.acting_sift (s : State) : (s.acting).sift = s.sift := rfl
@[simp] theorem State.acting_cores (s : State) : (s.acting).cores = s.cores := rfl
@[simp] theorem State.acting_keys (s : State) : (s.acting).keys = s.keys := rfl
@[simp] theorem State.acting_mirror (s : State) : (s.acting).mirror = s.mirror := rfl
@[simp] theorem State.acting_ident (s : State) : (s.acting).ident = s.ident := rfl
@[simp] theorem State.acting_boot (s : State) : (s.acting).boot = s.boot := rfl
@[simp] theorem State.acting_power (s : State) : (s.acting).power = s.power := rfl
@[simp] theorem State.acting_logs (s : State) : (s.acting).logs = s.logs := rfl
@[simp] theorem State.acting_now (s : State) : (s.acting).now = s.now := rfl
@[simp] theorem State.acting_free (s : State) : (s.acting).free = s.free := rfl
@[simp] theorem State.acting_pending (s : State) : (s.acting).pending = s.pending := rfl

@[simp] theorem State.offer_fuses (s : State) (c : Instr) : (s.offer c).fuses = s.fuses := rfl
@[simp] theorem State.offer_regs (s : State) (c : Instr) : (s.offer c).regs = s.regs := rfl
@[simp] theorem State.offer_cinch (s : State) (c : Instr) : (s.offer c).cinch = s.cinch := rfl
@[simp] theorem State.offer_mem (s : State) (c : Instr) : (s.offer c).mem = s.mem := rfl
@[simp] theorem State.offer_tiles (s : State) (c : Instr) : (s.offer c).tiles = s.tiles := rfl
@[simp] theorem State.offer_host (s : State) (c : Instr) : (s.offer c).host = s.host := rfl
@[simp] theorem State.offer_lmcs (s : State) (c : Instr) : (s.offer c).lmcs = s.lmcs := rfl
@[simp] theorem State.offer_cfg (s : State) (c : Instr) : (s.offer c).cfg = s.cfg := rfl
@[simp] theorem State.offer_ns (s : State) (c : Instr) : (s.offer c).ns = s.ns := rfl
@[simp] theorem State.offer_ses (s : State) (c : Instr) : (s.offer c).ses = s.ses := rfl
@[simp] theorem State.offer_sift (s : State) (c : Instr) : (s.offer c).sift = s.sift := rfl
@[simp] theorem State.offer_cores (s : State) (c : Instr) : (s.offer c).cores = s.cores := rfl
@[simp] theorem State.offer_keys (s : State) (c : Instr) : (s.offer c).keys = s.keys := rfl
@[simp] theorem State.offer_pins (s : State) (c : Instr) : (s.offer c).pins = s.pins := rfl
@[simp] theorem State.offer_mirror (s : State) (c : Instr) : (s.offer c).mirror = s.mirror := rfl
@[simp] theorem State.offer_ident (s : State) (c : Instr) : (s.offer c).ident = s.ident := rfl
@[simp] theorem State.offer_boot (s : State) (c : Instr) : (s.offer c).boot = s.boot := rfl
@[simp] theorem State.offer_power (s : State) (c : Instr) : (s.offer c).power = s.power := rfl
@[simp] theorem State.offer_logs (s : State) (c : Instr) : (s.offer c).logs = s.logs := rfl
@[simp] theorem State.offer_now (s : State) (c : Instr) : (s.offer c).now = s.now := rfl
@[simp] theorem State.offer_free (s : State) (c : Instr) : (s.offer c).free = s.free := rfl

@[simp] theorem State.idle_fuses (s : State) : (s.idle).fuses = s.fuses := rfl
@[simp] theorem State.idle_regs (s : State) : (s.idle).regs = s.regs := rfl
@[simp] theorem State.idle_cinch (s : State) : (s.idle).cinch = s.cinch := rfl
@[simp] theorem State.idle_mem (s : State) : (s.idle).mem = s.mem := rfl
@[simp] theorem State.idle_tiles (s : State) : (s.idle).tiles = s.tiles := rfl
@[simp] theorem State.idle_host (s : State) : (s.idle).host = s.host := rfl
@[simp] theorem State.idle_lmcs (s : State) : (s.idle).lmcs = s.lmcs := rfl
@[simp] theorem State.idle_cfg (s : State) : (s.idle).cfg = s.cfg := rfl
@[simp] theorem State.idle_ns (s : State) : (s.idle).ns = s.ns := rfl
@[simp] theorem State.idle_ses (s : State) : (s.idle).ses = s.ses := rfl
@[simp] theorem State.idle_sift (s : State) : (s.idle).sift = s.sift := rfl
@[simp] theorem State.idle_cores (s : State) : (s.idle).cores = s.cores := rfl
@[simp] theorem State.idle_keys (s : State) : (s.idle).keys = s.keys := rfl
@[simp] theorem State.idle_pins (s : State) : (s.idle).pins = s.pins := rfl
@[simp] theorem State.idle_mirror (s : State) : (s.idle).mirror = s.mirror := rfl
@[simp] theorem State.idle_ident (s : State) : (s.idle).ident = s.ident := rfl
@[simp] theorem State.idle_boot (s : State) : (s.idle).boot = s.boot := rfl
@[simp] theorem State.idle_power (s : State) : (s.idle).power = s.power := rfl
@[simp] theorem State.idle_logs (s : State) : (s.idle).logs = s.logs := rfl
@[simp] theorem State.idle_free (s : State) : (s.idle).free = s.free := rfl
@[simp] theorem State.idle_pending (s : State) : (s.idle).pending = s.pending := rfl

@[simp] theorem State.ended_regs (s t : State) : (s.ended t).regs = t.regs := rfl
@[simp] theorem State.ended_cinch (s t : State) : (s.ended t).cinch = t.cinch := rfl
@[simp] theorem State.ended_mem (s t : State) : (s.ended t).mem = t.mem := rfl
@[simp] theorem State.ended_tiles (s t : State) : (s.ended t).tiles = t.tiles := rfl
@[simp] theorem State.ended_host (s t : State) : (s.ended t).host = t.host := rfl
@[simp] theorem State.ended_lmcs (s t : State) : (s.ended t).lmcs = t.lmcs := rfl
@[simp] theorem State.ended_cfg (s t : State) : (s.ended t).cfg = t.cfg := rfl
@[simp] theorem State.ended_ns (s t : State) : (s.ended t).ns = t.ns := rfl
@[simp] theorem State.ended_ses (s t : State) : (s.ended t).ses = t.ses := rfl
@[simp] theorem State.ended_sift (s t : State) : (s.ended t).sift = t.sift := rfl
@[simp] theorem State.ended_cores (s t : State) : (s.ended t).cores = t.cores := rfl
@[simp] theorem State.ended_keys (s t : State) : (s.ended t).keys = t.keys := rfl
@[simp] theorem State.ended_pins (s t : State) : (s.ended t).pins = t.pins := rfl
@[simp] theorem State.ended_mirror (s t : State) : (s.ended t).mirror = t.mirror := rfl
@[simp] theorem State.ended_ident (s t : State) : (s.ended t).ident = t.ident := rfl
@[simp] theorem State.ended_boot (s t : State) : (s.ended t).boot = t.boot := rfl
@[simp] theorem State.ended_power (s t : State) : (s.ended t).power = t.power := rfl
@[simp] theorem State.ended_logs (s t : State) : (s.ended t).logs = t.logs := rfl
@[simp] theorem State.ended_now (s t : State) : (s.ended t).now = t.now := rfl
@[simp] theorem State.ended_free (s t : State) : (s.ended t).free = t.free := rfl
@[simp] theorem State.ended_pending (s t : State) : (s.ended t).pending = s.pending := rfl
@[simp] theorem State.ended_fuses (s t : State) : (s.ended t).fuses = s.fuses.advance t.fuses := rfl

end Sys2Proof.Machine
end

