-- ==== Sys2Proof/Laws/Cores.lean ====
section
/-! SUPPORT. Laws/Cores.lean: what running one Cuwif-32 instruction can do, said once for every shape of instruction. -/

namespace Sys2Proof.Machine

open Sys2Proof

/-- Where an address lies does not depend on the cores. -/
theorem State.place_cores (s : State) (c : CoreSide) (t a : Nat) : ({ s with cores := c } : State).place t a = s.place t a := by
  have e : ∀ b o, ({ s with cores := c } : State).rd b o = s.rd b o := fun b o => by
    simp only [State.rd, State.reg, State.resetVal, State.n, State.ltid]
  have f : ({ s with cores := c } : State).scr t = s.scr t := by simp only [State.scr, State.rdField, e]
  unfold State.place
  rw [e, e, f]
  rfl

/-- Granting a thread does not move an address. -/
@[simp] theorem State.issued_place (s : State) (h : ThrId) (t a : Nat) : (s.issued h).place t a = s.place t a := by
  unfold State.issued State.issue
  split
  · exact s.place_cores _ t a
  · rfl

/-- Granting a thread does not poison a word. -/
@[simp] theorem State.issued_poisoned (s : State) (h : ThrId) (k : Nat) : (s.issued h).poisoned k = s.poisoned k := by
  have e : ∀ b o, (s.issued h).rd b o = s.rd b o := fun b o => by
    unfold State.issued State.issue
    split <;> simp only [State.rd, State.reg, State.resetVal, State.n, State.ltid]
  simp only [State.poisoned, State.bankRetired, e, State.issued_mem]

/-- Granting a thread changes nothing that a fetch looks at. -/
@[simp] theorem State.issued_fetchExc (s : State) (h : ThrId) (x : Thread) : (s.issued h).fetchExc x = s.fetchExc x := by
  simp only [State.fetchExc, State.issued_place, State.issued_poisoned]

/-- Granting a thread leaves the threads as they are. -/
@[simp] theorem State.issued_thr (s : State) (h g : ThrId) : (s.issued h).thr g = s.thr g := by
  unfold State.issued State.issue
  split <;> rfl

/-- A running instruction that completes. -/
theorem State.insn_done {s : State} {h : ThrId} {x y : Thread} {f : Thread → State → Ran} {s1 : State} (r : Runs s h x)
    (hf : f x (s.issued h) = .done y s1) : s.insn h f = s.ends (s1.setThr y) := by
  simp [State.insn, r.here, r.live, r.fetched, hf]

/-- A running instruction that raises an exception. -/
theorem State.insn_exc {s : State} {h : ThrId} {x : Thread} {f : Thread → State → Ran} {s1 : State} {e : Exc} (r : Runs s h x)
    (hf : f x (s.issued h) = .exc e s1) : s.insn h f = s.ends (s1.raiseExc x e) := by
  simp [State.insn, r.here, r.live, r.fetched, hf]

/-- A running instruction that only computes. -/
theorem State.compute_runs {s : State} {h : ThrId} {x : Thread} (r : Runs s h x) (f : Thread → Thread) :
    s.compute h f = s.leaves h (f x).step := State.insn_done r rfl

/-- A running register operation. -/
theorem State.regOp_runs {s : State} {h : ThrId} {x : Thread} (r : Runs s h x) (rd ra rb : Reg) (f : Word → Word → Word) :
    s.regOp h rd ra rb f = s.leaves h (x.put rd (f (x.get ra) (x.get rb))).step := State.compute_runs r _

/-- A running saturating operation. -/
theorem State.satOp_runs {s : State} {h : ThrId} {x : Thread} (r : Runs s h x) (rd ra rb : Reg) (f : Word → Word → Word × Bool) :
    s.satOp h rd ra rb f = s.leaves h (x.putSat rd (f (x.get ra) (x.get rb))).step := State.compute_runs r _

/-- A running accumulator operation. -/
theorem State.accOp_runs {s : State} {h : ThrId} {x : Thread} (r : Runs s h x) (ra rb : Reg)
    (f : BitVec 64 → Word → Word → BitVec 64 × Bool) :
    s.accOp h ra rb f = s.leaves h ({ x with
      acc := (f x.acc (x.get ra) (x.get rb)).1, aov := x.aov || (f x.acc (x.get ra) (x.get rb)).2 } : Thread).step :=
  State.compute_runs r _

/-- A running branch. -/
theorem State.branch_runs {s : State} {h : ThrId} {x : Thread} (r : Runs s h x) (ra rb : Reg) (off : BitVec 16)
    (cond : Word → Word → Bool) :
    s.branch h ra rb off cond =
      s.leaves h { x with pc := if cond (x.get ra) (x.get rb) then x.target off else x.after } := State.insn_done r rfl

/-- A steward-only instruction in user mode. -/
theorem State.privileged_user {s : State} {h : ThrId} {x : Thread} (r : Runs s h x) (f : Thread → State → Ran)
    (u : x.steward = false) : s.privileged h f = s.raises h x { code := 0x11 } := State.insn_exc r (by simp [u])

/-- A steward-only instruction in steward mode. -/
theorem State.privileged_steward {s : State} {h : ThrId} {x : Thread} (r : Runs s h x) (f : Thread → State → Ran)
    (u : x.steward = true) : s.privileged h f = s.insn h f := by
  simp [State.privileged, State.insn, r.here, r.live, r.fetched, u]

end Sys2Proof.Machine
end

