-- ==== Sys2Proof/Laws/Registers.lean ====
section
/-! SUPPORT. Laws/Registers.lean: keyed lists, and what a register reads after a write; what reading does not depend on. -/

namespace Sys2Proof.Machine

open Sys2Proof

/-- A keyed list answers what was set last. -/
@[simp] theorem kvGet_kvSet_self {α : Type} (k : Nat) (v : α) (l : List (Nat × α)) : kvGet k (kvSet k v l) = some v := by
  induction l with
  | nil => simp [kvSet, kvGet]
  | cons x xs ih =>
    obtain ⟨j, w⟩ := x
    unfold kvSet
    split
    · simp [kvGet]
    · split
      · simp [kvGet]
      · simp [kvGet, *]

/-- Setting one key leaves the others. -/
theorem kvGet_kvSet_ne {α : Type} {j k : Nat} (h : j ≠ k) (v : α) (l : List (Nat × α)) : kvGet j (kvSet k v l) = kvGet j l := by
  induction l with
  | nil => simp [kvSet, kvGet, Ne.symm h]
  | cons x xs ih =>
    obtain ⟨i, w⟩ := x
    unfold kvSet
    split
    · simp [kvGet, Ne.symm h]
    · split
      · rename_i e; subst e; simp [kvGet, Ne.symm h]
      · simp [kvGet, ih]

/-- A key that was taken out is gone. -/
@[simp] theorem kvGet_kvDel_self {α : Type} (k : Nat) (l : List (Nat × α)) : kvGet k (kvDel k l) = none := by
  induction l with
  | nil => rfl
  | cons x xs ih =>
    obtain ⟨j, w⟩ := x
    unfold kvDel
    split
    · exact ih
    · simp [kvGet, *]

/-- Taking one key out leaves the others. -/
theorem kvGet_kvDel_ne {α : Type} {j k : Nat} (h : j ≠ k) (l : List (Nat × α)) : kvGet j (kvDel k l) = kvGet j l := by
  induction l with
  | nil => rfl
  | cons x xs ih =>
    obtain ⟨i, w⟩ := x
    unfold kvDel
    split
    · rename_i e; subst e; simp [kvGet, Ne.symm h, ih]
    · simp [kvGet, ih]

/-- Reading a register looks at the register file and the fuses only. -/
theorem State.reg_congr {s t : State} (r : s.regs = t.regs) (f : s.fuses = t.fuses) (a : Nat) : s.reg a = t.reg a := by
  simp only [State.reg, State.resetVal, State.n, State.ltid, r, f]

/-- The same, of a block's register. -/
theorem State.rd_congr {s t : State} (r : s.regs = t.regs) (f : s.fuses = t.fuses) (b : Block) (o : Nat) : s.rd b o = t.rd b o := by
  simp only [State.rd, State.reg_congr r f]

/-- The same, of a field. -/
theorem State.rdField_congr {s t : State} (r : s.regs = t.regs) (f : s.fuses = t.fuses) (b : Block) (o hi lo : Nat) :
    s.rdField b o hi lo = t.rdField b o hi lo := by
  simp only [State.rdField, State.rd_congr r f]

/-- Where an address lies depends on the register file and the fuses only. -/
theorem State.place_congr {s t : State} (r : s.regs = t.regs) (f : s.fuses = t.fuses) (k a : Nat) : s.place k a = t.place k a := by
  have e : s.scr k = t.scr k := by simp only [State.scr, State.rdField_congr r f]
  unfold State.place
  rw [e, State.rd_congr r f, State.rd_congr r f, State.n, State.n, f]

/-- A register reads as it was written. -/
@[simp] theorem State.reg_setReg_self (s : State) (a : Nat) (v : Word) : (s.setReg a v).reg a = v := by
  simp [State.reg, State.setReg]

/-- Writing one register leaves the others. -/
theorem State.reg_setReg_ne (s : State) {a c : Nat} (h : c ≠ a) (v : Word) : (s.setReg a v).reg c = s.reg c := by
  simp only [State.reg, State.setReg, kvGet_kvSet_ne h]
  rfl

/-- A block's register reads as it was written, in 32 bits. -/
@[simp] theorem State.rd_wr_self (s : State) (b : Block) (o v : Nat) : (s.wr b o v).rd b o = v % 2 ^ 32 := by
  simp [State.rd, State.wr]

/-- Writing one register of the device leaves the others. -/
theorem State.rd_wr_ne (s : State) {b c : Block} {o p : Nat} (h : regAddr c p ≠ regAddr b o) (v : Nat) :
    (s.wr b o v).rd c p = s.rd c p := by
  simp only [State.rd, State.wr, State.reg_setReg_ne s h]

/-- Another offset of the same block. -/
theorem State.rd_wr_off (s : State) (b : Block) {o p : Nat} (h : p ≠ o) (v : Nat) : (s.wr b o v).rd b p = s.rd b p :=
  s.rd_wr_ne (by simp [regAddr, h]) v

/-- A field after its bits were replaced. -/
theorem field_withField {hi lo : Nat} (h : lo ≤ hi) (x v : Nat) : field (withField x hi lo v) hi lo = v % 2 ^ (hi + 1 - lo) := by
  have e : 2 ^ (hi + 1) = 2 ^ (hi + 1 - lo) * 2 ^ lo := by rw [← Nat.pow_add]; congr 1; omega
  have p : 0 < 2 ^ lo := Nat.two_pow_pos lo
  unfold field withField
  rw [e, ← Nat.mul_assoc, Nat.add_assoc, ← Nat.add_mul, Nat.add_mul_div_right _ _ p, Nat.div_eq_of_lt (Nat.mod_lt _ p), Nat.zero_add,
    Nat.add_mul_mod_self_right, Nat.mod_mod]

/-- What a counter reads after it counted. -/
theorem State.rd_count (s : State) (b : Block) (o k : Nat) : (s.count b o k).rd b o = min 0xFFFFFFFF (s.rd b o + k) := by
  simp only [State.count, State.rd_wr_self]
  omega

end Sys2Proof.Machine
end

