-- ==== Sys2Proof/Laws/Memory.lean ====
section
/-! SUPPORT. Laws/Memory.lean: every operation on memory keeps its canonical form. -/

namespace Sys2Proof.Machine

open Sys2Proof

/-- The canonical form, said with the library's words. -/
theorem cellsWf_iff (l : List Host.Cell) : cellsWf l = true ↔ l.Pairwise (fun a b => a.1 < b.1) ∧ ∀ c ∈ l, c.2 ≠ Memory.blank := by
  induction l with
  | nil => simp [cellsWf]
  | cons x xs ih =>
    cases xs with
    | nil => simp [cellsWf]
    | cons y ys =>
      have e : cellsWf (x :: y :: ys) = (x.2 != Memory.blank && decide (x.1 < y.1) && cellsWf (y :: ys)) := rfl
      rw [e, Bool.and_eq_true, Bool.and_eq_true, ih]
      constructor
      · rintro ⟨⟨v, l⟩, p, q⟩
        refine ⟨List.pairwise_cons.2 ⟨?_, p⟩, ?_⟩
        · intro z hz
          have l' := of_decide_eq_true l
          rcases List.mem_cons.1 hz with rfl | hz
          · exact l'
          · exact Nat.lt_trans l' ((List.pairwise_cons.1 p).1 z hz)
        · intro c hc
          rcases List.mem_cons.1 hc with rfl | hc
          · simpa using v
          · exact q c hc
      · rintro ⟨p, q⟩
        obtain ⟨a, b⟩ := List.pairwise_cons.1 p
        exact ⟨⟨by simpa using q x (by simp), decide_eq_true (a y (by simp))⟩, b, fun c hc => q c (List.mem_cons_of_mem _ hc)⟩

/-- What a set list holds. -/
theorem mem_kvSet {α : Type} {k : Nat} {v : α} {l : List (Nat × α)} {c : Nat × α} (h : c ∈ kvSet k v l) : c = (k, v) ∨ c ∈ l := by
  induction l with
  | nil => simpa [kvSet] using h
  | cons x xs ih =>
    obtain ⟨j, w⟩ := x
    unfold kvSet at h
    split at h
    · simpa using h
    · split at h
      · rcases List.mem_cons.1 h with rfl | h
        · exact .inl rfl
        · exact .inr (List.mem_cons_of_mem _ h)
      · rcases List.mem_cons.1 h with rfl | h
        · exact .inr (by simp)
        · exact (ih h).imp id (List.mem_cons_of_mem _)

/-- Setting a key keeps the keys rising. -/
theorem rising_kvSet {α : Type} (k : Nat) (v : α) {l : List (Nat × α)} (h : l.Pairwise fun a b => a.1 < b.1) :
    (kvSet k v l).Pairwise fun a b => a.1 < b.1 := by
  induction l with
  | nil => simp [kvSet]
  | cons x xs ih =>
    obtain ⟨j, w⟩ := x
    obtain ⟨a, b⟩ := List.pairwise_cons.1 h
    unfold kvSet
    split
    · rename_i e
      refine List.pairwise_cons.2 ⟨?_, h⟩
      intro z hz
      rcases List.mem_cons.1 hz with rfl | hz
      · exact e
      · exact Nat.lt_trans e (a z hz)
    · split
      · rename_i e; subst e; exact List.pairwise_cons.2 ⟨a, b⟩
      · refine List.pairwise_cons.2 ⟨?_, ih b⟩
        intro z hz
        rcases mem_kvSet hz with rfl | hz
        · show j < k; omega
        · exact a z hz

/-- Taking a key out is a filter. -/
theorem kvDel_eq_filter {α : Type} (k : Nat) (l : List (Nat × α)) : kvDel k l = l.filter fun c => c.1 != k := by
  induction l with
  | nil => rfl
  | cons x xs ih =>
    obtain ⟨j, w⟩ := x
    unfold kvDel
    by_cases e : j = k <;> simp [e, ih]

/-- A filter keeps the canonical form. -/
theorem cellsWf_filter (p : Host.Cell → Bool) {l : List Host.Cell} (h : cellsWf l = true) : cellsWf (l.filter p) = true := by
  rw [cellsWf_iff] at h ⊢
  exact ⟨h.1.filter _, fun c hc => h.2 c (List.mem_filter.1 hc).1⟩

/-- Setting one cell keeps the canonical form. -/
theorem cellsWf_putCell (k : Nat) (v : Byte) {l : List Host.Cell} (h : cellsWf l = true) : cellsWf (putCell k v l) = true := by
  unfold putCell
  split
  · rw [kvDel_eq_filter]; exact cellsWf_filter _ h
  · rename_i e
    rw [cellsWf_iff] at h ⊢
    refine ⟨rising_kvSet k v h.1, fun c hc => ?_⟩
    rcases mem_kvSet hc with rfl | hc
    · exact e
    · exact h.2 c hc

/-- The form of the whole memory. -/
theorem Memory.wf_iff (m : Memory) : m.wf = true ↔ cellsWf m.cells = true ∧ cellsWf m.host = true := by
  simp [Memory.wf]

/-- Writing bytes keeps the form, whatever their number. -/
theorem Memory.writeCells_form (m : Memory) (k : Nat) (bs : List Byte) (h : m.wf = true) : (m.writeCells k bs).wf = true := by
  induction bs generalizing m k with
  | nil => exact h
  | cons b bs ih =>
    refine ih _ _ ?_
    rw [Memory.wf_iff] at h ⊢
    exact ⟨cellsWf_putCell k b h.1, h.2⟩

/-- Writing bytes of host memory keeps the form. -/
theorem cellsWf_hostWrite (bs : List Byte) (a : Nat) {l : List Host.Cell} (h : cellsWf l = true) :
    cellsWf ((bs.foldl (fun (p : Nat × List Host.Cell) b => (p.1 + 1, putCell p.1 b p.2)) (a, l)).2) = true := by
  induction bs generalizing a l with
  | nil => exact h
  | cons b bs ih => exact ih (a + 1) (cellsWf_putCell a b h)

/-- A raw write keeps the form. -/
theorem State.rawWrite_form (s : State) (t a : Nat) (bs : List Byte) (h : s.mem.wf = true) : (s.rawWrite t a bs).mem.wf = true := by
  unfold State.rawWrite
  split
  · rename_i k _ _
    split
    · exact h
    · have e := Memory.writeCells_form s.mem k bs h
      rw [Memory.wf_iff] at e ⊢
      exact e
  · rw [Memory.wf_iff] at h ⊢
    exact ⟨h.1, cellsWf_hostWrite bs _ h.2⟩
  · exact h

/-- Counting a refused access leaves memory. -/
@[simp] theorem State.holdRef_mem (s : State) (t a n : Nat) : (s.holdRef t a n).mem = s.mem := by
  unfold State.holdRef
  split
  · split <;> rfl
  · rfl

/-- A write of an engine, a steward or a core keeps the form. -/
theorem State.writeMem_form (s : State) (t a : Nat) (bs : List Byte) (h : s.mem.wf = true) : (s.writeMem t a bs).mem.wf = true := by
  unfold State.writeMem
  split
  · split
    · rw [State.holdRef_mem]; exact s.rawWrite_form t a _ h
    · exact s.rawWrite_form t a bs h
  · exact s.rawWrite_form t a bs h

/-- Writing the words of a line keeps the form. -/
theorem State.writeWords_form (l : L2Line) (is : List Nat) (s : State) (h : s.mem.wf = true) : (s.writeWords l is).mem.wf = true := by
  induction is generalizing s with
  | nil => exact h
  | cons i is ih =>
    refine ih _ ?_
    split
    · exact h
    · exact s.writeMem_form _ _ _ h

/-- Writing a line home keeps the form. -/
theorem State.writeHome_form (s : State) (l : L2Line) (h : s.mem.wf = true) : (s.writeHome l).mem.wf = true := by
  unfold State.writeHome
  dsimp only
  split
  · exact s.writeMem_form _ _ _ h
  · split <;> exact State.writeWords_form l _ s h

/-- Evicting a line keeps the form. -/
theorem State.evict_form (s : State) (l : L2Line) (h : s.mem.wf = true) : (s.evict l).mem.wf = true := by
  have h1 : ({ s with mem := { s.mem with lines := s.mem.lines.erase l } } : State).mem.wf = true := h
  unfold State.evict
  dsimp only
  split
  · exact State.writeHome_form _ _ h1
  · split
    · exact h1
    · generalize (if field _ 7 4 = 0 then 16 else field _ 7 4) = w
      split
      · exact h1
      · exact h1

/-- Making room for a line keeps the form. -/
theorem State.makeRoom_form (s : State) (c : Prop) [Decidable c] (o : Option L2Line) (h : s.mem.wf = true) :
    (if c then s else match o with
      | some l => s.evict l
      | none => s).mem.wf = true := by
  split
  · exact h
  · split
    · exact s.evict_form _ h
    · exact h

/-- Bringing a line in keeps the form. -/
theorem State.fetchLine_form (s : State) (t a : Nat) (h : s.mem.wf = true) : (s.fetchLine t a).2.mem.wf = true := by
  unfold State.fetchLine
  split
  · exact h
  · rcases hit : s.mem.pool.find? (fun p => p.1 == t && p.2.1 == a / 64 * 64) with _ | p
    · simp only [hit]
      split
      · exact h
      · split <;> exact State.makeRoom_form s _ _ h
    · simp only [hit]
      split
      · exact h
      · split <;> exact State.makeRoom_form { s with mem := { s.mem with pool := s.mem.pool.erase p } } _ _ h

/-- A core's load keeps the form. -/
theorem State.coreRead_form (s : State) (t a n : Nat) (h : s.mem.wf = true) : (s.coreRead t a n).2.mem.wf = true := by
  unfold State.coreRead
  split
  · exact s.fetchLine_form t a h
  · exact h

/-- A core's store keeps the form. -/
theorem State.coreWrite_form (s : State) (t a : Nat) (bs : List Byte) (h : s.mem.wf = true) : (s.coreWrite t a bs).mem.wf = true := by
  unfold State.coreWrite
  split
  · dsimp only
    split
    · exact s.fetchLine_form t a h
    · exact State.writeMem_form _ _ _ _ (s.fetchLine_form t a h)
  · exact s.writeMem_form t a bs h

/-- A list of lines written home keeps the form. -/
theorem State.writeHomes_form (ls : List L2Line) (s : State) (h : s.mem.wf = true) : (ls.foldl State.writeHome s).mem.wf = true := by
  induction ls generalizing s with
  | nil => exact h
  | cons l ls ih => exact ih _ (s.writeHome_form l h)

/-- Locking a line keeps the form. -/
theorem State.lockLine_form (s : State) (t a : Nat) (h : s.mem.wf = true) : (s.lockLine t a).mem.wf = true := by
  unfold State.lockLine
  dsimp only
  split
  · exact h
  · split
    · exact h
    · split
      · exact s.fetchLine_form t a h
      · exact s.fetchLine_form t a h

/-- Locking a range keeps the form. -/
theorem State.lockLines_form (is : List Nat) (f : Nat → Nat) (s : State) (t : Nat) (h : s.mem.wf = true) :
    (is.foldl (fun s i => s.lockLine t (f i)) s).mem.wf = true := by
  induction is generalizing s with
  | nil => exact h
  | cons i is ih => exact ih _ (s.lockLine_form t _ h)

/-- Every maintenance operation keeps the form. -/
theorem State.maint_form (s : State) (t op : Nat) (h : s.mem.wf = true) : (s.maint t op).mem.wf = true := by
  unfold State.maint
  dsimp only
  split
  · rw [State.decErr_mem]; exact h
  · split
    · exact h
    · split
      · exact h
      · exact State.writeHomes_form _ _ h
      · exact State.writeHomes_form _ _ h
      · exact State.lockLines_form _ _ _ t h
      · exact h

/-- A block filled, a word rewritten, slices given back: taking cells out keeps the form. -/
theorem Memory.filter_form (m : Memory) (p : Host.Cell → Bool) (h : m.wf = true) :
    ({ m with cells := m.cells.filter p } : Memory).wf = true := by
  rw [Memory.wf_iff] at h ⊢
  exact ⟨cellsWf_filter p h.1, h.2⟩

/-- The memory of the device after reset has the form. -/
theorem State.reset_form : State.reset.mem.wf = true := rfl

end Sys2Proof.Machine
end

