-- ==== Sys2Proof/Laws/Requests.lean ====
section
/-! SUPPORT. Laws/Requests.lean: what each shape of request does when it is acted on, said once: LMCS messages, admin and I/O commands,
runtime services, frames, flash descriptors and engine jobs. -/

namespace Sys2Proof.Machine

open Sys2Proof

/-! ### LMCS messages -/

/-- A message that is acted on answers, or stays started until its answer comes. -/
theorem State.lmcsRun_acts {s : State} {q : Req} {op : Nat} {x : Option Session} (a : Acts s q op x)
    (act : Option Session → State → Option (Nat × List Byte) × State) :
    s.lmcsRun q op act = match act x s with
      | (some r, s1) => s1.respond q r.1 r.2
      | (none, s1) => { s1 with lmcs := { s1.lmcs with
          inFlight := s1.lmcs.inFlight.filter (fun y => y != q), started := s1.lmcs.started ++ [q] } } := by
  simp only [State.lmcsRun, a.op, a.waits, a.admitted, a.goes]
  rcases act x s with ⟨_ | r, s1⟩ <;> simp

/-- A message of another opcode, or one that does not wait, changes nothing. -/
theorem State.lmcsRun_idle {s : State} {q : Req} {op : Nat} (h : q.msg.opcode.toNat ≠ op ∨ s.waiting q = false)
    (act : Option Session → State → Option (Nat × List Byte) × State) : s.lmcsRun q op act = s := by
  rcases h with h | h <;> simp [State.lmcsRun, h]

/-- A message that fails its admission answers with the status of the first failed step. -/
theorem State.lmcsRun_turned {s : State} {q : Req} {op st : Nat} (o : q.msg.opcode.toNat = op) (w : s.waiting q = true)
    (h : s.admission q = .error st) (act : Option Session → State → Option (Nat × List Byte) × State) :
    s.lmcsRun q op act = s.respond q st [] := by
  simp [State.lmcsRun, o, w, h]

/-- A message that names a session and is acted on. -/
theorem State.sessRun_acts {s : State} {q : Req} {op : Nat} {x : Session} (a : Acts s q op (some x))
    (act : Session → State → Option (Nat × List Byte) × State) :
    s.sessRun q op act = match act x s with
      | (some r, s1) => s1.respond q r.1 r.2
      | (none, s1) => { s1 with lmcs := { s1.lmcs with
          inFlight := s1.lmcs.inFlight.filter (fun y => y != q), started := s1.lmcs.started ++ [q] } } := by
  unfold State.sessRun
  rw [State.lmcsRun_acts a]

/-! ### Admin and I/O commands -/

/-- An admin command that its controller takes runs its own checks and effect, with ACT asserted. -/
theorem State.admin_at {s : State} {k : CmdKey} {e : Sqe} {opc : Byte} {c : Controller} (a : AdminAt s k e opc c)
    (known : adminOpcodes.contains opc.toNat = true) (body : Controller → State → State) :
    s.admin k e opc.toNat body = body c s.acting := by
  have e1 : e.opc.toNat = opc.toNat := by rw [a.opc]
  have e2 : opc.toNat ∈ adminOpcodes := by simpa using known
  simp [State.admin, a.here, a.ready, a.queue, a.runs, e1, e2, State.acting]

/-- A tracked command of the row's opcode. -/
theorem State.withTrack_tracked {s : State} {k : CmdKey} {opc : Byte} {t : Track} (a : Tracked s k opc t) (f : Track → State) :
    s.withTrack k opc f = f t := by
  simp [State.withTrack, a.here, a.opc]

/-- A command that is not tracked, or of another opcode, changes nothing. -/
theorem State.withTrack_other {s : State} {k : CmdKey} {opc : Byte} (h : ∀ t, s.track k = some t → t.sqe.opc ≠ opc) (f : Track → State) :
    s.withTrack k opc f = s := by
  unfold State.withTrack
  split
  · rename_i t e; simp [h t e]
  · rfl

/-! ### Services -/

/-- A service that a waiting thread has called. -/
theorem State.service_serves {s : State} {h : ThrId} {n : Nat} {c : Call} (a : Serves s h n c) (f : Call → State → State) :
    s.service h n f = s.ends (f c s) := by
  obtain ⟨x, j, k, ses, sa, ar, w⟩ := c
  have w1 : w = fun i => x.userReg i := a.args
  have jb : x.job = some j := a.job
  have sv : j.svc = some n := a.svc
  have lv : s.executes x = true := a.live
  have cm : s.track j.key = some k := a.cmd
  have sc : s.sachetOf j.snum = some sa := a.sachet
  have ra : s.areaOf h.tile j = some ar := a.area
  have se : k.ses = some ses := a.ses
  simp [State.service, a.here, jb, sv, lv, cm, sc, ra, se, w1]

/-! ### Frames -/

/-- A sequenced frame that the receiver takes has its effect, and what it settles follows. -/
theorem State.reinTake_takes {s : State} {f : Frame} (a : Takes s f) (isData : Bool) (act : State → State) :
    s.reinTake f isData act = (act (s.taken f isData)).mirrSettle := by
  have l : ¬ (s.link ≠ 2 ∧ s.link ≠ 3) := by rcases a.link with h | h <;> omega
  have g : ¬ 8 ≤ f.flags.toNat := by have := a.flags; omega
  have q := a.seq
  have e := a.epoch
  unfold State.reinTake State.taken
  rw [if_neg (by simp only [not_or]; exact ⟨l, fun h => h e⟩), if_neg g]
  simp only [if_pos q]

/-! ### Engine jobs -/

/-- A cipher request that is taken does its work. -/
theorem State.cqeJob_takes {s u : State} {t op q : Nat} {d : List Byte} (a : CqeTakes s t op q d u)
    (work : Nat → List Byte → State → State) : s.cqeJob t op false work = work q d u := by
  simp [State.cqeJob, a.pick, a.op, a.legal, a.clean]

/-- An index job that is taken, from clean memory, does its work. -/
theorem State.idxJob_takes {s u : State} {t op q : Nat} {d : List Byte} (a : IdxTakes s t op q d u) {len : List Byte → Nat}
    (clean : u.anyPoison t (leAt d 8 4) (len d) = false) (work : Nat → List Byte → State → State) :
    s.idxJob t op false len work = work q d u := by
  simp [State.idxJob, a.pick, a.op, a.legal, clean]

/-- A control write that the digest engine takes has its effect once its requester is granted. -/
theorem State.dgWrite_takes {s : State} {t o : Nat} (a : DgeTakes s t o) (same : (s.dgGrant t o).dgOpen t = s.dgOpen t)
    (owner : (s.dgGrant t o).rdField (.dge t) 0x008 12 8 = s.rdField (.dge t) 0x008 12 8) (off : Nat) (f : State → State) :
    s.dgWrite t o off f = f (s.dgGrant t o) := by
  have h : ¬ (((s.dgGrant t o).dgOpen t && decide ((s.dgGrant t o).rdField (.dge t) 0x008 12 8 ≠ o)) = true) := by
    rw [same, owner]
    simp only [Bool.and_eq_true, decide_eq_true_eq, not_and]
    exact fun w v => v (a.owner w)
  unfold State.dgWrite
  simp only [a.here, a.on, a.en, a.up, Bool.not_true, Bool.or_false, Option.isSome_none, Bool.false_eq_true, if_false]
  simp only [if_neg h]

end Sys2Proof.Machine
end

