-- ==== Sys2Proof/WellFormed.lean ====
section
/-! DEFINITION. WellFormed.lean: the commands that the world outside the block can offer: what a field of the spec, a header or a count
bounds and the type of an operand does not. The machine runs every command, well formed or not; these checks say which ones mean
something on the hardware. -/

namespace Sys2Proof

/-- The tile steward's core has one thread, 0 (R234). -/
def ThrId.wf (h : ThrId) : Bool := h.core.val < 8 || h.thr.val == 0

/-- The admin queue and 4,095 I/O queues (R26). -/
def CmdKey.wf (k : CmdKey) : Bool := k.sq < 4096

/-- A vendor command comes with its 128-byte parameter block (R67). -/
def FetchCand.wf (x : FetchCand) : Bool := x.key.wf && (x.sqe.opc.toNat < 0x80 || x.sqe.cpb.length == 128)

/-- LENGTH has 32 bits (Table 2.3). -/
def LmcsMsg.wf (m : LmcsMsg) : Bool := m.length < 2 ^ 32

/-- A request carries a well-formed message. -/
def Req.wf (q : Req) : Bool := q.msg.wf

/-- A frame that is taken carries at most 8,192 bytes (Table 19.7). -/
def Frame.wf (f : Frame) : Bool := f.payload.length ≤ 8192

/-- The ladder has at most 15 steps and a page 16 codewords (R151, R153). -/
def LadderEnv.wf (e : LadderEnv) : Bool := (e.okStep.getD 0) ≤ 15 && e.mask < 65536 && e.fixed ≤ 16

/-- Eyes are measured in 1/64 unit interval, over eight DQ lines (R145). -/
def TrainResult.wf (r : TrainResult) : Bool := r.rdWin ≤ 64 && r.wrWin ≤ 64 && r.worst < 8

/-- A quad of Table 4.1: 16 channels, 16 LUNs, 16,384 blocks of each plane. -/
def QuadId.wf (q : QuadId) : Bool := q.chan < 16 && q.lun < 16 && q.block < 16384

/-- Grains and map pages lie on a tile, in a namespace of R84; a map page is a leaf (1), an interior node (2) or a page of an
index run (3), named by its run number. -/
def MediaEnv.wf (e : MediaEnv) : Bool :=
  (e.bad.all fun b => b.1 < 8 && b.2.1 < 4096) && e.maps.all fun p => p.1 < 8 && (p.2.1 == 3 || ((p.2.1 == 1 || p.2.1 == 2) && p.2.2.1 < 4096))

/-- The checks of one command. -/
def Instr.wf : Instr → Bool
  | .pwrokRise => true
  | .pwrokFall _ => true
  | .supplyCollapse _ => true
  | .supplyDip _ => true
  | .perstN => true
  | .selfTestComplete _ _ _ => true
  | .bootSelect _ _ => true
  | .configStoreLoad _ => true
  | .mapRecoveryRead _ _ => true
  | .firstSweep _ => true
  | .modeSelect _ => true
  | .cstsRdySet => true
  | .secondSweep _ => true
  | .restoredFragmentProgram _ => true
  | .startupDeadline _ => true
  | .tileFailure _ => true
  | .ccEn _ => true
  | .controllerReset _ => true
  | .functionLevelReset _ => true
  | .doorbellWrite _ _ _ => true
  | .commandFetch port ready => ready.all (fun x => x.wf && x.key.fn.port == port)
  | .fragmentStaged k _ => k.wf
  | .fragmentComplete k _ _ => k.wf
  | .read k env => k.wf && env.wf
  | .write k => k.wf
  | .flush k => k.wf
  | .writeZeroes k => k.wf
  | .datasetManagement k => k.wf
  | .compare k env => k.wf && env.wf
  | .scan k env => k.wf && env.wf
  | .lookup k env => k.wf && env.wf
  | .range k env => k.wf && env.wf
  | .materialize k env => k.wf && env.wf
  | .run k h => k.wf && h.core.val < 8
  | .abort k _ _ => k.wf
  | .lmcsSend k _ => k.wf
  | .lmcsReceive k _ => k.wf
  | .identifyCommand k _ => k.wf
  | .getLogPage k _ => k.wf
  | .getFeatures k _ => k.wf
  | .setFeatures k _ => k.wf
  | .setFeaturesNumberOfQueues k _ => k.wf
  | .setFeaturesHostMemoryBuffer k _ => k.wf
  | .setFeaturesVolatileWriteCache k _ => k.wf
  | .setFeaturesTemperatureThreshold k _ => k.wf
  | .createIoSubmissionQueue k _ => k.wf
  | .createIoCompletionQueue k _ => k.wf
  | .deleteIoSubmissionQueue k _ => k.wf
  | .deleteIoCompletionQueue k _ => k.wf
  | .asynchronousEventRequest k _ => k.wf
  | .namespaceManagementCreate k _ _ => k.wf
  | .namespaceManagementDelete k _ _ => k.wf
  | .namespaceAttachment k _ _ => k.wf
  | .formatNvm k _ _ => k.wf
  | .sanitize k _ _ => k.wf
  | .firmwareImageDownload k _ => k.wf
  | .firmwareCommit k _ => k.wf
  | .virtualizationManagement k _ => k.wf
  | .deviceSelfTest k _ => k.wf
  | .nvmeMiHealthPoll _ => true
  | .mbDoorbell _ _ _ msg => msg.wf
  | .mbCtrlAbort _ _ _ _ => true
  | .lmcsResponsePost _ _ => true
  | .identify q => q.wf
  | .inventory q => q.wf
  | .registerWindowRead q => q.wf
  | .registerWindowWrite q => q.wf
  | .cfgGet q => q.wf
  | .cfgStage q => q.wf
  | .cfgCommit q _ => q.wf
  | .cfgDiscard q => q.wf
  | .cfgList q => q.wf
  | .cinchQuery q => q.wf
  | .cfgExport q => q.wf
  | .cfgImport q => q.wf
  | .cinchGo who => decide who.Nodup
  | .islandAdopt _ => true
  | .cinchStall => true
  | .registerWrite _ _ _ => true
  | .drainOnlyRegisterWrite _ _ => true
  | .undecodedAccess _ bytes _ => [1, 2, 4, 8].contains bytes
  | .checkpoint _ => true
  | .superblockOpen _ _ _ => true
  | .rowAgeExpiry _ _ => true
  | .superblockClosure _ _ => true
  | .collectionStart _ => true
  | .collectionVictimRelease _ _ eraseFails => eraseFails.all QuadId.wf
  | .staticLevelling _ => true
  | .fchQtail _ _ _ => true
  | .flashRead _ _ env => env.wf
  | .flashProgram _ _ _ => true
  | .flashErase _ _ _ => true
  | .flashReadParam _ _ _ => true
  | .flashGetFeatures _ _ => true
  | .flashSetFeatures _ _ => true
  | .flashResetLun _ _ => true
  | .flashOpComplete _ _ _ _ => true
  | .interfaceFaultRetry _ _ _ _ _ => true
  | .readyTimeout _ _ _ => true
  | .fchQctrlEnClear _ _ => true
  | .trainFull _ _ => true
  | .trainZqonly _ _ => true
  | .trainingComplete _ _ res => res.wf
  | .cmpQtail _ _ _ => true
  | .grain _ _ => true
  | .compress _ _ => true
  | .decompress _ => true
  | .cmpJobComplete _ => true
  | .cmpQctrlEnClear _ _ => true
  | .sftQtail _ _ _ => true
  | .siftGrain _ _ _ => true
  | .cont _ _ _ => true
  | .sftJobComplete _ _ => true
  | .sftQctrlEnClear _ _ => true
  | .escalationTimeout k => k.wf
  | .engineParityRetry _ _ _ => true
  | .layoutInstall q => q.wf
  | .layoutAttach q _ => q.wf
  | .layoutDetach q _ => q.wf
  | .imageInstall q => q.wf
  | .imageRemove q => q.wf
  | .setInstall q => q.wf
  | .setRemove q => q.wf
  | .layoutRemove q => q.wf
  | .siftQuery q => q.wf
  | .indexDeclare q _ => q.wf
  | .indexDrop q _ => q.wf
  | .indexStatus q => q.wf
  | .idxQtail _ _ _ => true
  | .extract _ _ => true
  | .idxSeal _ _ => true
  | .merge _ _ => true
  | .probe _ _ => true
  | .idxJobComplete _ => true
  | .idxQctrlEnClear _ _ => true
  | .indexRegeneration _ nsx => nsx < 4096
  | .create q => q.wf
  | .destroy q => q.wf
  | .query q => q.wf
  | .setRights q => q.wf
  | .setClass q => q.wf
  | .list q => q.wf
  | .funcSet q _ => q.wf
  | .funcQuery q => q.wf
  | .quotaSet q _ => q.wf
  | .quotaQuery q => q.wf
  | .suspend q => q.wf
  | .resume q => q.wf
  | .revoke q => q.wf
  | .sessionRelease _ => true
  | .quotaPeriod _ => true
  | .quantumEnd h _ => h.wf
  | .threadStart h => h.core.val < 8
  | .threadWake h => h.wf
  | .interrupt h _ => h.wf
  | .undefinedEncoding h _ => h.wf
  | .add h _ _ _ => h.wf
  | .sub h _ _ _ => h.wf
  | .andR h _ _ _ => h.wf
  | .orR h _ _ _ => h.wf
  | .xor h _ _ _ => h.wf
  | .nor h _ _ _ => h.wf
  | .sll h _ _ _ => h.wf
  | .srl h _ _ _ => h.wf
  | .sra h _ _ _ => h.wf
  | .slt h _ _ _ => h.wf
  | .sltu h _ _ _ => h.wf
  | .mul h _ _ _ => h.wf
  | .mulh h _ _ _ => h.wf
  | .mulhu h _ _ _ => h.wf
  | .div h _ _ _ => h.wf
  | .divu h _ _ _ => h.wf
  | .rem h _ _ _ => h.wf
  | .remu h _ _ _ => h.wf
  | .adds h _ _ _ => h.wf
  | .subs h _ _ _ => h.wf
  | .addus h _ _ _ => h.wf
  | .subus h _ _ _ => h.wf
  | .clz h _ _ => h.wf
  | .shuf h _ _ _ => h.wf
  | .crcb h _ _ _ => h.wf
  | .crcw h _ _ _ => h.wf
  | .mula h _ _ => h.wf
  | .mulau h _ _ => h.wf
  | .mac h _ _ => h.wf
  | .macu h _ _ => h.wf
  | .msu h _ _ => h.wf
  | .msuu h _ _ => h.wf
  | .accrd h _ _ => h.wf
  | .ftoi h _ _ _ => h.wf
  | .itof h _ _ _ => h.wf
  | .addi h _ _ _ => h.wf
  | .slti h _ _ _ => h.wf
  | .sltiu h _ _ _ => h.wf
  | .andi h _ _ _ => h.wf
  | .ori h _ _ _ => h.wf
  | .xori h _ _ _ => h.wf
  | .slli h _ _ _ => h.wf
  | .srli h _ _ _ => h.wf
  | .srai h _ _ _ => h.wf
  | .lui h _ _ => h.wf
  | .adrp h _ _ => h.wf
  | .lb h _ _ _ _ => h.wf
  | .lbu h _ _ _ _ => h.wf
  | .lh h _ _ _ _ => h.wf
  | .lhu h _ _ _ _ => h.wf
  | .lw h _ _ _ _ => h.wf
  | .sb h _ _ _ => h.wf
  | .sh h _ _ _ => h.wf
  | .sw h _ _ _ => h.wf
  | .ldG h _ _ _ _ _ => h.wf
  | .stG h _ _ _ _ => h.wf
  | .amoswap h _ _ _ _ => h.wf
  | .amoadd h _ _ _ _ => h.wf
  | .amoand h _ _ _ _ => h.wf
  | .amoor h _ _ _ _ => h.wf
  | .cas h _ _ _ _ => h.wf
  | .beq h _ _ _ => h.wf
  | .bne h _ _ _ => h.wf
  | .blt h _ _ _ => h.wf
  | .bge h _ _ _ => h.wf
  | .bltu h _ _ _ => h.wf
  | .bgeu h _ _ _ => h.wf
  | .j h _ => h.wf
  | .call4 h _ => h.wf
  | .call8 h _ => h.wf
  | .call12 h _ => h.wf
  | .call16 h _ => h.wf
  | .jr h _ => h.wf
  | .callr4 h _ => h.wf
  | .callr8 h _ => h.wf
  | .callr12 h _ => h.wf
  | .callr16 h _ => h.wf
  | .ret h => h.wf
  | .fence h => h.wf
  | .fenceI h => h.wf
  | .wflush h => h.wf
  | .eret h => h.wf
  | .wait h => h.wf
  | .mfc h _ _ => h.wf
  | .mtc h _ _ => h.wf
  | .svc h _ => h.wf
  | .brk h _ => h.wf
  | .stage q => q.wf
  | .seal q => q.wf
  | .unload q => q.wf
  | .sachetQuery q => q.wf
  | .yieldSvc h => h.wf
  | .clock h => h.wf
  | .inNext h => h.wf
  | .nsRead h env => h.wf && env.wf
  | .nsWrite h => h.wf
  | .escNext h => h.wf
  | .outPut h => h.wf
  | .cq h => h.wf
  | .digest h => h.wf
  | .zjob h => h.wf
  | .log h => h.wf
  | .serviceCompletion _ => true
  | .runmaxExpiry _ => true
  | .maintInv _ => true
  | .maintClean _ => true
  | .maintFlush _ => true
  | .maintLock _ => true
  | .maintUnlock _ => true
  | .maintDone _ => true
  | .fill _ => true
  | .fillDone _ => true
  | .scrub _ found => found.all (fun f => f.1 < 0x01B00000 && f.2 != .tag)
  | .scrubDone _ => true
  | .hourlyScrub found => found.all (fun f => f.2.1 < 0x01800000 && f.2.2 != .tag)
  | .l2Ways _ _ => true
  | .bankRet _ _ => true
  | .memoryErrorRetry _ _ _ _ => true
  | .keywWrite _ _ => true
  | .commitLo _ => true
  | .commitHi _ => true
  | .keyStoreErase _ => true
  | .unwrap _ => true
  | .wrap _ => true
  | .keyLoad q => q.wf
  | .keyDerive q => q.wf
  | .keyErase q => q.wf
  | .keyQuery q => q.wf
  | .nskeyQuery q => q.wf
  | .alarmQuery q => q.wf
  | .cqeQtail _ _ _ => true
  | .encBlocks _ _ => true
  | .decBlocks _ _ => true
  | .decHold _ _ => true
  | .tagcheck _ _ => true
  | .nonce _ _ => true
  | .cqeRequestComplete _ => true
  | .cqeQctrlEnClear _ _ => true
  | .dgStart _ _ _ => true
  | .dgFinish _ _ _ => true
  | .dgSqueeze _ _ => true
  | .dgAbort _ _ => true
  | .dgSave _ _ => true
  | .dgRestore _ _ => true
  | .dgFeed _ _ => true
  | .dgFeedDone _ => true
  | .dgData _ _ _ => true
  | .dgDatab _ _ _ => true
  | .alarm _ => true
  | .certGet q => q.wf
  | .ownerChallenge q => q.wf
  | .ownerProve q => q.wf
  | .ownerRelease q => q.wf
  | .ownerEnroll q _ => q.wf
  | .ownerTransfer q _ => q.wf
  | .ownerNonceExpiry _ => true
  | .fwStage q => q.wf
  | .fwCommit q => q.wf
  | .fwQuery q => q.wf
  | .fwAdvance q _ => q.wf
  | .fwStagingTimeout => true
  | .getVersion q => q.wf
  | .getCapabilities q => q.wf
  | .negotiateAlgorithms q => q.wf
  | .getDigests q => q.wf
  | .getCertificate q => q.wf
  | .challenge q => q.wf
  | .getMeasurements q => q.wf
  | .chunkGet q => q.wf
  | .respondIfReady q => q.wf
  | .spdmUnsupportedRequest q => q.wf
  | .debugNonce q => q.wf
  | .debugUnlock q => q.wf
  | .debugNonceExpiry _ => true
  | .pdCtrl _ _ => true
  | .domainOn _ _ => true
  | .pcIdleSwitchOff _ => true
  | .governorPeriod tileMw _ _ => tileMw.length ≤ 8
  | .powerFailure => true
  | .dumpStart _ _ => true
  | .park => true
  | .parkRestart => true
  | .logRead q => q.wf
  | .counters q => q.wf
  | .fabricLinkReplay _ _ _ => true
  | .pairQuery q => q.wf
  | .pairBind q _ => q.wf
  | .pairUnbind q _ => q.wf
  | .nsMirror q _ => q.wf
  | .nsUnmirror q _ => q.wf
  | .takeover q => q.wf
  | .splitResolve q => q.wf
  | .nsState q => q.wf
  | .laneRestore q _ => q.wf
  | .linkUp => true
  | .laneTrainingRetry _ _ _ _ => true
  | .whdr fr => fr.wf
  | .data fr => fr.wf
  | .mack fr => fr.wf
  | .confirm fr => fr.wf
  | .void fr => fr.wf
  | .voidack fr => fr.wf
  | .reject fr => fr.wf
  | .hello fr => fr.wf
  | .chain fr => fr.wf
  | .proof fr => fr.wf
  | .helloRetry => true
  | .state fr => fr.wf
  | .rate fr => fr.wf
  | .nak fr => fr.wf
  | .ping fr => fr.wf
  | .malformedFrame _ _ => true
  | .retransmitTimeout => true
  | .mackTmo nsid _ => 1 ≤ nsid && nsid ≤ 4096
  | .peerTmo => true
  | .utilisationWindow _ => true
  | .lockedTimeout => true
  | .pingInterval => true
  | .catchUp nsid env => 1 ≤ nsid && nsid ≤ 4096 && env.wf
  | .gpioInputEdge _ _ => true
  | .actTimeout => true
  | .idcode => true
  | .bypass => true
  | .samplePreload => true
  | .extest _ => true
  | .clamp => true
  | .highz => true
  | .pfailGlitch _ => true
  | .perstNDeassertion => true
  | .linkTrainingStart => true
  | .endpointIdReassigned _ _ => true
  | .reinTrainingComplete _ _ => true
  | .receiverRelock => true
  | .rateStepRetry _ => true
  | .bar4SnapshotRefresh => true
  | .temperatureThresholdCrossed _ _ => true
  | .dgPermutationDone _ => true

end Sys2Proof
end

