-- ==== Sys2Proof/Tests/Slice0.lean ====
section
/-! SUPPORT. Tests/Slice0.lean: small tests by the kernel. Expected values are those that spec/ states, or are worked out by hand from its
rules. A theorem named `witness_…` shows that the premises of the statement of that name, clause by clause, can be met. -/

namespace Sys2Proof.Tests

open Sys2Proof Sys2Proof.Machine

/-! ### A unit to test on -/

/-- The state that a command leaves. -/
def after (c : Instr) (s : State) : State := match exec c s with
  | .next t => t
  | _ => s

/-- Thread 0 of core 0 of T0. -/
def h0 : ThrId := ⟨0, 0, 0⟩

/-- Function PF of port A. -/
def f0 : FnId := ⟨0, 0⟩

/-- A region that covers the first 24 MiB of a tile, readable and writable. -/
def rgn0 : Rgn := ⟨0, 0x017FFFC7⟩

/-- A region that covers them for execution. -/
def rgnX : Rgn := ⟨0, 0x017FFFC9⟩

/-- A user thread with w_i = i + 1. -/
def user : Thread :=
  { id := h0, running := true, steward := false, pc := 0x100, win := (List.range 24).map fun i => BitVec.ofNat 32 (i + 1)
    rgns := rgn0 :: rgnX :: List.replicate 6 {} }

/-- The same thread in steward mode. -/
def stew : Thread := { user with steward := true }

/-- A state in which every program core domain of T0 is on and one thread is started. -/
def onCore (x : Thread) : State :=
  { State.reset with cores := { threads := [x] }, power := { State.reset.power with on := [(0, 0), (0, 1), (0, 2), (0, 3)] } }

/-- A register of the thread after a command. -/
def got (c : Instr) (x : Thread) (r : Reg) : Option Word := ((after c (onCore x)).thr h0).map fun y => y.get r

/-- The thread after a command. -/
def left (c : Instr) (x : Thread) : Option Thread := (after c (onCore x)).thr h0

/-! ### A device at work -/

/-- A mailbox of PF A. -/
def box : Carrier := .mailbox f0 3

/-- A request. -/
def ask (car : Carrier) (op handle : Nat) (body : List Byte) : Req :=
  ⟨car, ⟨BitVec.ofNat 16 op, 1, 0, 7, 0, body.length, BitVec.ofNat 32 handle, body⟩⟩

/-- A request that names no session, of the platform owner's mailbox. -/
def plain (op : Nat) (body : List Byte) : Req := ask box op 0xFFFFFFFF body

/-- The state with a request in progress on that mailbox, which holds the platform owner role. -/
def asked (s : State) (q : Req) : State := { s with lmcs := { s.lmcs with inFlight := [q], owners := [(box, [])] } }

/-- What `Acts` asks of a request in that state, as one decidable premise. -/
def Goes (s : State) (q : Req) (op : Nat) (x : Option Session) : Bool :=
  decide (q.msg.opcode.toNat = op ∧ (asked s q).waiting q = true ∧ (asked s q).abortAsked q = false) &&
    (match (asked s q).admission q with
      | .ok y => decide (y = x)
      | .error _ => false)

theorem acts {s : State} {q : Req} {op : Nat} {x : Option Session} (h : Goes s q op x = true) : Acts (asked s q) q op x := by
  obtain ⟨a, b⟩ := (Bool.and_eq_true _ _).mp h
  obtain ⟨a1, a2, a3⟩ := of_decide_eq_true a
  refine ⟨a1, a2, ?_, a3⟩
  split at b
  · rename_i y e; rw [e, of_decide_eq_true b]
  · cases b

/-- A namespace of 1,024 blocks of 4,096 bytes. -/
def ns1 : Namespace := { nsid := 1, blocks := 1024, lbaf := 0, grain16 := false, alt := false, attached := [f0], keyTag := 1, blob := [] }

/-- A session of PF A with R, W and S to it, slot 5 of T0. -/
def ses1 : Session :=
  { snum := 5, gen := 1, fn := f0, state := 1, cls := 2, rti := 0, rights := [0x7000], kbase := 4, kcnt := 2, sslot := some 0
    qbi := 0, outst := 0, label := zeros 8, threads := 2, req := none }

/-- The handle of the session. -/
def hd1 : Nat := 5 + 2 ^ 18

/-- Function settings with a grant of namespace 1. -/
def func1 : FuncDef := ⟨f0, zeros 4 ++ leBytes 2 4 ++ zeros 2 ++ leBytes 2 8 ++ leBytes 2 1 ++ leBytes 2 16 ++ leBytes 2 16 ++
  leBytes 2 16 ++ zeros 6 ++ leBytes 2 0x7000 ++ zeros 38⟩

/-- A controller at work. -/
def ctrl0 : Controller :=
  { fn := f0, en := true, rdy := true, granted := 4, cqs := [⟨0, 64, 0, 0, some 0⟩, ⟨1, 64, 0, 0, some 1⟩]
    sqs := [⟨0, 64, 0, 0, 0, 0⟩, ⟨1, 64, 1, 0, 0, 0⟩] }

/-- A sachet with one entry, one page of code, data and shared data, RUNMAX 1 s. -/
def sach1 : Sachet :=
  { slot := 0, snum := 5, handle := hd1, tags := [], code := [(0, 0x8000)], shared := [(0, 0x9000)]
    image := zeros 4 ++ leBytes 1 1 ++ zeros 1 ++ leBytes 1 1 ++ leBytes 1 0xFF ++ leBytes 4 64 ++
      leBytes 4 256 ++ leBytes 4 0 ++ leBytes 4 512 ++ leBytes 4 256 ++ leBytes 4 1000000 ++ zeros 96 }

/-- The areas of its thread on T0. -/
def area1 : ThrArea := { tile := 0, snum := 5, idx := 0, priv := 0x10000, spill := 0x11000, inW := 0x20000, outW := 0x30000, hold := 0x40000 }

/-- The device in normal operation with all that. -/
def world : State :=
  { State.reset with
    boot := { reached11 := true, image := true, storeRead := true, tested := [0, 1, 2, 3], pairEn := true }
    cfg := { body := { namespaces := [ns1], funcs := [func1] } }
    ns := [{ nsid := 1, ready := true }]
    ses := { sessions := [ses1], quotas := [⟨0, 2 ^ 64 - 1, 2 ^ 64 - 1, 2 ^ 64 - 1, 65535, 1, 0, 0, 0, 0⟩] }
    cores := { sachets := [sach1], areas := [area1] }
    host := { ctrls := [ctrl0], linkUp := true, configured := true }
    power := { State.reset.power with on := (List.range 8).flatMap fun t => (List.range 8).map fun d => (t, d) }
    pins := { State.reset.pins with pairEn := true } }

/-- A submission queue entry: opcode, NSID, CDW10 to CDW12, its data buffer of `len` bytes. -/
def sqe (opc : Byte) (nsid d10 d11 d12 : Nat) (data : List Byte) (len : Nat) : Sqe :=
  { opc := opc, fuse := 0, nsid := BitVec.ofNat 32 nsid, cdw2 := BitVec.ofNat 32 hd1, cdw3 := 0, mptr := 0, cdw10 := BitVec.ofNat 32 d10
    cdw11 := BitVec.ofNat 32 d11, cdw12 := BitVec.ofNat 32 d12, cdw13 := 0, cdw14 := 0, cdw15 := 0, dptr := ⟨false, len, 0, false, false⟩
    data := data, md := [], cpb := zeros 128 }

/-- An I/O command of queue 1. -/
def key1 : CmdKey := ⟨f0, 1, 9⟩

/-- The state with a command tracked. -/
def tracking (s : State) (e : Sqe) : State := { s with host := { s.host with tracks := [{ key := key1, sqe := e, epoch := 0 }] } }

/-- A medium without errors. -/
def calm : MediaEnv := ⟨[], [], [], []⟩

/-- Its two checks need no more than the operands. -/
theorem tracked (s : State) (e : Sqe) : Tracked (tracking s e) key1 e.opc { key := key1, sqe := e, epoch := 0 } :=
  ⟨by simp [tracking, State.track], rfl⟩

/-- A pair whose first part is there. -/
theorem some_pair {α β : Type} {p : Option α × β} (h : p.1.isSome = true) : ∃ a b, p = (some a, b) := by
  obtain ⟨x, b⟩ := p
  cases x with
  | none => cases h
  | some a => exact ⟨a, b, rfl⟩

/-- A result that is no error. -/
theorem is_ok {ε α : Type} {r : Except ε α} (h : r.toBool = true) : ∃ a, r = .ok a := by
  cases r with
  | error e => cases h
  | ok a => exact ⟨a, rfl⟩

/-- A value that is there. -/
theorem is_some {α : Type} {o : Option α} (h : o.isSome = true) : ∃ a, o = some a := Option.isSome_iff_exists.mp h

/-- A key of the session that encrypts and decrypts, in its first slot. -/
def kslot1 : KeySlot := ⟨4, 2 + 3 * 4 + 2 * 256 + 5 * 1024, zeros 32, 0⟩

/-! ### Cuwif-32 (chapters 11 and 12) -/

theorem runs_user : Runs (onCore user) h0 user := ⟨by decide, by decide, by decide⟩

theorem runs_stew : Runs (onCore stew) h0 stew := ⟨by decide, by decide, by decide⟩

/-- Table 12.2: RD = w1 takes a + b, with k0 reading zero (R239). -/
theorem test_add : got (.add h0 9 10 11) user 9 = some 7 ∧ got (.add h0 0 10 11) user 0 = some 0 := by decide

/-- R263. -/
theorem test_div_zero : got (.div h0 9 11 0) user 9 = some 0xFFFFFFFF ∧ got (.rem h0 9 11 0) user 9 = some 4 := by decide

theorem test_sra : got (.sra h0 9 10 11) ((user.put 10 0x80000000).put 11 4) 9 = some 0xF8000000 := by decide

theorem test_adds : got (.adds h0 9 10 10) (user.put 10 0x7FFFFFFF) 9 = some 0x7FFFFFFF ∧
    (left (.adds h0 9 10 10) (user.put 10 0x7FFFFFFF)).map (fun y => y.sat) = some true := by decide

/-- R265: 2.5 rounds to even. -/
theorem test_ftoi : ftoi 0x40200000 0 = (2, false) ∧ ftoi 0x40600000 0 = (4, false) := by decide

/-- R261: ADRP gives the pc plus 4 × IMM21. -/
theorem test_adrp : got (.adrp h0 9 2) user 9 = some 0x108 := by decide

/-- A store and the load back, little-endian (R267). -/
theorem test_store_load : (do
    let y ← left (.sw h0 10 0 0x40) (user.put 10 0x11223344)
    pure (((after (.lbu h0 9 0 0x41 .clean) (after (.sw h0 10 0 0x40) (onCore (user.put 10 0x11223344)))).thr h0).map fun z =>
      (z.get 9, y.pc))) = some (some (0x33, 0x104)) := by decide

/-- A user access to register space raises PRIV_ADDR (0x26) and enters the handler. -/
theorem test_priv_addr : (left (.lw h0 9 10 0 .clean) (user.put 10 0x20000000)).map (fun y =>
    (y.cause.toNat % 512, y.epc, y.steward, y.badaddr)) = some (0x126, 0x100, true, 0x20000000) := by decide

theorem test_call_ret : (left (.call4 h0 4) user).map (fun y => (y.pc, y.wdepth, y.win.take 2)) = some (0x110, 1, [5, 6]) := by decide

/-- FETCH_ALIGN (0x20) with BADADDR the target and EPC the jump. -/
theorem test_jr_align : (left (.jr h0 10) (user.put 10 0x102)).map (fun y => (y.cause.toNat % 256, y.badaddr, y.epc)) =
    some (0x20, 0x102, 0x100) := by decide

/-- Reading THREADID (CRN 5): thread in bit 0, core from bit 1, tile from bit 4. -/
theorem test_threadid : ({ user with id := ⟨3, 5, 1⟩ } : Thread).crGet 5 = 0x3B := by decide

theorem witness_RegisterFile : user.win.length = 24 ∧ user.ku.length = 7 ∧ user.ks.length = 7 ∧ user.steward = false ∧ stew.steward = true ∧
    (∃ y u, (onCore user).entry user { code := 2 } = .ok (y, u)) ∧ (9 : Reg) ≠ 0 ∧ (9 : Reg) ≠ 10 :=
  ⟨by decide, by decide, by decide, rfl, rfl, ⟨_, _, rfl⟩, by decide, by decide⟩

theorem witness_ComputingFrame : Runs (onCore user) h0 user ∧ ({ user with pc := 0x104 } : Thread).id = h0 := ⟨runs_user, rfl⟩

theorem witness_OperationResults : Runs (onCore user) h0 user := runs_user

theorem witness_DivisionRule : Runs (onCore user) h0 user ∧ user.get 0 = 0 ∧
    (user.put 9 0x80000000).get 9 = 0x80000000 ∧ (user.put 9 0xFFFFFFFF).get 9 = 0xFFFFFFFF := ⟨runs_user, by decide⟩

theorem witness_SaturatingAndFloatResults : Runs (onCore user) h0 user := runs_user

theorem witness_AccumulatorShuffleAndCrc : Runs (onCore user) h0 user ∧ user.get 0 = 0 ∧ user.get 9 ≠ 0 := ⟨runs_user, by decide⟩

theorem witness_DataAccessChecks : ((user.dataExc .load 0x20000000 4 0).map fun e => e.code) = some 0x26 ∧
    ((user.dataExc .store 0x1001 2 0).map fun e => e.code) = some 0x23 ∧ ((user.dataExc .atomic 0x1800000 4 0).map fun e => e.code) = some 0x25 ∧
    ((user.dataExc .load 0x17FFFFC 4 0).map fun e => e.code) = none ∧ ((stew.dataExc .load 0x20000001 4 0).map fun e => e.code) = some 0x22 := by
  decide

theorem witness_MemoryInstructions : Runs (onCore user) h0 user ∧ user.dataExc .load 0x40 4 0 = none ∧
    (((onCore user).issued h0).thrRead user 0x40 4 .clean).1 = some [0, 0, 0, 0] ∧ (user.dataExc .load 0x41 2 0).isSome = true ∧
    (((onCore user).issued h0).thrRead user 0x40 4 .ue).1 = none ∧ user.dataExc .store 0x40 4 0 = none ∧ (user.dataExc .store 0x41 2 0).isSome = true ∧
    user.dataExc .atomic 0x40 4 0 = none ∧ (user.dataExc .atomic 0x42 4 0).isSome = true := ⟨runs_user, by decide⟩

theorem witness_OwnMemoryAccess : (onCore user).place 0 0x40 = .sram (memKey 0 0x40) true ∧ (onCore user).poisoned (memKey 0 0x40) = false ∧
    (onCore user).heldRange (memKey 0 0x40) 4 = false := by decide

theorem witness_MemoryCanonicalForm : ({ cells := [(3, 1), (7, 2)] } : Memory).wf = true ∧
    ({ cells := [(3, 1), (7, 2)], host := [(9, 9)] } : Memory).wf = true ∧ ¬ ({ cells := [(3, 0)] } : Memory).wf = true := by decide

/-- Generators of the four modes. -/
def gen (m : BitVec 2) : Gen := { base := 0x100, len := 8, step := 1, off := 3, mode := m }

theorem witness_GeneratorRule : Runs (onCore user) h0 user ∧ user.gens.length = 4 ∧ (gen 0).valid = true ∧ (gen 1).valid = true ∧
    (gen 2).valid = true ∧ (gen 3).valid = false ∧ (gen 2).len.toNat = 2 ^ 3 ∧
    (let x : Thread := { user with gens := [gen 1, gen 3, {}, {}] }
     Runs (onCore x) h0 x ∧ (x.gen 0).valid = true ∧ (x.gen 1).valid = false ∧ x.dataExc .load ((x.gen 0).ea 1) 1 0 = none ∧
      (x.dataExc .load ((x.gen 0).ea 2) 2 0).isSome = true ∧ x.dataExc .store ((x.gen 0).ea 1) 1 0 = none ∧
      (x.dataExc .store ((x.gen 0).ea 4) 4 0).isSome = true ∧
      (((onCore x).issued h0).thrRead x ((x.gen 0).ea 1) 1 .clean).1 = some [0] ∧
      (((onCore x).issued h0).thrRead x ((x.gen 0).ea 1) 1 .ue).1 = none) :=
  ⟨runs_user, by decide, by decide, by decide, by decide, by decide, by decide, ⟨by decide, by decide, by decide⟩, by decide⟩

/-- R244: bit reversal of OFF 3 within 8 is 6; MODE 1 wraps at LEN. -/
theorem test_generators : (gen 2).ea 4 = 0x118 ∧ ({ gen 1 with off := 7 } : Gen).advance.off = 0 := by decide

/-- A user thread with one resident increment of 4 and a spill stack at 0x1000. -/
def deep : Thread :=
  { user with incs := [⟨[1, 2, 3, 4], 0x200, true⟩], wdepth := 1, spillBase := 0x1000, spillPtr := 0x1000, spillLim := 0x2000 }

/-- A thread whose file is full. -/
def full : Thread := { deep with incs := List.replicate 14 ⟨List.replicate 16 0, 0x200, true⟩ ++ [⟨List.replicate 8 0, 0x200, true⟩], wdepth := 15 }

theorem witness_JumpsCallsAndReturns : Runs (onCore user) h0 user ∧ Runs (onCore deep) h0 deep ∧ user.wdepth = 0 ∧ user.wdepth ≠ 65535 ∧
    24 + user.resident + 16 ≤ 256 ∧ deep.wdepth ≠ 0 ∧ deep.incs = [⟨[1, 2, 3, 4], 0x200, true⟩] ∧ true ≠ deep.steward ∧
    (user.pc + (4 : BitVec 26).signExtend 32 * 4).toNat % 4 = 0 ∧ (user.put 10 0x102).get 10 = 0x102 ∧
    (((onCore full).issued h0).makeRoom full 16 16).toBool = true ∧
    (((onCore { full with spillLim := 0x1000 }).issued h0).makeRoom { full with spillLim := 0x1000 } 16 16).toBool = false ∧
    Runs (onCore { user with wdepth := 65535 }) h0 { user with wdepth := 65535 } :=
  ⟨runs_user, ⟨by decide, by decide, by decide⟩, rfl, by decide, by decide, by decide, by decide, by decide, by decide, by decide,
   by decide, by decide, ⟨by decide, by decide, by decide⟩⟩

theorem witness_ReturnUndoesCall : Runs (onCore user) h0 user ∧ user.id = h0 ∧ user.win.length = 24 ∧ user.pc.toNat % 4 = 0 ∧
    user.wdepth < 65535 ∧ 24 + user.resident + 16 ≤ 256 ∧
    Runs (after (.call16 h0 4) (onCore user)) h0 (((after (.call16 h0 4) (onCore user)).thr h0).getD user) :=
  ⟨runs_user, rfl, rfl, rfl, by decide, by decide, ⟨by decide, by decide, by decide⟩⟩

theorem witness_FillUndoesSpill : deep.incs = [⟨[1, 2, 3, 4], 0x200, true⟩] ∧ deep.stack true = (0x1000, 0x1000, 0x2000) ∧
    ({ deep with spillLim := 0x1017 } : Thread).stack true = (0x1000, 0x1000, 0x1017) ∧
    (∀ j : Fin 24, (onCore deep).place 0 (0x1000 + j.val) = .sram (memKey 0 0x1000 + j.val) true ∧
      (onCore deep).poisoned (memKey 0 0x1000 + j.val) = false ∧ ∀ m : Fin 5, (onCore deep).heldRange (memKey 0 0x1000 + j.val) m.val = false) ∧
    ∀ j : Fin 6, deep.spillOk true 1 (0x1000 + 4 * j.val) = true ∧ deep.spillOk true 2 (0x1000 + 4 * j.val) = true := by decide

theorem witness_SystemTrapsAndErets : Runs (onCore user) h0 user ∧ Runs (onCore stew) h0 stew ∧ user.job = none ∧ user.id = h0 ∧
    (∃ y u, ((onCore user).issued h0).entry user { code := 0x02, next := true } = .ok (y, u) ∧ y.id = h0 ∧ y.job = none) ∧
    (∃ y u, ((onCore user).issued h0).entry user { code := 0x03, next := true } = .ok (y, u) ∧ y.id = h0 ∧ y.job = none) ∧
    (∃ y u, ((onCore user).issued h0).entry user { code := 0x10 } = .ok (y, u) ∧ y.id = h0 ∧ y.job = none) ∧
    (∃ y u, ((onCore stew).issued h0).flushUser stew stew.incs.length = .ok (y, u)) ∧
    (∃ c u, ((onCore stew).issued h0).eret stew = .error (c, u)) ∧
    ∃ y u, ((onCore { stew with incs := [⟨List.replicate 16 1, 0x200, true⟩] }).issued h0).eret
      { stew with incs := [⟨List.replicate 16 1, 0x200, true⟩] } = .ok (y, u) ∧ y.irqQuantum = false ∧ y.irqSignal = false :=
  ⟨runs_user, runs_stew, rfl, rfl, ⟨_, _, rfl, rfl, rfl⟩, ⟨_, _, rfl, rfl, rfl⟩, ⟨_, _, rfl, rfl, rfl⟩, ⟨_, _, rfl⟩, ⟨_, _, rfl⟩, ⟨_, _, rfl, rfl, rfl⟩⟩

theorem witness_ControlRegisters : Runs (onCore user) h0 user ∧ Runs (onCore stew) h0 stew ∧ crListed 0x12 = false ∧ crListed 0x67 = false ∧
    crListed 0x10 = true ∧ crReads false 0x10 = false ∧ crWrites false 0x05 = false ∧ crReads false 0x05 = true ∧ crWrites false 0x0B = true ∧
    crWrites true 0x66 = true ∧ user.gens.length = 4 ∧ user.rgns.length = 8 ∧ user.ku.length = 7 := ⟨runs_user, runs_stew, by decide⟩

theorem witness_ExceptionEntryAndReturn : user.steward = false ∧ user.win.length = 24 ∧ 24 + user.resident + 16 ≤ 256 := by decide

/-! ### Threads, invocations and services -/

/-- A RUN of the sachet's entry 0. -/
def runE : Sqe := { sqe 0x8F 0 0 0 64 (zeros 64) 0x20000 with cdw14 := 0x20000 }

/-- The snapshot of the session. -/
def snap1 : SesSnap := ⟨5, hd1, 2, [(0, 7)], 4, 2, some 0, 0, zeros 8⟩

/-- An invocation of it. -/
def job1 : Job := { inv := 0, key := key1, esc := none, snum := 5, area := 0 }

/-- The user thread in that invocation, with w1 to w6 as given. -/
def inJob (w : List Nat) : Thread :=
  { user with job := some job1, win := (0 :: w ++ List.replicate (23 - w.length) 0).map fun n => BitVec.ofNat 32 n }

/-- The device with the command checked and that thread on it. -/
def invoked (e : Sqe) (x : Thread) : State :=
  { world with cores := { world.cores with threads := [x] }
               host := { world.host with tracks := [{ key := key1, sqe := e, epoch := 0, started := true, ses := some snap1 }] } }

/-- The device after that thread has called a service. -/
def callingAs (e : Sqe) (x : Thread) (n : Nat) : State := after (.svc h0 (BitVec.ofNat 16 n)) (invoked e x)

/-- The same of a RUN without a namespace. -/
def calling (n : Nat) (w : List Nat) : State := callingAs runE (inJob w) n

/-- A RUN that names namespace 1. -/
def runN : Sqe := { runE with nsid := 1 }

/-- The call that it makes. -/
def theCall (s : State) : Call :=
  let x := (s.thr h0).getD user
  ⟨x, x.job.getD job1, (s.track key1).getD { key := key1, sqe := runE, epoch := 0 }, snap1, sach1, area1, fun i => x.userReg i⟩

/-- What `Serves` asks of a state, as one decidable premise. -/
def Serving (s : State) (n : Nat) : Bool :=
  let c := theCall s
  decide (s.thr h0 = some c.x ∧ c.x.job = some c.j ∧ c.j.svc = some n ∧ s.executes c.x = true ∧ s.track c.j.key = some c.k ∧
    s.sachetOf c.j.snum = some c.c ∧ s.areaOf 0 c.j = some c.a ∧ c.k.ses = some c.ses)

theorem serves {s : State} {n : Nat} (h : Serving s n = true) : Serves s h0 n (theCall s) := by
  obtain ⟨a, b, c, d, e, f, g, i⟩ := of_decide_eq_true h
  exact ⟨a, b, c, d, e, f, g, i, rfl⟩

theorem witness_ThreadsAndInvocations :
    (onCore user).hasTile h0.tile.val = true ∧ (onCore user).blockOn (.core 0) = true ∧ (∀ x, (onCore user).thr h0 = some x → x.job = none) ∧
    (onCore { user with waiting := true }).thr h0 = some { user with waiting := true } ∧ (onCore stew).thr h0 = some stew ∧
    stew.running = true ∧ stew.stop = none ∧
    (∃ y s1, (onCore user).entry { user with irqQuantum := false, waiting := false } { code := 0x04 } = .ok (y, s1) ∧ y.job = none) ∧
    (∃ z s2, (onCore user).entry { user with irqSignal := false, waiting := false } { code := 0x05 } = .ok (z, s2) ∧ z.job = none) ∧
    Tracked (tracking world runE) key1 0x8F { key := key1, sqe := runE, epoch := 0 } ∧ runE.vendorForm = true ∧
    (tracking world runE).vendorSession { key := key1, sqe := runE, epoch := 0 } [] = some snap1 ∧ (tracking world runE).outFits 0 = true ∧
    (tracking world runE).sachetOf 5 = some sach1 ∧ runE.cdw10.toNat % 256 < sachetEntries sach1.image ∧
    sachetEntries sach1.image ≤ (sqe 0x8F 0 1 0 64 [] 0).cdw10.toNat % 256 ∧
    (invoked runE (inJob [])).findInv 0 = some (inJob [], job1, false) :=
  ⟨by decide, by decide, by decide, by decide, by decide, rfl, rfl, ⟨_, _, rfl, rfl⟩, ⟨_, _, rfl, rfl⟩, tracked world runE, by decide,
   by decide, by decide, by decide, by decide, by decide, by decide⟩

theorem witness_QuantumEndCharges : (invoked runE (inJob [])).thr h0 = some (inJob []) ∧ (inJob []).job = some job1 ∧
    (inJob []).steward = false ∧ (∃ k, (invoked runE (inJob [])).track key1 = some k ∧ k.ses = some snap1) :=
  ⟨by decide, rfl, rfl, ⟨_, rfl, rfl⟩⟩

theorem witness_RuntimeServices : Serves (calling 2 []) h0 2 (theCall (calling 2 [])) ∧
    (let c := theCall (calling 1 [])
     Serves (calling 1 []) h0 1 c ∧ ∃ y, ((calling 1 []).svcReturn { c.x with job := some c.j } [(1, 0)]).thr c.x.id = some y ∧ y.job = some job1) ∧
    (let c := theCall (calling 16 [0x100, 64])
     Serves (calling 16 [0x100, 64]) h0 16 c ∧ c.j.esc = none ∧ windowAt c.c c.a (c.w 1) (c.w 2) = some 0x20100 ∧
      windowAt c.c c.a 65536 1 = none ∧ c.j.inPos < c.k.sqe.cdw12.toNat) ∧
    (let c := theCall (calling 48 [0x10000000, 65536])
     Serves (calling 48 [0x10000000, 65536]) h0 48 c ∧ sourceAt c.c c.a c.j (c.w 1) (c.w 2) = some 0x30000 ∧ c.w 2 = 65536 ∧
      sourceAt c.c c.a c.j 0x20000000 1 = none ∧ c.k.sqe.outBytes - c.k.sqe.cdw12.toNat = 131008) ∧
    (let c := theCall (calling 112 [0x30000000, 64, 3])
     Serves (calling 112 [0x30000000, 64, 3]) h0 112 c ∧ sourceAt c.c c.a c.j (c.w 1) (c.w 2) = some 0x10000 ∧ c.w 3 = 3) :=
  ⟨serves (by decide), ⟨serves (by decide), ⟨_, rfl, by decide⟩⟩, ⟨serves (by decide), by decide⟩, ⟨serves (by decide), by decide⟩, ⟨serves (by decide), by decide⟩⟩

theorem witness_RuntimeServices_blocks :
    (let s := callingAs runN (inJob [1023, 0, 1, 0]) 17
     let c := theCall s
     Serves s h0 17 c ∧ s.svcBlocks c = some (ns1, 1023, 1) ∧ windowAt c.c c.a (c.w 4) 4096 = some 0x20000 ∧ c.ses.bits 1 &&& 1 ≠ 0 ∧
      (∀ k, c.ses.bits (k + 2) &&& 1 = 0) ∧ s.scanFits c.ses.qbi ns1.grain = true ∧ (s.nsRun 1).keyLost = false ∧ (s.nsRun 1).ready = true ∧
      (∃ b s2, ((s.chargeScan c.ses.qbi ns1.grain).quotaGrant 2).svcRead ns1 calm 1023 1 = (some b, s2)) ∧
      (s.onQuota 0 fun q => { q with slim := 0 }).scanFits 0 ns1.grain = false) ∧
    (let s := callingAs runN (inJob [1023, 0, 1, 0x10000000]) 18
     let c := theCall s
     Serves s h0 18 c ∧ s.svcBlocks c = some (ns1, 1023, 1) ∧ sourceAt c.c c.a c.j (c.w 4) 4096 = some 0x30000 ∧ c.ses.bits 1 &&& 2 ≠ 0 ∧
      s.writeFits c.ses.qbi 4096 = true ∧ (s.onQuota 0 fun q => { q with wlim := 4095 }).writeFits 0 4096 = false ∧
      ∃ s2, s.writeBlocks ns1 (.inv 0) 0 4097 (1023 * 4096) (s.readMem 0 0x30000 4096) = .ok s2) :=
  ⟨⟨serves (by decide), by decide, by decide, by decide, fun k => by simp [theCall, SesSnap.bits, snap1], by decide, by decide, by decide,
    some_pair (by decide +kernel), by decide⟩, ⟨serves (by decide), by decide, by decide, by decide, by decide, by decide, is_ok (by decide +kernel)⟩⟩

/-- The call of a service with that key loaded. -/
def keyed (n : Nat) (w : List Nat) : State := { calling n w with keys := { slots := [kslot1] } }

/-- The device with a scan of two escalated records, of which the thread serves the first and the second waits. -/
def escalating (w : List Nat) (waits : Bool) : State :=
  let e1 : Esc := { reason := 0, bytes := [1], phase := 1 }
  let e2 : Esc := { reason := 0, bytes := [2] }
  let r : ScanRun := { key := key1, ctx := ⟨[], [], [], 1, 4096, 2⟩, lo := 0, hi := 1, next := 0, rec0 := 0, endG := 1, items := none
                       cur := some ⟨0, zeros 4096, [⟨0, 0, 16, 3, some e1⟩, ⟨1, 16, 16, 3, some e2⟩], 2, none⟩, space := 65536
                       charged := 0, env := calm, mat := none }
  let s := callingAs runE { inJob w with job := some { job1 with esc := some (0, 0) } } 32
  { s with sift := { s.sift with runs := [r] }
           cores := { s.cores with queue := if waits then [⟨0, 5, 2, .esc key1 0 1⟩] else [] } }

theorem witness_EngineServices :
    (let s := keyed 0x40 [5, 0, 0, 0x10000000]
     let c := theCall s
     Serves s h0 0x40 c ∧ c.w 1 % 256 = 5 ∧ windowAt c.c c.a (c.w 4) 16 = some 0x30000 ∧ (∃ n, s.svcKey c 0 [2, 3] = .ok n) ∧
      ∃ n s1, s.takeNonce 0 4 = (some n, s1)) ∧
    (let s := keyed 0x40 [1, 0, 16, 0x10000000]
     let c := theCall s
     Serves s h0 0x40 c ∧ cqOperands c false = some (0x20000, 0x30000, none) ∧ ∃ n, s.svcKey c 0 [2] = .ok n) ∧
    (let s := calling 0x50 [0x11, 0, 3]
     let c := theCall s
     Serves s h0 0x50 c ∧ sourceAt c.c c.a c.j (c.w 2) (c.w 3) = some 0x20000 ∧ bitN (c.w 1) 4 = true ∧ bitN (c.w 1) 5 = false) ∧
    (let s := calling 0x60 [0x141, 0, 3, 0x10000000, 64]
     let c := theCall s
     Serves s h0 0x60 c ∧ c.w 1 % 4 = 1 ∧ bitN (c.w 1) 8 = true ∧ windowAt c.c c.a (c.w 4) (c.w 5) = some 0x30000) ∧
    (let s := calling 0x60 [0x102, 0, 3, 0x10000000, 64]
     let c := theCall s
     Serves s h0 0x60 c ∧ c.w 1 % 4 = 2 ∧ c.w 1 / 16 % 16 = 0 ∧ bitN (c.w 1) 8 = true) ∧
    (Serves (calling 0x20 [1]) h0 0x20 (theCall (calling 0x20 [1])) ∧ (theCall (calling 0x20 [1])).j.esc = none) ∧
    (let s := escalating [1] true
     let c := theCall s
     Serves s h0 0x20 c ∧ c.j.esc = some (0, 0) ∧ c.j.escDone = false ∧
      ((s.onEsc key1 0 0 fun e => { e with phase := 2, keep := true }).nextEsc 0 key1).isSome = true) ∧
    (let s := after (.outPut h0) (calling 48 [0x10000000, 16])
     ∃ t x j w, s.parkedJob 0 = some (t, x, j) ∧ j.wait = some w ∧ s.mirrWaits (.inv 0) = false) :=
  ⟨⟨serves (by decide), by decide, by decide, is_ok (by decide), some_pair (by decide)⟩, ⟨serves (by decide), by decide, is_ok (by decide)⟩, ⟨serves (by decide), by decide⟩,
   ⟨serves (by decide), by decide⟩, ⟨serves (by decide), by decide⟩, ⟨serves (by decide), by decide⟩, ⟨serves (by decide), by decide⟩, ⟨_, _, _, _, rfl, rfl, by decide⟩⟩

/-! ### LMCS messages -/

/-- A request that names the session. -/
def mine (op : Nat) (body : List Byte) : Req := ask box op hd1 body

/-- A create request: class 2, 2 threads, 2 keys, home tile 0, one right. -/
def createB : List Byte := leBytes 1 2 ++ leBytes 1 2 ++ leBytes 1 2 ++ leBytes 1 0 ++ zeros 8 ++ leBytes 1 1 ++ zeros 3 ++ leBytes 2 0x7000

theorem witness_CreateMakesSession : (let q := plain 0x0201 createB
    let s := asked world q
    let b := q.body
    Acts s q 0x0201 none ∧ q.car.fn = some f0 ∧ b.length = 16 + 2 * leAt b 12 1 ∧ zeroAt b 13 3 = true ∧ s.freeSlot (some 0) = some 0 ∧
    (s.sessionsOf f0).length < s.funcLimit f0 4 4 0 ∧ s.rightsGranted f0 [0x7000] = true ∧ (∃ k, s.keyRun 2 = some k) ∧
    s.keysHeld f0 + 2 ≤ s.funcLimit f0 8 2 0 ∧ s.funcLimit f0 1 1 3 ≤ 2 ∧ (∃ r, s.rightsTable 0 f0 [0x7000] none = some r) ∧
    ∃ z, s.quota (s.funcLimit f0 18 2 0) = some z) :=
  ⟨acts (by decide +kernel), by decide, by decide, by decide, by decide +kernel, by decide +kernel, by decide +kernel,
   is_some (by decide +kernel), by decide +kernel, by decide +kernel, is_some (by decide +kernel), is_some (by decide +kernel)⟩

/-- The session as SUSPEND leaves it, and as DESTROY does. -/
def sesIn (st : Nat) : State := { world with ses := { world.ses with sessions := [{ ses1 with state := st }] } }

theorem witness_SessionAndLimitMessages :
    Acts (asked world (mine 0x0202 [])) (mine 0x0202 []) 0x0202 (some ses1) ∧ Acts (asked world (mine 0x0216 [])) (mine 0x0216 []) 0x0216 (some ses1) ∧
    Acts (asked world (mine 0x0203 [])) (mine 0x0203 []) 0x0203 (some ses1) ∧
    (let q := mine 0x0204 (leBytes 1 1 ++ zeros 3 ++ leBytes 2 0x7000)
     Acts (asked world q) q 0x0204 (some ses1) ∧ (asked world q).rightsGranted f0 [0x7000] = true ∧
      ∃ r, (asked world q).rightsTable 0 f0 [0x7000] (some 5) = some r) ∧
    (let q := mine 0x0205 [3, 16, 0, 0]
     Acts (asked world q) q 0x0205 (some ses1) ∧ (asked world q).funcLimit f0 1 1 3 ≤ 3) ∧
    Acts (asked world (mine 0x0214 [])) (mine 0x0214 []) 0x0214 (some ses1) ∧
    Acts (asked (sesIn 2) (mine 0x0215 [])) (mine 0x0215 []) 0x0215 (some { ses1 with state := 2 }) ∧
    (let q := plain 0x0206 (zeros 8)
     Acts (asked world q) q 0x0206 none ∧ q.car.fn = some (funcOf 0)) ∧
    (let q := plain 0x0210 func1.bytes
     Acts (asked world q) q 0x0210 none ∧ leAt q.body 10 2 ≠ 0 ∧ zeroAt q.body 20 4 = true ∧ grantsOk q.body = true ∧
      (asked world q).cinch.pending = false ∧ (asked world q).cinch.retained = false) ∧
    (let q := plain 0x0212 (leBytes 2 8191 ++ zeros 34)
     Acts (asked world q) q 0x0212 none ∧ leAt q.body 0 2 = 8191) ∧
    (let q := plain 0x0211 (zeros 4)
     Acts (asked world q) q 0x0211 none ∧ (asked world q).funcDef (funcOf 0) = some func1.bytes) ∧
    (let q := plain 0x0213 (zeros 4)
     Acts (asked world q) q 0x0213 none ∧ (asked world q).isOwner q.car = true ∧ ((asked world q).quota 0).isSome = true) ∧
    (world.quota 0).map (fun z => z.period) = some 1 ∧ (sesIn 3).sessionAt 5 = some { ses1 with state := 3 } :=
  ⟨acts (by decide +kernel), acts (by decide +kernel), acts (by decide +kernel), ⟨acts (by decide +kernel), by decide +kernel,
   is_some (by decide +kernel)⟩, ⟨acts (by decide +kernel), by decide +kernel⟩, acts (by decide +kernel), acts (by decide +kernel),
   ⟨acts (by decide +kernel), by decide +kernel⟩, ⟨acts (by decide +kernel), by decide +kernel⟩, ⟨acts (by decide +kernel), by decide +kernel⟩,
   ⟨acts (by decide +kernel), by decide +kernel⟩, ⟨acts (by decide +kernel), by decide +kernel⟩, by decide +kernel⟩

/-- A FIXED layout of 16-byte records with one field of type 1 at offset 0. -/
def lay1 : List Byte := [1, 0, 1, 0] ++ leBytes 4 16 ++ zeros 24 ++ [1, 0, 0, 0, 0, 0, 0, 0]

/-- A FILTER image of one term, equal to zero, on that layout. -/
def img1 : List Byte := [1, 1, 1, 1] ++ leBytes 2 60 ++ [0, 0] ++ leBytes 8 (layoutId lay1) ++ List.replicate 16 0xFF ++ [1, 0, 0, 0] ++
  [1, 0, 0, 0, 0, 0, 0, 0] ++ zeros 16

/-- The session with that layout, that image in slot 0 and a set in slot 2. -/
def sifting : State :=
  { world with sift := { slots := [{ snum := 5, layouts := [(0, lay1)], images := [(0, img1)], sets := [(2, 1, zeros 512)] }] } }

/-- Namespace 1 with that layout attached, and with an index declared too. -/
def laid (ix : Bool) : State :=
  { sifting with cfg := { sifting.cfg with body := { sifting.cfg.body with
      layouts := [(1, lay1)], indexes := if ix then [⟨1, 0, leBytes 4 1 ++ [0, 1, 0, 0, 0, 0xFF, 0xFF, 0xFF, 0, 0, 0, 0]⟩] else [] } } }

theorem witness_SiftAndIndexMessages :
    (let q := mine 0x0301 lay1
     Acts (asked world q) q 0x0301 (some ses1) ∧ layoutFault q.body = none ∧
      (asked world q).poolOk ses1 (fun y => y.layouts.length) 16 12 64 2048 = true) ∧
    (let q := mine 0x0301 [2]
     Acts (asked world q) q 0x0301 (some ses1) ∧ (layoutFault q.body).isSome = true) ∧
    (let q := mine 0x0304 ([63, 0, 0, 0, 0, 0, 0, 0] ++ img1)
     Acts (asked sifting q) q 0x0304 (some ses1) ∧
      imageFault (q.body.drop 8) ((asked sifting q).layoutFor ses1 (leAt (q.body.drop 8) 8 8)) [2] true = none ∧
      kvGet 63 ((asked sifting q).slotsOf 5).images = none ∧ (asked sifting q).poolOk ses1 (fun y => y.images.length) 64 14 256 4096 = true) ∧
    (let q := mine 0x0304 ([63, 0, 0, 0, 0, 0, 0, 0] ++ zeros 32)
     Acts (asked sifting q) q 0x0304 (some ses1) ∧ (imageFault (q.body.drop 8) none [2] true).isSome = true) ∧
    (let q := mine 0x0305 (zeros 8)
     Acts (asked sifting q) q 0x0305 (some ses1) ∧ (kvGet 0 ((asked sifting q).slotsOf 5).images).isSome = true) ∧
    (let q := mine 0x0306 ([15, 4] ++ zeros 6 ++ zeros 512)
     Acts (asked sifting q) q 0x0306 (some ses1) ∧ kvGet 15 ((asked sifting q).slotsOf 5).sets = none ∧
      (asked sifting q).poolOk ses1 (fun y => y.sets.length) 16 16 64 1024 = true) ∧
    (let q := mine 0x0307 ([2] ++ zeros 7)
     Acts (asked sifting q) q 0x0307 (some ses1) ∧ (imgSets img1).contains 2 = false ∧ (imgSets (patch img1 36 [10])).contains 0 = true) ∧
    (let q := mine 0x0308 (zeros 8)
     Acts (asked sifting q) q 0x0308 (some ses1) ∧ kvGet 0 ((asked sifting q).slotsOf 5).layouts = some lay1) ∧
    Acts (asked sifting (mine 0x0309 [])) (mine 0x0309 []) 0x0309 (some ses1) :=
  ⟨⟨acts (by decide +kernel), by decide +kernel⟩, ⟨acts (by decide +kernel), by decide +kernel⟩, ⟨acts (by decide +kernel), by decide +kernel⟩,
   ⟨acts (by decide +kernel), by decide +kernel⟩, ⟨acts (by decide +kernel), by decide +kernel⟩, ⟨acts (by decide +kernel), by decide +kernel⟩,
   ⟨acts (by decide +kernel), by decide +kernel⟩, ⟨acts (by decide +kernel), by decide +kernel⟩, acts (by decide +kernel)⟩

theorem witness_SiftAndIndexMessages_store :
    (let q := mine 0x0302 (leBytes 4 1 ++ zeros 4)
     let s := asked sifting q
     Acts s q 0x0302 (some ses1) ∧ bitN (s.liveRights ses1 1) 1 = true ∧ s.nsOf 1 = some ns1 ∧ s.nsLayout 1 = none ∧ s.nsEmpty 1 = true ∧
      layKind lay1 = 0) ∧
    (let q := mine 0x0303 (leBytes 4 1 ++ zeros 4)
     let s := asked (laid false) q
     Acts s q 0x0303 (some ses1) ∧ (s.nsLayout 1).isSome = true ∧ s.indexDecl 1 = none) ∧
    (let q := mine 0x030A (leBytes 4 1 ++ [0, 1, 0, 0, 0, 0xFF, 0xFF, 0xFF, 0, 0, 0, 0])
     let s := asked (laid false) q
     Acts s q 0x030A (some ses1) ∧ declFault (s.nsLayout 1) q.body = none) ∧
    (let q := mine 0x030B (leBytes 4 1 ++ zeros 4)
     Acts (asked (laid true) q) q 0x030B (some ses1) ∧ ((asked (laid true) q).indexDecl 1).isSome = true) ∧
    (let q := mine 0x030C (leBytes 4 1 ++ zeros 4)
     Acts (asked (laid true) q) q 0x030C (some ses1) ∧ bitN ((asked (laid true) q).liveRights ses1 1) 2 = true) :=
  ⟨⟨acts (by decide +kernel), by decide +kernel⟩, ⟨acts (by decide +kernel), by decide +kernel⟩, ⟨acts (by decide +kernel), by decide +kernel⟩,
   ⟨acts (by decide +kernel), by decide +kernel⟩, ⟨acts (by decide +kernel), by decide +kernel⟩⟩

/-- A sachet image that seals: one entry, 64 bytes of code, its digest in the header. -/
def sealed : List Byte :=
  let head : List Byte := [0x53, 0x41, 0x43, 0x48, 1, 0, 1, 0xFF] ++ leBytes 4 64 ++ zeros 8 ++ leBytes 4 4096 ++ zeros 4 ++ leBytes 4 50
  let rest : List Byte := zeros 64 ++ zeros 64
  head ++ sachetDigest (head ++ zeros 32 ++ rest) ++ rest

/-- The session with no sachet and an image staged. -/
def staged (m : List Byte) : State := { world with cores := { staged := [(5, m)] } }

theorem witness_SachetMessages :
    (let q := mine 0x0401 (leBytes 4 524415 ++ zeros 4 ++ [7])
     Acts (asked world q) q 0x0401 (some ses1) ∧ leAt q.body 0 4 + (q.body.drop 8).length = 524416) ∧
    (let q := mine 0x0402 (zeros 8)
     let s := asked (staged sealed) q
     Acts s q 0x0402 (some ses1) ∧ s.sachetOf 5 = none ∧ s.stagedOf 5 = some sealed ∧ sachetFault sealed = none ∧
      sachetDigest sealed = slice 32 32 sealed ∧ sachetDigest (patch sealed 32 [0, 0]) ≠ slice 32 32 (patch sealed 32 [0, 0]) ∧
      (sachetFault [0x53]).isSome = true ∧ (s.placeImage sealed 5).isSome = true) ∧
    (let q := mine 0x0403 (zeros 8)
     Acts (asked world q) q 0x0403 (some ses1) ∧ ((asked world q).sachetOf 5).isSome = true ∧ ses1.outst = 0) ∧
    (let s := asked (world.onSession 5 fun y => { y with outst := 1 }) (mine 0x0403 (zeros 8))
     Acts s (mine 0x0403 (zeros 8)) 0x0403 (some { ses1 with outst := 1 })) ∧
    (let q := mine 0x0404 []
     Acts (asked world q) q 0x0404 (some ses1) ∧ (asked world q).sachetOf 5 = some sach1 ∧ 128 ≤ sach1.image.length) :=
  ⟨⟨acts (by decide +kernel), by decide +kernel⟩, ⟨acts (by decide +kernel), by decide +kernel⟩, ⟨acts (by decide +kernel), by decide +kernel⟩,
   acts (by decide +kernel), ⟨acts (by decide +kernel), by decide +kernel⟩⟩

/-- Slot 10 as the key that wraps, and slot 4 as `k`. -/
def wrapping (k : KeySlot) : State := { world with keys := { slots := [⟨10, 2 + 64, zeros 32, 0⟩, k], kw := List.replicate 8 0 } }

theorem witness_KeyPath : State.reset.keysLocked = false ∧ (State.reset.flag .sec 0x044 5).keysLocked = true ∧
    (let s := State.reset.wr .sec 0x024 0xFF00
     s.rdField .sec 0x024 15 8 = 0xFF ∧ (s.keySlot 8191).state = 0 ∧ attrOk 8191 0x204 = true) ∧
    (let s := { State.reset.wr .sec 0x024 0xFF00 with keys := { slots := [⟨0, 0x285, zeros 32, 0⟩], kw := List.replicate 8 0 } }
     (s.keySlot 0).state = 1 ∧ (s.keySlot 0).slot = 0 ∧ s.keysLocked = false) ∧
    (let s := wrapping kslot1
     s.keysLocked = false ∧ (s.keySlot 10).state = 2 ∧ (s.keySlot 10).use 6 = true ∧ (s.keySlot 4).state = 2 ∧ (s.keySlot 5).state = 0) ∧
    ∀ blob, keyUnwrap (zeros 32) blob = none ∨ ∃ b, keyUnwrap (zeros 32) blob = some b :=
  ⟨by decide +kernel, by decide +kernel, by decide +kernel, by decide +kernel, by decide +kernel, fun blob => by
    cases keyUnwrap (zeros 32) blob with
    | none => exact .inl rfl
    | some b => exact .inr ⟨b, rfl⟩⟩

theorem witness_KeyMessages :
    (let q := mine 0x0501 ([1, 4, 32, 0, 0, 0, 0, 0] ++ zeros 32)
     Acts (asked world q) q 0x0501 (some ses1) ∧ useLenOk 4 32 = true ∧ 1 < ses1.kcnt ∧ (asked world q).keysLocked = false ∧
      ((asked world q).keySlot 5).state = 0) ∧
    Acts (asked world (mine 0x0501 ([2, 4, 32, 0, 0, 0, 0, 0] ++ zeros 32))) (mine 0x0501 ([2, 4, 32, 0, 0, 0, 0, 0] ++ zeros 32)) 0x0501 (some ses1) ∧
    (let q := mine 0x0502 [1, 0, 4, 64, 0, 0, 0, 0, 9]
     let s := asked (wrapping { kslot1 with attr := kslot1.attr + 32 }) q
     Acts s q 0x0502 (some ses1) ∧ useLenOk 4 64 = true ∧ (s.keySlot 5).state = 0 ∧ (s.keySlot 4).state = 2 ∧ (s.keySlot 4).use 5 = true) ∧
    (let q := mine 0x0503 (zeros 8)
     Acts (asked (wrapping kslot1) q) q 0x0503 (some ses1) ∧ ((asked (wrapping kslot1) q).keySlot 4).state = 2) ∧
    Acts (asked (wrapping kslot1) (mine 0x0504 (zeros 8))) (mine 0x0504 (zeros 8)) 0x0504 (some ses1) ∧
    (let q := plain 0x0510 (leBytes 4 1 ++ zeros 4)
     let s := asked (wrapping ⟨20, 2 + 16 + 256, zeros 64, 0⟩) q
     Acts s q 0x0510 none ∧ (s.nsKeySlot 1).isSome = true ∧ ∃ n ∈ s.cfg.body.namespaces, n.nsid = leAt q.body 0 4) ∧
    Acts (asked world (plain 0x0511 [])) (plain 0x0511 []) 0x0511 none :=
  ⟨⟨acts (by decide +kernel), by decide +kernel⟩, acts (by decide +kernel), ⟨acts (by decide +kernel), by decide +kernel⟩,
   ⟨acts (by decide +kernel), by decide +kernel⟩, acts (by decide +kernel), ⟨acts (by decide +kernel), by decide +kernel⟩, acts (by decide +kernel)⟩

theorem witness_AdmissionOrder :
    (let q := mine 0x0203 []
     let s := asked world q
     q.msg.length ≤ q.msg.payload.length ∧ q.msg.length ≤ q.car.limit ∧ s.inRecovery = false ∧
      (∀ d, opSpec 0x0203 = some d → s.roleOk q d.role = true ∧ d.sess = true) ∧ s.waiting q = true) ∧
    ({ world with boot := { world.boot with recovery := true } }).inRecovery = true ∧ recoveryOp 0x0203 = false ∧ recoveryOp 0x0101 = true ∧
    opSpec 0x0400 = none ∧ (∀ d, opSpec 0x0901 = some d → world.roleOk (plain 0x0901 []) d.role = false) ∧
    (asked world (ask box 0x0203 0 [])).namedSession (ask box 0x0203 0 []) = none ∧ (mine 0x0101 []).msg.session ≠ 0xFFFFFFFF ∧
    (∃ d, opSpec 0x0502 = some d ∧ d.hi = some 264) ∧ (zeros 2032).length ≤ box.limit ∧ box.respLimit = 2016 ∧
    ((asked world (plain 0x0101 [1])).admission (plain 0x0101 [1])).toBool = false :=
  ⟨by decide +kernel, by decide +kernel, by decide +kernel, by decide +kernel, by decide +kernel, by decide +kernel, by decide +kernel,
   by decide +kernel, ⟨_, rfl, rfl⟩, by decide +kernel, rfl, by decide +kernel⟩

/-- A mailbox at work. -/
def boxIn (st : BitVec 2) : State := world.onBox f0 3 fun b => { b with state := st, curSeq := 6 }

theorem witness_MailboxAndQueries :
    ((boxIn 1).boxOpen f0 3 = true ∧ ((boxIn 1).mailbox f0 3).state = 1) ∧
    ((boxIn 2).boxOpen f0 3 = true ∧ ((boxIn 2).mailbox f0 3).curSeq + 1 = 7) ∧
    (let s := boxIn 1
     ({ s with lmcs := { s.lmcs with done := [⟨plain 0x0101 [], 0, []⟩] } } : State).lmcs.done.find? (fun r => r.req.car == .mailbox f0 3) =
      some ⟨plain 0x0101 [], 0, []⟩) ∧
    Acts (asked world (plain 0x0101 [])) (plain 0x0101 []) 0x0101 none ∧
    Acts (asked world (plain 0x0102 ([7] ++ zeros 7))) (plain 0x0102 ([7] ++ zeros 7)) 0x0102 none ∧
    (let q := plain 0x0901 (leBytes 2 4 ++ zeros 6)
     Acts (asked world q) q 0x0901 none ∧ ((asked world q).paramSpec 4 0).map (fun d => (d.lo, d.hi)) = some (0, 0)) ∧
    Acts (asked world (plain 0x0905 (zeros 8))) (plain 0x0905 (zeros 8)) 0x0905 none ∧
    Acts (asked world (plain 0x0906 [])) (plain 0x0906 []) 0x0906 none ∧
    Acts (asked world (plain 0x0907 (leBytes 4 0 ++ leBytes 4 64))) (plain 0x0907 (leBytes 4 0 ++ leBytes 4 64)) 0x0907 none ∧
    (let q := plain 0x0A01 (leBytes 4 0x60000000 ++ leBytes 2 1 ++ zeros 2)
     Acts (asked world q) q 0x0A01 none) ∧
    (let q := plain 0x0A02 (leBytes 4 0x60000000 ++ leBytes 2 1 ++ zeros 6)
     Acts (asked world q) q 0x0A02 none ∧ q.body.length = 8 + 4 * leAt q.body 4 2) ∧
    world.windowRefuses (leBytes 4 (regAddr .glb 0) ++ leBytes 2 128 ++ zeros 2) = none ∧
    world.windowRefuses (leBytes 4 (regAddr .glb 0) ++ leBytes 2 129 ++ zeros 2) = some 2 ∧
    world.windowHidden (regAddr .sec 0x44) 1 = true :=
  ⟨by decide +kernel, by decide +kernel, by decide +kernel, acts (by decide +kernel), acts (by decide +kernel),
   ⟨acts (by decide +kernel), by decide +kernel⟩, acts (by decide +kernel), acts (by decide +kernel), acts (by decide +kernel),
   acts (by decide +kernel), ⟨acts (by decide +kernel), by decide +kernel⟩, by decide +kernel, by decide +kernel, by decide +kernel⟩

/-- The package with a parameter of this mailbox pending. -/
def pend1 : State := { world with lmcs := { world.lmcs with pending := [(box, 7, 0, 95)] } }

/-- The state with a request in progress, in which values are pending too. -/
def askedIn (s : State) (q : Req) : State := { asked s q with lmcs := { (asked s q).lmcs with pending := s.lmcs.pending } }

theorem witness_ConfigurationMessages :
    (let q := plain 0x0902 (leBytes 2 1 ++ zeros 6 ++ leBytes 2 7 ++ zeros 2 ++ leBytes 2 1 ++ zeros 2 ++ [95] ++ zeros 7)
     Acts (asked world q) q 0x0902 none ∧ stageEntries 1 (q.body.drop 8) = some [(7, 0, 1, 95, true)] ∧
      world.stageFault 0 [(7, 0, 1, 95, true)] = none ∧ world.stageFault 0 [(7, 0, 1, 96, true)] = some (0, 2)) ∧
    Acts (asked world (plain 0x0904 (zeros 8))) (plain 0x0904 (zeros 8)) 0x0904 none ∧
    Acts (asked world (plain 0x0903 (zeros 8))) (plain 0x0903 (zeros 8)) 0x0903 none ∧
    (let q := plain 0x0903 (zeros 8)
     let s := asked pend1 q
     Acts s q 0x0903 none ∧ (s.lmcs.pending.filter fun p => p.1.same q.car).length = 1 ∧ s.cfg.imported = none ∧
      (s.cinch.pending || s.cinch.retained) = false ∧
      (s.cinchGo.cinch.pending || s.cinchGo.cinch.retained) = true) ∧
    Acts (asked world (plain 0x0908 (zeros 8))) (plain 0x0908 (zeros 8)) 0x0908 none ∧
    (let q := plain 0x0908 (leBytes 4 1 ++ zeros 4 ++ [9])
     let s := asked { world with cfg := { world.cfg with loss := true } } q
     Acts s q 0x0908 none ∧ s.cfg.loss = true ∧ (s.takePart q).toBool = true) ∧
    (let h := leBytes 4 0x47464E43 ++ [1] ++ zeros 23
     let d := h ++ leBytes 4 (crc32c h).toNat
     copyChecks (d ++ shake256 d 32) = true) :=
  ⟨⟨acts (by decide +kernel), by decide +kernel⟩, acts (by decide +kernel), acts (by decide +kernel), ⟨acts (by decide +kernel), by decide +kernel⟩,
   acts (by decide +kernel), ⟨acts (by decide +kernel), by decide +kernel⟩, by decide +kernel⟩

theorem witness_CinchRule : (world.cinch.pending || world.cinch.retained) = false ∧ world.cinchGo.cinch.pending = true ∧
    world.cinchAsks [0] 0 = true ∧ world.cinchAsks [8] 8 = true ∧
    (let s := { world.cinchGo with cinch := { world.cinchGo.cinch with mask := BitVec.allOnes 52 ^^^ BitVec.twoPow 52 51 } }
     s.cinch.mask.getLsbD 51 = false ∧ s.cinch.mask ||| BitVec.twoPow 52 51 = BitVec.allOnes 52 ∧ s.cfg.commit = none ∧ s.lmcs.started = []) ∧
    (∃ i : Fin 52, world.cinchGo.cinch.mask.getLsbD i.val = false ∧
      world.cinchGo.cinch.mask ||| BitVec.twoPow 52 i.val ≠ BitVec.allOnes 52) := by decide +kernel

theorem witness_RegisterWriteRule :
    blockAt world.n 0x20000300 = some (.glb, 0x300) ∧ world.blockOn .glb = true ∧ world.drainBusy .glb 0x300 = false ∧
    blockAt world.n (regAddr (.mem 0) 0x01C) = some (.mem 0, 0x01C) ∧ world.blockOn (.mem 0) = true ∧
    (∃ d, Block.desc (.mem 0) 0x01C = some d ∧ d.acc = .w1c) ∧ (∃ d, Block.desc (.mem 0) 0x014 = some d ∧ d.acc = .rw) ∧
    (∃ d, Block.desc (.mem 0) 0x038 = some d ∧ d.acc = .ro) ∧ (world.commandWrite .package (.mem 0) 0x014 7).isNone = true ∧
    (world.commandWrite .package (.mem 0) 0x01C 7).isNone = true ∧ State.reset.blockOn (.core 0) = false ∧
    blockAt world.n (regAddr .sec 0x044) = some (.sec, 0x044) ∧ stewardOf 0 = .package ∧ stewardOf 1 ≠ .package ∧
    blockAt world.n 0x10000000 = none ∧ world.arrayWord 0x10000000 = none ∧
    (let s := world.onTileAt 0 fun x => { x with flash := { x.flash with inflight := [⟨0, 0, 1, [], 0, 0, 0, 0, 0, 0⟩] } }
     s.drainBusy (.fch 0 0) 0x008 = true) ∧
    State.reset.rd .glb 0x120 % 8 = 0 ∧ (State.reset.wr .glb 0x120 4).rd .glb 0x120 % 8 ≠ 0 := by
  refine ⟨by decide, by decide, by decide, by decide, by decide, ⟨_, rfl, rfl⟩, ⟨_, rfl, rfl⟩, ⟨_, rfl, rfl⟩, by decide +kernel, by decide +kernel,
    by decide, by decide, by decide, by decide, by decide, by decide, by decide +kernel, by decide +kernel, by decide +kernel⟩

/-- An SPDM request. -/
def spdm (p : List Byte) : Req := plain 0x0830 p

/-- The package with this mailbox's SPDM connection at a stage. -/
def spdmAt (n : Nat) : State :=
  { world with fuses := { world.fuses with chain := zeros 100 }
               ident := { world.ident with spdm := [{ car := box, stage := n, dts := 4096, large := some (7, zeros 3000, 1), deferred := some (1, 2, [9]) }] } }

theorem witness_ReportsAndSpdm :
    (let q := plain 0x0701 (zeros 12)
     Acts (asked world q) q 0x0701 none ∧ at1 q.body 3 = 0 ∧ (asked world q).isOwner q.car = true) ∧
    (let q := plain 0x0701 ([1] ++ zeros 11)
     Acts (asked world q) q 0x0701 none ∧ (∃ c ∈ (asked world q).host.ctrls, leAt q.body 1 2 = c.fn.port.val * 32768 + c.fn.num.val)) ∧
    (let q := ask (.mailbox f0 4) 0x0701 0xFFFFFFFF ([1, 1] ++ zeros 10)
     Acts (asked world q) q 0x0701 none ∧ (asked world q).isOwner q.car = false ∧ q.car.fn = some f0 ∧ leAt q.body 1 2 ≠ 0) ∧
    Acts (asked world (plain 0x0702 [8])) (plain 0x0702 [8]) 0x0702 none ∧ Acts (asked world (plain 0x0702 [3])) (plain 0x0702 [3]) 0x0702 none ∧
    world.hasTile 7 = true ∧ world.hasTile 8 = false ∧ ({ world with fuses := { world.fuses with part := .ltr2032 } } : State).hasTile 7 = false ∧
    world.param 2 0 0 = 0 ∧ ({ world with cfg := { world.cfg with body := { world.cfg.body with params := [(2, 0, 1)] } } } : State).param 2 0 0 = 1 ∧
    (let s1 := world.wr (.pwr 0) 0x018 841
     s1.tempLimit < s1.composite ∧ bitN world.logs.critical 1 = false) ∧
    (let s := ({ world with logs := { world.logs with critical := 2 } } : State)
     let s1 := s.wr (.pwr 0) 0x018 824
     s1.composite ≤ s1.tempLimit - 16 ∧ bitN s.logs.critical 1 = true) ∧
    (let s1 := world.wr (.pwr 0) 0x018 840
     s1.composite ≤ s1.tempLimit) :=
  ⟨⟨acts (by decide +kernel), by decide +kernel⟩, ⟨acts (by decide +kernel), ctrl0, by decide +kernel⟩, ⟨acts (by decide +kernel), by decide +kernel⟩,
   acts (by decide +kernel), acts (by decide +kernel), by decide +kernel⟩

theorem witness_ReportsAndSpdm_connection :
    (Acts (asked (spdmAt 0) (spdm [0x10, 0x84, 0, 0])) (spdm [0x10, 0x84, 0, 0]) 0x0830 none) ∧
    (let p := [0x13, 0xE1] ++ zeros 10 ++ leBytes 4 42 ++ zeros 4
     Acts (asked (spdmAt 1) (spdm p)) (spdm p) 0x0830 none ∧ (spdm p).body.length = 20 ∧ leAt (spdm p).body 12 4 = 42) ∧
    Acts (asked (spdmAt 2) (spdm ([0x13, 0xE3] ++ zeros 30))) (spdm ([0x13, 0xE3] ++ zeros 30)) 0x0830 none ∧
    Acts (asked (spdmAt 3) (spdm [0x13, 0x81, 0, 0])) (spdm [0x13, 0x81, 0, 0]) 0x0830 none ∧
    (let p : List Byte := [0x13, 0x82, 0, 0] ++ leBytes 2 99 ++ leBytes 2 1
     Acts (asked (spdmAt 3) (spdm p)) (spdm p) 0x0830 none ∧ leAt (spdm p).body 4 2 < (spdmAt 3).fuses.chain.length) ∧
    Acts (asked (spdmAt 3) (spdm ([0x13, 0x83] ++ zeros 42))) (spdm ([0x13, 0x83] ++ zeros 42)) 0x0830 none ∧
    (∀ i ∈ [0, 1, 9, 10, 255], ∀ g ∈ [0, 1], let p : List Byte := [0x13, 0xE0] ++ leBytes 1 g ++ leBytes 1 i ++ zeros 41
      Goes (spdmAt 3) (spdm p) 0x0830 none = true) ∧
    (let p : List Byte := [0x13, 0x86, 0, 7, 1, 0]
     let s := asked (spdmAt 3) (spdm p)
     Acts s (spdm p) 0x0830 none ∧ (s.spdmOf box).large = some (7, zeros 3000, 1)) ∧
    (let p : List Byte := [0x13, 0xFF, 1, 2]
     let s := asked (spdmAt 3) (spdm p)
     Acts s (spdm p) 0x0830 none ∧ (s.spdmOf box).deferred = some (1, 2, [9]) ∧ (s.spdmOf box).stage = 3 ∧ min box.respLimit 4096 = 2016) ∧
    Acts (asked (spdmAt 0) (spdm [0x13, 0, 0, 0])) (spdm [0x13, 0, 0, 0]) 0x0830 none ∧ (spdmAt 3).ident.signing = false :=
  ⟨acts (by decide +kernel), ⟨acts (by decide +kernel), by decide +kernel⟩, acts (by decide +kernel), acts (by decide +kernel),
   ⟨acts (by decide +kernel), by decide +kernel⟩, acts (by decide +kernel), by decide +kernel, ⟨acts (by decide +kernel), by decide +kernel⟩,
   ⟨acts (by decide +kernel), by decide +kernel⟩, acts (by decide +kernel), by decide +kernel⟩

/-- The unit with an owner key in use, a release key, and nonces given to this mailbox. -/
def owned : State :=
  { world with fuses := { world.fuses with owners := [.inUse [1], .free, .free, .free], fwKeys := [([2], false)] }
               lmcs := { world.lmcs with nonces := [(box, zeros 32, 0)], debugNonces := [(box, zeros 32, 0)] } }

/-- A unit whose owner entries are all spent. -/
def spentUnit : State := { world with fuses := { world.fuses with owners := List.replicate 4 .spent } }

/-- A sideband request. -/
def side (op : Nat) (body : List Byte) : Req := ask (.mctp 8) op 0xFFFFFFFF body

/-- A request of the admin queue, which takes 1 MiB, with the owner role there too. -/
def adminAsk (op : Nat) (body : List Byte) : Req := ask (.admin f0 7) op 0xFFFFFFFF body

/-- The state with a request in progress from an instance that holds the platform owner role. -/
def askedBy (s : State) (q : Req) : State := { s with lmcs := { s.lmcs with inFlight := [q], owners := [(q.car, [])] } }

theorem witness_OwnershipAndFirmware_owner :
    Acts (asked world (plain 0x0801 (zeros 8))) (plain 0x0801 (zeros 8)) 0x0801 none ∧
    Acts (asked world (plain 0x0810 [])) (plain 0x0810 []) 0x0810 none ∧
    Acts (asked world (plain 0x0812 [])) (plain 0x0812 []) 0x0812 none ∧
    (let q := adminAsk 0x0811 (zeros 3309)
     (askedBy owned q).waiting q = true ∧ ((askedBy owned q).admission q).toBool = true ∧ ((askedBy owned q).assemble q 3309).toBool = true ∧
      (askedBy owned q).ownerEntry = some (0, [1])) ∧
    ((owned.lmcs.nonces.find? fun x => x.1.same box).isSome = true) ∧ world.ownerEntry = none ∧
    (let q := side 0x0813 (zeros 1952)
     Acts (asked world q) q 0x0813 none ∧ ((asked world q).assemble q 1952).toBool = true ∧ (asked world q).freeOwner = some 0) ∧
    spentUnit.ownerEntry = none ∧ spentUnit.freeOwner = none ∧ owned.freeOwner = some 1 ∧
    (∀ b : List Byte, b.length = 5261 → (askedBy owned (adminAsk 0x0814 b)).waiting (adminAsk 0x0814 b) = true ∧
      ∃ p s1, (askedBy owned (adminAsk 0x0814 b)).assemble (adminAsk 0x0814 b) 5261 = .ok (p, s1)) :=
  ⟨acts (by decide +kernel), acts (by decide +kernel), acts (by decide +kernel), by decide +kernel, by decide +kernel, by decide +kernel,
   ⟨acts (by decide +kernel), by decide +kernel⟩, by decide +kernel, by decide +kernel, by decide +kernel,
   fun b h => ⟨by simp [State.waiting, adminAsk, ask, askedBy],
    ⟨_, _, by simp [State.assemble, adminAsk, ask, Carrier.limit, Req.body, h]; exact ⟨rfl, rfl⟩⟩⟩⟩

/-- The package with a staging area of this mailbox that holds a whole image of no payload, all zeros. -/
def staging : State :=
  { world with ident := { world.ident with staging := some ⟨box, zeros 8192, [(0, 8192)], 0⟩, slot := some 0 } }

theorem witness_OwnershipAndFirmware_firmware :
    (let q := plain 0x0820 (leBytes 4 8396799 ++ zeros 4 ++ [1])
     Acts (asked world q) q 0x0820 none ∧ leAt q.body 0 4 + (q.body.drop 8).length = 8396800) ∧
    (let q := plain 0x0820 (leBytes 4 8396800 ++ zeros 4 ++ [1])
     Acts (asked world q) q 0x0820 none ∧ 8396800 < leAt q.body 0 4 + (q.body.drop 8).length) ∧
    (let q := plain 0x0820 (zeros 9)
     Acts (asked staging q) q 0x0820 none ∧ Carrier.same box box = true ∧ Carrier.same box (.mctp 8) = false) ∧
    (let q := plain 0x0821 ([2] ++ zeros 7)
     Acts (asked staging q) q 0x0821 none ∧ (∃ m, (asked staging q).stagedImage box = some m ∧
      (asked staging q).imageStep m = some 1) ∧ (asked staging q).ident.slot = some 0) ∧
    Acts (asked world (plain 0x0822 [])) (plain 0x0822 []) 0x0822 none ∧ Acts (asked world (plain 0x0823 [])) (plain 0x0823 []) 0x0823 none ∧
    min 128 (at1 world.ident.image 6) ≤ world.fuses.rollback ∧
    world.fuses.rollback < min 128 (at1 ({ world.ident with image := zeros 6 ++ [200] } : Identity).image 6) :=
  ⟨⟨acts (by decide +kernel), by decide +kernel⟩, ⟨acts (by decide +kernel), by decide +kernel⟩, ⟨acts (by decide +kernel), by decide +kernel⟩,
   ⟨acts (by decide +kernel), ⟨_, rfl, by decide +kernel⟩, by decide +kernel⟩, acts (by decide +kernel), acts (by decide +kernel),
   by decide +kernel, by decide +kernel⟩

/-- A debug token of this unit with the nonce, for a key's scope 1. -/
def token (signer : Nat) : List Byte := leBytes 4 0x4742444C ++ leBytes 1 signer ++ [1] ++ zeros 10 ++ zeros 16 ++ zeros 32

theorem witness_DebugAndAlarms :
    Acts (asked world (plain 0x0840 [])) (plain 0x0840 []) 0x0840 none ∧
    (∀ k ∈ [0, 1], let q := side 0x0841 (token k ++ zeros 3309)
     Goes owned q 0x0841 none = true ∧ ((asked owned q).assemble q 3373).toBool = true ∧ leAt q.body 0 4 = 0x4742444C ∧ at1 q.body 5 < 8 ∧
      zeroAt q.body 6 10 = true ∧ slice 16 16 q.body = fit 16 (asked owned q).fuses.uid) ∧
    slice 16 16 (patch (token 0) 16 [9]) ≠ fit 16 owned.fuses.uid ∧ (∃ n, (owned.lmcs.debugNonces.find? fun x => x.1.same box) = some n ∧
      n.2.1 = slice 32 32 (token 0)) ∧ ([2], false) ∈ owned.fuses.fwKeys ∧ owned.ownerEntry = some (0, [1]) :=
  ⟨acts (by decide +kernel), by decide +kernel, by decide +kernel, ⟨_, rfl, by decide +kernel⟩, by decide +kernel, by decide +kernel⟩

/-! ### The mirror pair -/

/-- The package bound to a peer, with namespace 1 mirrored as primary or secondary and the link in a state. -/
def paired (prim : Bool) (link : Nat) : State :=
  let s := { world with cfg := { world.cfg with body := { world.cfg.body with
      pair := some ⟨zeros 16, zeros 24⟩, mirrors := [⟨1, prim, 0⟩] } } }
  s.wr .rein 0x004 link

/-- The same without a role for the namespace. -/
def bound (link : Nat) : State := ({ paired true link with cfg := { world.cfg with body := { world.cfg.body with pair := some ⟨zeros 16, zeros 24⟩ } } })

/-- A request about namespace 1. -/
def nsAsk (op : Nat) (rest : List Byte) : Req := plain op (leBytes 4 1 ++ rest)

/-- A request of the pair family on a package. -/
def Pairs (s : State) (op : Nat) (body : List Byte) : Bool := Goes s (plain op body) op none

theorem witness_MirrorMessages :
    (∀ op ∈ [0x0604, 0x0605, 0x0606, 0x0607, 0x0608], Pairs world op (leBytes 4 1 ++ zeros 4) = true ∧ Pairs (paired true 0) op (leBytes 4 1 ++ zeros 4) = true) ∧
    (∀ op ∈ [0x0601, 0x0603, 0x0609], Pairs world op [] = true ∧ Pairs (paired true 0) op [] = true) ∧
    Pairs world 0x0602 (zeros 24) = true ∧ world.boot.pairEn = true ∧ world.cfg.body.pair = none ∧ State.reset.boot.pairEn = false ∧ world.link = 0 ∧
    (world.storeWrite true { world.cfg.body with pair := some ⟨zeros 16, zeros 24⟩ }).isSome = true ∧
    (bound 3).link = 3 ∧ (bound 0).cfg.body.pair.isSome = true ∧ ((bound 3).nsOf 1).isSome = true ∧
    ((bound 3).onMirrNs 1 fun x => { x with peerPrim := some true }).mirrNs 1 = { nsid := 1, peerPrim := some true } ∧
    (paired true 0).mirrorDef 1 = some ⟨1, true, 0⟩ ∧ (paired false 3).mirrorDef 1 = some ⟨1, false, 0⟩ ∧ (bound 0).mirrorDef 1 = none ∧
    (paired false 0).link = 0 ∧ (paired true 0).mirror.out = [] ∧ (paired true 0).mirror.voids = [] ∧
    (((paired false 0).onMirrNs 1 fun x => { x with split := 1 }).mirrNs 1).split ≠ 0 ∧ ((paired true 0).mirrNs 1).split = 0 ∧
    (bound 0).power.on.contains (1, 5) = true ∧ ({ bound 0 with power := State.reset.power } : State).power.on.contains (1, 5) = false := by
  decide +kernel

/-- A frame that the receiver of `paired` takes. -/
def frame (payload : List Byte) : Frame := { flags := 0, seq := 0, ack := 0, epoch := 0, payload := payload }

/-- What `Takes` asks of the package for that frame. -/
def Taking (s : State) : Bool := decide ((s.link = 2 ∨ s.link = 3) ∧ 0 = s.rd .rein 0x00C ∧ 0 = s.rd .rein 0x018)

theorem takes {s : State} (h : Taking s = true) (payload : List Byte) : Takes s (frame payload) := by
  obtain ⟨a, b, c⟩ := of_decide_eq_true h
  exact ⟨a, b, by simp [frame], c⟩

/-- A secondary that takes the data of a change of 4 bytes. -/
def receiving (rej : Bool) : State :=
  let p : MirrPend := { nsid := 1, mseq := 5, term := 1, slba := 0, nlb := 1, op := 1, fua := false, dbytes := 4, reject := rej }
  let s := paired false 3
  { s with mirror := { s.mirror with pend := [p], rein := { s.mirror.rein with cur := some (1, 5) } } }

/-- A primary with a change forwarded and one withdrawn. -/
def forwarding : State :=
  let s := paired true 3
  { s with mirror := { s.mirror with out := [⟨1, 1, 5, 6, 0, .resend, false, [], false⟩], voids := [⟨1, 7, .resend, .peerUnavailable⟩] } }

theorem witness_FrameEffects : Taking (paired true 3) = true ∧ Taking (paired false 3) = true ∧ Taking (receiving false) = true ∧
    Taking forwarding = true ∧ (paired true 0).link ≠ 2 ∧ (paired true 0).link ≠ 3 ∧ (paired true 3).mirror.rein.rxFail ≠ some 0 ∧
    (0 + 2 ^ 32 - 1) % 2 ^ 32 ≥ 2 ^ 31 ∧ (0 + 2 ^ 32 - (2 ^ 32 - 1)) % 2 ^ 32 < 2 ^ 31 ∧
    ((paired true 3).taken (frame []) false).mirrorDef 1 = some ⟨1, true, 0⟩ ∧ ((paired false 3).taken (frame []) false).mirrorDef 2 = none ∧
    ((paired false 3).taken (frame []) false).mirrorDef 1 = some ⟨1, false, 0⟩ ∧ ((paired false 3).taken (frame []) false).link = 3 ∧
    (((paired false 3).taken (frame []) false).mirrNs 1).split = 0 ∧ ((paired false 3).taken (frame []) true).mirror.rein.cur = none ∧
    (let d := (receiving false).taken (frame [1, 2, 3, 4]) true
     d.mirror.rein.cur = some (1, 5) ∧ (d.mirror.pend.find? fun y => y.nsid == 1 && y.mseq == 5).map (fun p => (p.reject, p.dbytes, p.data.length)) =
      some (false, 4, 0)) ∧
    (forwarding.taken (frame []) false).outAt 1 5 = some ⟨1, 1, 5, 6, 0, .resend, false, [], false⟩ ∧
    (forwarding.taken (frame []) false).outAt 1 8 = none ∧
    ((forwarding.taken (frame []) false).mirror.voids.find? fun v => v.nsid == 1 && v.mseq == 7) = some ⟨1, 7, .resend, .peerUnavailable⟩ ∧
    at1 (leBytes 4 1 ++ [1, 0, 0, 0] : List Byte) 4 = 1 := by decide +kernel

/-- The link in a state, with its lanes in theirs. -/
def lanes (link lane : Nat) : State := (List.range 10).foldl (fun s i => s.wr .rein (0x104 + 0x20 * i) lane) (paired true link)

theorem witness_LinkAndTimers :
    ((bound 0).boot.pairEn = true ∧ (bound 0).cfg.body.pair.isSome = true ∧ (bound 0).boot.reached11 = true ∧ (bound 0).hasTile 1 = true ∧
      (bound 0).link = 0 ∧ (bound 4).link = 4 ∧ (bound 1).link = 1) ∧
    ((lanes 1 1).link = 1 ∧ (∀ i, i < 10 → (lanes 1 1).rd .rein (0x104 + 0x20 * i) = 1) ∧ (lanes 1 1025).rd .rein (0x104 + 0x20 * 9) = 1025) ∧
    (let b := [1] ++ zeros 39 ++ zeros 16 ++ zeros 33
     let t := (paired true 2).taken (frame b) false
     Taking (paired true 2) = true ∧ at1 b 0 = 1 ∧ (t.cfg.body.pair.map fun p => fit 16 p.peer) = some (slice 40 16 b)) ∧
    ((paired true 2).taken (frame []) false).mirror.rein.peer = none ∧
    (((paired true 2).onRein fun r => { r with peer := some ([], [], [], 0) }).taken (frame []) false).mirror.rein.peer = some ([], [], [], 0) ∧
    (((paired true 3).onRein fun r => { r with step := some ⟨1, 0, 1, false⟩ }).taken (frame []) false).mirror.rein.step = some ⟨1, 0, 1, false⟩ ∧
    ((paired true 3).mirror.rein.step = none ∧ (paired true 3).mirror.rein.relock = none ∧ (paired true 3).rdField .rein 0x004 16 16 = 0 ∧
      (paired true 3).rdField .rein 0x004 18 18 = 0 ∧ ∀ m ∈ (paired true 3).cfg.body.mirrors, m.primary = true) ∧
    (((paired true 3).reinSend 0 9 [1]).mirror.rein.unacked.head?).isSome = true ∧ forwarding.outAt 1 6 ≠ none ∧
    ((paired true 2).mirror.rein.proofOk = false ∧ (paired true 2).mirror.rein.failed = false ∧ (paired true 2).link = 2) ∧
    (let s := (paired true 3).onMirrNs 1 fun x => { x with full := true }
     s.mirrorDef 1 = some ⟨1, true, 0⟩ ∧ s.nsOf 1 = some ns1 ∧ (s.mirrNs 1).split = 0 ∧ (s.mirrNs 1).peerPrim ≠ some true ∧
      (s.mirrNs 1).resends = []) := by decide +kernel

/-! ### NVMe commands -/

/-- An admin command of PF A. -/
def key0 : CmdKey := ⟨f0, 0, 3⟩

/-- A controller without I/O queues. -/
def bare : Controller := { ctrl0 with cqs := [⟨0, 64, 0, 0, some 0⟩], sqs := [⟨0, 64, 0, 0, 0, 0⟩] }

/-- A state whose only controller is `c`. -/
def serving (c : Controller) (s : State) : State := { s with host := { s.host with ctrls := [c] } }

theorem adminAt (s : State) (e : Sqe) (c : Controller) (a : c.fn = f0) (b : c.rdy = true) (d : s.host.stopped = false) :
    AdminAt (serving c s) key0 e e.opc c := ⟨by simp [serving, HostSide.ctrl, key0, a], b, rfl, d, rfl⟩

theorem witness_AdminCommands :
    (∀ e : Sqe, AdminAt (serving ctrl0 world) key0 e e.opc ctrl0 ∧ AdminAt (serving bare world) key0 e e.opc bare) ∧
    adminOpcodes.contains (0x7F : Byte).toNat = false ∧ ({ ctrl0 with rdy := false } : Controller).rdy = false ∧
    (let e := sqe 0xC1 0 16 0 0 (zeros 16) 16
     dataPtrStatus e.dptr 16 0 = .success ∧ (lmcsOf (fit 16 e.data)).tag ∉ world.tagsInUse f0) ∧
    (let s := { world with lmcs := { world.lmcs with inFlight := [ask (.admin f0 7) 0x0101 0xFFFFFFFF []] } }
     7 ∈ s.tagsInUse f0 ∧ s.receiveOf f0 7 = none ∧ (s.lmcs.done.find? fun r => r.req.car == .admin f0 7) = none) ∧
    (let s := { world with lmcs := { world.lmcs with done := [⟨ask (.admin f0 7) 0x0101 0xFFFFFFFF [], 0, []⟩] } }
     7 ∈ s.tagsInUse f0 ∧ (s.lmcs.done.find? fun r => r.req.car == .admin f0 7).isSome = true) ∧
    ((tracking world runE).track key1).isSome = true ∧ ((tracking world runE).acting.abortTracked { key := key1, sqe := runE, epoch := 0 }).isSome = true ∧
    ((invoked runE (inJob [])).acting.abortTracked { key := key1, sqe := runE, epoch := 0, started := true, ses := some snap1 }).isNone = true ∧
    (world.acting.identifyData ctrl0 (sqe 6 1 0 0 0 [] 4096)).toBool = true ∧ (world.acting.identifyData ctrl0 (sqe 6 1 0x1D 0 0 [] 4096)).toBool = false ∧
    (world.acting.logPage ctrl0 2).toBool = true ∧ (world.acting.logPage ctrl0 0xC6).toBool = false ∧ world.protected_ = false ∧
    (world.wr .glb 0x20C 1).protected_ = true ∧ (∃ q ∈ ctrl0.sqs, q.qid ≠ 0) ∧ (∀ q ∈ bare.sqs, q.qid = 0) ∧ (∀ q ∈ bare.cqs, q.qid = 0) ∧
    State.reset.funcDef f0 = none ∧ (serving bare world).pairsTaken f0 + 64 ≤ 16384 ∧ f0 = pfA ∧ world.host.hmb.enabled = false ∧
    ctrl0.granted = 4 ∧ (∀ q ∈ bare.cqs, q.qid ≠ 4) ∧ (∃ q ∈ ctrl0.cqs, q.qid = 1) ∧ (∃ q ∈ ctrl0.sqs, q.cqid = 1) ∧ (∀ q ∈ bare.sqs, q.cqid ≠ 1) ∧
    world.host.tracks = [] ∧ ctrl0.events = [] ∧ ctrl0.aers.length < 16 :=
  ⟨fun e => ⟨adminAt world e ctrl0 rfl rfl rfl, adminAt world e bare rfl rfl rfl⟩, by decide +kernel⟩

/-- PF A's controller and VF 1's. -/
def withVf (on : Bool) : State := { world with host := { world.host with ctrls := [ctrl0, { fn := ⟨0, 1⟩, online := on }] } }

/-- Data of a namespace to make: 1,024 blocks, format 0. -/
def nsData : List Byte := leBytes 8 1024 ++ leBytes 8 1024 ++ zeros 4080

/-- The package with the key that wraps media keys. -/
def able : State := { world with keys := { slots := [⟨10, 2 + 64, zeros 32, 0⟩] } }

theorem witness_DeviceAdminCommands :
    (∀ e : Sqe, AdminAt (serving ctrl0 able) key0 e e.opc ctrl0) ∧
    (∀ e : Sqe, AdminAt (serving ctrl0 { able with cfg := { able.cfg with loss := true } }) key0 e e.opc ctrl0) ∧
    able.isOwner (adminCarrier f0) = false ∧
    ({ able with lmcs := { able.lmcs with owners := [(adminCarrier f0, [])] } } : State).isOwner (adminCarrier f0) = true ∧
    able.ident.staging = none ∧ able.slotImage 0 = none ∧
    ((withVf false).host.ctrls.find? fun c => funcByte c.fn == 1 && c.fn.port == f0.port).isSome = true ∧ key0.fn.num = 0 ∧
    able.cfg.loss = false ∧ ((List.range 4096).find? fun i => !able.cfg.body.namespaces.any fun n => n.nsid == i + 1) = some 1 ∧
    (let ns := able.newNs 2 nsData
     ns.lbaf ≤ 3 ∧ ns.blockSize ≤ ns.grain ∧ ns.blocks = 1024 ∧ leAt nsData 8 8 = ns.blocks ∧ able.keysServe = true ∧
      (able.acting.reserveRoots ns).isSome = true ∧ (((able.acting.reserveRoots ns).getD able).rekey ns).isSome = true) ∧
    able.named 1 = [ns1] ∧ able.named 2 = [] ∧ able.mirrorDef 1 = none ∧ ((paired true 0).mirrorDef 1).isSome = true ∧
    (able.storeWrite true (able.cfg.body.dropNs 1)).isSome = true ∧ (able.acting.rekeyAll able.cfg.body.namespaces).isSome = true ∧
    able.nsOf 1 = some ns1 ∧ (able.host.ctrls.find? fun c => funcByte c.fn == 0).isSome = true ∧ f0 ∈ ns1.attached ∧ (⟨0, 1⟩ : FnId) ∉ ns1.attached :=
  ⟨fun e => adminAt able e ctrl0 rfl rfl rfl, fun e => adminAt _ e ctrl0 rfl rfl rfl, by decide +kernel, by decide +kernel, by decide +kernel, by decide +kernel, by decide +kernel, rfl,
   rfl, by decide +kernel, by refine ⟨?_, ?_, ?_, ?_, ?_, ?_, ?_⟩ <;> decide +kernel, by refine ⟨?_, ?_, ?_, ?_, ?_, ?_, ?_, ?_, ?_, ?_⟩ <;> decide +kernel⟩

/-- A READ, WRITE or other standard command of one block from block 1,023. -/
def io (opc : Byte) (data : List Byte) : Sqe := sqe opc 1 1023 0 0 data 4096

/-- Its track. -/
def trk (e : Sqe) : Track := { key := key1, sqe := e, epoch := 0 }

/-- A WRITE whose fragment has been sent to T0. -/
def writing : State := after (.write key1) (tracking world (io 1 (zeros 4096)))

/-- The track of that WRITE with its fragment in a phase. -/
def trkIn (phase : Nat) (stat : NvmeStatus) (committed : Bool) : Track :=
  { trk (io 1 []) with started := true, frags := [⟨0, 1023 * 4096, 4096, phase, stat⟩], committed := committed }

theorem witness_StandardIoCommands :
    (world.host.ctrl f0 = some ctrl0 ∧ ctrl0.rdy = true ∧ (ctrl0.sq 1).isSome = true ∧ ctrl0.sq 2 = none ∧
      (ctrl0.cqs.find? fun y => y.qid == 1).isSome = true) ∧
    (let s := world.onCtrl f0 fun c => { c with sqs := [⟨1, 64, 1, 0, 0, 63⟩] }
     s.host.stopped = false ∧ s.host.tracks.length < 65536 ∧ s.fetchable 0 ⟨key1, io 2 [], .clean⟩ = true ∧ (0x7F : Byte).toNat ∉ ioOpcodes) ∧
    world.fetchable 0 ⟨key1, io 2 [], .clean⟩ = false ∧
    (world.sessionOf ({ io 2 [] with opc := 0x82, cdw2 := BitVec.ofNat 32 hd1 } : Sqe).cdw2.toNat f0).isSome = true ∧ world.mem.remap = [] ∧
    (∀ e, Tracked (tracking world e) key1 e.opc (trk e)) ∧
    (tracking world (io 2 [])).ioCheck (trk (io 2 [])) = (.success, some ns1) ∧
    (let e := { io 2 [] with cdw10 := 1024 }
     ((tracking world e).ioCheck (trk e)).2 = none ∧ (trk e).started = false) ∧
    ((tracking world (io 2 [])).readBlocks ns1 calm 1023 1).1.isSome = true ∧
    (let s := tracking (world.onTileAt 2 fun x => { x with ftl := { x.ftl with
        leaves := [(⟨0, 511⟩, { state := .lost })] } }) (io 2 [])
     (s.readBlocks ns1 calm 1023 1).1 = none) ∧
    (tracking world (io 1 [])).writeGate 1 = .success ∧
    ({ tracking world (io 1 []) with boot := { world.boot with readOnly := true } } : State).writeGate 1 ≠ .success ∧
    (tracking world (io 9 [])).nsCheck f0 1 0 0 = (.success, some ns1) ∧
    (dsmRanges { io 9 (zeros 4 ++ leBytes 4 1 ++ leBytes 8 1023) with cdw10 := 0 }) = [(1023, 1)] ∧
    writing.protected_ = false ∧ (writing.wr .glb 0x20C 1).protected_ = true :=
  ⟨by decide +kernel, by decide +kernel, by decide +kernel, by decide +kernel, by decide +kernel, fun e => tracked world e, by decide +kernel, by decide +kernel, by decide +kernel,
   by decide +kernel, by decide +kernel, by decide +kernel, by decide +kernel, by decide +kernel, by decide +kernel⟩

/-- The device with that WRITE's fragment in a phase. -/
def fragIn (phase : Nat) (stat : NvmeStatus) (committed : Bool) : State :=
  { world with host := { world.host with tracks := [trkIn phase stat committed] } }

theorem witness_StandardIoCommands_fragments :
    (∃ tr, writing.track key1 = some tr ∧ tr.frags = [⟨2, 1023 * 4096, 4096, 0, .success⟩] ∧ writing.nsOf tr.sqe.nsid.toNat = some ns1 ∧
      (writing.tileAt 2).ftl.full = false ∧
      (let changes := (grainsOf ns1 ⟨2, 1023 * 4096, 4096, 0, .success⟩).filterMap fun g =>
        (writing.stageOf ns1 tr (tr.sqe.slba * 4096) ⟨2, 1023 * 4096, 4096, 0, .success⟩ g).map fun kd =>
          (⟨⟨0, (grainPlace 8 1 g).2⟩, kd, some key1, 0, 0, false, none⟩ : Staged)
       changes.length = 1 ∧ writing.judge 2 1 (sumOf (changes.map fun g => g.units)) (changes.map fun g => g.key) = true)) ∧
    (fragIn 1 .success false).track key1 = some (trkIn 1 .success false) ∧ (fragIn 2 .capacityExceeded false).mirrWaits (.cmd key1) = false ∧
    (fragIn 1 .success true).track key1 = some (trkIn 1 .success true) ∧
    ((fragIn 1 .success true).writeThrough (trkIn 1 .success true) = false) ∧
    (let s := (fragIn 1 .success true).onCtrl f0 fun c => { c with feat := { c.feat with vwc := false } }
     s.writeThrough (trkIn 1 .success true) = true ∧ s.durable key1 = true ∧
      (s.onTileAt 0 fun x => { x with ftl := { x.ftl with staged := [⟨⟨0, 0⟩, .zero .zeroed, some key1, 0, 0, true, none⟩] } }).durable key1 = false) := by
  refine ⟨⟨_, rfl, by decide +kernel, by decide +kernel, by decide +kernel, by decide +kernel⟩, by decide +kernel, by decide +kernel,
    by decide +kernel, by decide +kernel, by decide +kernel⟩

/-- A SCAN of the first block with image slot 0, and a RANGE and a MATERIALIZE likewise. -/
def scanE : Sqe := { sqe 0x82 1 0 0 0 [] 0x20000 with cdw14 := 0x20000, cpb := zeros 128 }

/-- A MATERIALIZE into namespace 2, of room for one block. -/
def matE : Sqe := { sqe 0x8C 1 0 0 0 [] 0 with cpb := zeros 20 ++ leBytes 4 2 ++ zeros 104 }

/-- A LOOKUP, or a RANGE, of all keys. -/
def queryE (opc : Byte) : Sqe := { sqe opc 1 0 0 0 [] 0x20000 with cdw13 := 0xFF, cdw14 := 0x20000, cpb := zeros 16 ++ [8, if opc = 0x8A then 8 else 0] ++ zeros 110 }

/-- The session with its layout attached to namespace 1 and an index declared, and namespace 2 there too. -/
def able2 : State :=
  let s := laid true
  { s with cfg := { s.cfg with body := { s.cfg.body with namespaces := [ns1, { ns1 with nsid := 2 }]
                                                         funcs := [⟨f0, patch func1.bytes 26 (leBytes 2 0x7001)⟩] } }
           ns := [{ nsid := 1, ready := true }, { nsid := 2, ready := true }]
           ses := { s.ses with sessions := [{ ses1 with rights := [0x7000, 0x7001] }] } }

theorem witness_VendorIoCommands :
    (let s := tracking able2 scanE
     Tracked s key1 0x82 (trk scanE) ∧ s.runOf key1 = none ∧ scanE.vendorForm = true ∧ (s.vendorSession (trk scanE) [(1, 4)]).isSome = true ∧
      s.nsOf 1 = some ns1 ∧ (∃ x, s.vendorSession (trk scanE) [(1, 4)] = some x ∧ (s.imageFor x 0 1).isSome = true ∧ s.imageFor x 1 1 = none ∧
        s.quotaStep x 4096 = true ∧ (s.onQuota 0 fun q => { q with slim := 0 }).quotaStep x 4096 = false) ∧ largeOk lay1 img1 ns1.grain = true ∧
      s.vendorNs 1 = .success ∧ scanE.res = false) ∧
    ({ scanE with cdw15 := 1 } : Sqe).vendorForm = false ∧ (tracking able2 scanE).sessionOf 0 f0 = none ∧
    (tracking { able2 with ns := [] } scanE).vendorNs 1 ≠ .success := by
  refine ⟨⟨tracked able2 scanE, by decide +kernel, by decide +kernel, by decide +kernel, by decide +kernel, ⟨_, rfl, by decide +kernel⟩,
    by decide +kernel, by decide +kernel, by decide +kernel⟩, by decide +kernel, by decide +kernel, by decide +kernel⟩

theorem witness_VendorIoCommands_more :
    (let s := tracking able2 matE
     Tracked s key1 0x8C (trk matE) ∧ matE.vendorForm = true ∧ matE.tnsid = 2 ∧ s.nsOf 2 = some { ns1 with nsid := 2 } ∧
      (∃ x, s.vendorSession (trk matE) [(1, 4), (2, 2)] = some x) ∧ modeFits 0x8C (imgMode img1) = true ∧
      s.targetLayoutOk lay1 img1 { ns1 with nsid := 2 } = true ∧ s.writeGate 2 = .success) ∧
    (∀ o ∈ ([0x86, 0x8A] : List Byte), let s := tracking able2 (queryE o)
     (queryE o).vendorForm = true ∧ (s.vendorSession (trk (queryE o)) [(1, 4)]).isSome = true ∧ (s.indexDecl 1).isSome = true ∧
      s.nsLayout 1 = some lay1 ∧ (queryE o).slot = 0xFF ∧ (∀ y ∈ s.tiles.toList, ns1.nsx ∉ y.idx.regen)) ∧
    (∃ d, (tracking able2 (queryE 0x86)).indexDecl 1 = some d ∧ declHash d = false ∧
      boundOk (declType d lay1) 32 (at1 (queryE 0x86).cpb 16) (queryE 0x86).cpb = true ∧
      boundOk (declType d lay1) 64 (at1 (queryE 0x8A).cpb 17) (queryE 0x8A).cpb = true ∧
      ∀ look, (tracking able2 (queryE 0x86)).lostRunTiles ns1.nsx look (declHash d)
        (queryKey (declType d lay1) 32 (at1 (queryE 0x86).cpb 16) (queryE 0x86).cpb) calm.maps = []) ∧
    (∃ r c, (escalating [] true).runOf key1 = some r ∧ r.cur = some c ∧ ∃ y ∈ c.recs, ∃ q, y.esc = some q ∧ q.phase ≠ 2) := by
  refine ⟨⟨tracked able2 matE, by decide +kernel, by decide +kernel, by decide +kernel, is_some (by decide +kernel), by decide +kernel,
    by decide +kernel, by decide +kernel⟩, by decide +kernel, ⟨_, rfl, by decide +kernel⟩, ⟨_, _, rfl, rfl, ?_⟩⟩
  exact ⟨_, List.mem_cons_self, _, rfl, by decide⟩

/-! ### Start, power, pins -/

/-- The device with power on and nothing done yet. -/
def fresh : State := { State.reset with pins := { State.reset.pins with perst := false } }

/-- After the boot image, then the configuration store, was taken. -/
def booted (store mode : Bool) (rec : Nat) : State :=
  let s := { fresh with boot := { fresh.boot with tested := List.range 8, image := true, storeRead := store, modeChosen := mode } }
  (List.range 8).foldl (fun (s : State) t => s.onTileAt t fun x => { x with ftl := { x.ftl with recovered := rec } }) s

theorem witness_ResetCommands : (world.host.ctrl f0).isSome = true ∧ world.host.ctrl ⟨1, 0⟩ = none ∧ world.host.configured = true ∧
    fresh.host.configured = false ∧ ctrl0.online = true ∧ world.boot.powered = true ∧
    ({ world with boot := { world.boot with powered := false } } : State).boot.powered = false ∧ world.power.parked = false ∧
    world.hasTile 7 = true ∧ (7 ∉ world.boot.failed) ∧ world.boot.reached11 = true ∧ fresh.boot.reached11 = false ∧
    (7 ∈ (fresh.failTile 7).boot.failed) := by decide +kernel

theorem witness_StartSequence :
    (fresh.starting = true ∧ ({ fresh with boot := { fresh.boot with powered := false } } : State).starting = false ∧ fresh.hasTile 7 = true ∧
      (7 ∉ fresh.boot.tested) ∧ fresh.boot.image = false ∧ fresh.pins.perst = false ∧ fresh.host.linkTraining = false ∧
      State.reset.pins.perst = true ∧ fresh.boot.since + 25000 ≤ ({ fresh with now := 25000 } : State).now ∧ fresh.power.parked = false) ∧
    (let s := { fresh with boot := { fresh.boot with tested := List.range 8 } }
     (∀ t ∈ s.tileIds, t ∈ s.boot.tested) ∧ s.bootPick true true = none) ∧
    ((booted false false 0).boot.storeRead = false ∧ (booted false false 0).starting = true) ∧
    (let s := { booted false false 0 with cfg := { fresh.cfg with copy0 := { present := true, seq := 3 }, copy1 := { present := true, seq := 4 } } }
     s.cfg.copy0.present = true ∧ s.cfg.copy1.present = true ∧ s.cfg.copy0.seq < s.cfg.copy1.seq) ∧
    ((∀ t ∈ (booted true false 2).tileIds, 2 ≤ ((booted true false 2).tileAt t).ftl.recovered) ∧ (booted true false 2).param 3 0 0 = 0 ∧
      (booted true false 2).cfg.loss = false) ∧
    ((booted true true 2).boot.modeChosen = true ∧ (booted true true 2).boot.reached11 = false) ∧
    ((booted true false 0).tileAt 3).ftl.recovered = 0 ∧ ((booted true false 0).tileAt 3).ftl.dumps = [] ∧
    ((booted true false 1).tileAt 3).ftl.recovered = 1 ∧
    (let s := { booted true true 2 with boot := { (booted true true 2).boot with reached11 := true } }
     s.starting = true ∧ (s.tileAt 7).ftl.recovered = 2) ∧
    (let s := booted true true 3
     (s.tileAt 7).ftl.recovered = 3 ∧ (∀ g ∈ (s.tileAt 7).ftl.staged, g.dend = none)) := by decide +kernel

/-- The device in Protected mode after PFAIL_N. -/
def failing (step : Nat) : State :=
  let s := world.wr .glb 0x20C 1
  { s with power := { s.power with step := step, on := [(0, 0), (1, 0)] } }

theorem witness_PowerAndPins :
    (let s := State.reset.wr (.pwr 0) 0 0x1E
     s.hasTile 0 = true ∧ s.hasDomain 0 0 = true ∧ bitN (s.rd (.pwr 0) 0) 0 = false ∧ s.domainMay 0 0 = true ∧
      (let s := s.wr (.pwr 0) 0 0x1F
       bitN (s.rd (.pwr 0) 0) 3 = true ∧ s.pdDrained 0 3 = true)) ∧
    (let s := { world with power := { world.power with changing := [(0, 3)] } }
     ((0 : Nat), 3) ∈ s.power.changing) ∧
    (((0 : Nat), 2) ∈ world.power.on ∧ world.sachetWork 0 = false ∧ (0, 2) ∉ State.reset.power.on) ∧
    (State.reset.power.shed.isSome = true ∧ State.reset.power.restore = none ∧ ({ State.reset.power with govact := 15 } : Power).restore.isSome = true) ∧
    (let s := failing 0
     s.power.step = 0 ∧ s.power.parked = false ∧ s.boot.powered = true ∧ (∀ k ∈ s.tileIds, (k, 2) ∉ s.power.on) ∧ (1, 5) ∉ s.power.on) ∧
    (let s := failing 4
     4 ≤ s.power.step ∧ s.protected_ = true ∧ s.hasTile 7 = true ∧ (7 ∉ s.power.dumped)) ∧
    (let s := { failing 4 with power := { (failing 4).power with dumped := List.range 8 } }
     ∀ k ∈ s.tileIds, k ∈ s.power.dumped) ∧
    ({ world with boot := { world.boot with recovery := true } } : State).boot.recovery = true ∧ world.boot.recovery = false ∧
    (let s := (world.wr .sbg 0 1).wr .sbg 0x020 0x0100
     bitN (s.rd .sbg 0) 0 = true ∧ bitN (s.rd .sbg 0x020) 8 = true ∧ s.pins.gpio.getD 0 false = true) := by decide +kernel

/-! ### Media -/

/-- A closed superblock that was closed a day before any clock reading used here. -/
def sb1 : Superblock :=
  ⟨0, .cold, (List.range 16).map fun c => (⟨c, 0, 0⟩, true), 0, 0, 0, true, 0, 1, false, false, 0⟩

/-- Its one grain, at the first unit of its first data member. -/
def grain1 : Stored := ⟨⟨0, 0⟩, ⟨1, 0, 0, 0, 0, 0⟩, 16, false, 1, zeros 4096, 1, true, 0, 0, none⟩

/-- The map entry of that grain. -/
def entry1 : MapEntry := { state := .stored, gen := 1, loc := ⟨1, 0, 0, 0, 0, 0⟩, len := 16 }

/-- The device with a map on T0: superblock 0 is `b`, and one grain is named by the overlay. -/
def mapped (b : Superblock) : State :=
  world.onTileAt 0 fun x => { x with ftl := { x.ftl with
    sbs := [b], stored := [grain1], overlay := [⟨⟨0, 0⟩, entry1, 1, 0⟩], wear := [(⟨0, 0, 0⟩, 301)] } }

theorem witness_MediaUpkeep :
    (let s := mapped sb1
     s.hasTile 0 = true ∧ s.cfg.loss = false ∧ (s.tileAt 0).ftl.recovered = 0 ∧ (s.tileAt 0).ftl.overlay = [⟨⟨0, 0⟩, entry1, 1, 0⟩]) ∧
    (∃ qs, (mapped sb1).gather 0 .cold = some qs ∧ (mapped sb1).mayOpen 0 .cold false qs.length = true) ∧
    (mapped sb1).gather 0 .alt ≠ none ∧ (mapped sb1).mayOpen 0 .host false 131072 = false ∧ (mapped sb1).hasTile 8 = false ∧
    (let b := { sb1 with closed := false }
     let s := mapped b
     (s.tileAt 0).ftl.openOf .cold = some b ∧ s.now < b.rowSince + s.param 0x0015 0 10 * 1000000 ∧
      b.rowSince + ({ s with now := 10000000 } : State).param 0x0015 0 10 * 1000000 ≤ ({ s with now := 10000000 } : State).now ∧
      (let u := s.onTileAt 0 fun x => { x with ftl := { x.ftl with toClose := [0] } }
       ((u.tileAt 0).ftl.sbs.find? fun b => !b.closed && b.stream == .cold && (u.tileAt 0).ftl.toClose.contains b.sbn) = some b)) := by
  refine ⟨by decide +kernel, ?_, by decide +kernel, by decide +kernel, by decide +kernel, by decide +kernel⟩
  obtain ⟨qs, h⟩ := is_some (o := (mapped sb1).gather 0 .cold) (by decide +kernel)
  exact ⟨qs, h, rfl⟩

theorem witness_MediaUpkeep_collection :
    (let s := { (mapped sb1).onTileAt 0 (fun x => { x with ftl := { x.ftl with collecting := true, rsv := 131072 } }) with now := 86400000000 }
     let f := (s.tileAt 0).ftl
     (∀ b ∈ f.sbs, b.closed = true → b.released = false → f.liveIn b.sbn = true ∨ f.keptIn b.sbn = true) ∧
      (if f.rsv + s.gcStop ≤ s.fq 0 then false else if s.fq 0 < f.rsv + s.gcStart then true else f.collecting) = true ∧
      f.victim = none ∧ f.pickVictim = some sb1 ∧
      s.param 0x0010 0 300 < s.spread 0 ∧ f.levelling = false ∧ sb1.closedAt + 86400000000 ≤ s.now ∧
      (f.sbs.find? fun b => b.sbn == 0) = some sb1) ∧
    (world.tileAt 0).ftl.sbs = [] ∧ world.spread 0 ≤ world.param 0x0010 0 300 ∧
    (let s := (mapped sb1).onTileAt 0 fun x => { x with ftl := { x.ftl with stored := [] } }
     (s.tileAt 0).ftl.liveIn 0 = false ∧ (s.tileAt 0).ftl.keptIn 0 = false) ∧
    ((mapped { sb1 with released := true }).tileAt 0).ftl.sbs.find? (fun b => b.sbn == 0) = some { sb1 with released := true } :=
  ⟨by decide +kernel, by decide +kernel, by decide +kernel, by decide +kernel, by decide +kernel⟩

/-! ### Flash channels and engines -/

/-- A flash descriptor at the head of channel 0's ring of eight: operation, FLAGS, LUN, planes, codeword mask. -/
def fdesc (op flags lun planes cw : Nat) : List Byte :=
  leBytes 1 op ++ leBytes 1 flags ++ leBytes 1 lun ++ leBytes 1 planes ++ zeros 4 ++ leBytes 2 cw ++ zeros 2 ++ leBytes 4 7 ++
    leBytes 4 0x2000 ++ zeros 12

/-- The device with channel 0 of T0 enabled, LUN 0 checked, a page programmed and that descriptor in the ring. -/
def flashAt (d : List Byte) : State :=
  ((((((world.wr (.fch 0 0) 0x000 1).wr (.fch 0 0) 0x018 1).wr (.fch 0 0) 0x01C 0x100000).wr (.fch 0 0) 0x020 7).wr (.fch 0 0) 0x02C
    0x101000).wr (.fch 0 0) 0x028 1).writeMem 0 0x100000 d |>.onTileAt 0 fun x => { x with flash := { x.flash with
      pages := [(pageKey 0 0 0 0 0, zeros 16384)] } }

/-- What `Issues` asks of that state, as one decidable premise. -/
def Issuing (d : List Byte) (op : Nat) : Bool :=
  let s := flashAt d
  decide (s.fchReady 0 0 = true ∧ s.readMem 0 ((s.fchRing 0 0).at (s.fchRing 0 0).head 32) 32 = d ∧ leAt d 0 1 = op ∧
    s.flashRefuse 0 0 d = none)

theorem issues {d : List Byte} {op : Nat} (h : Issuing d op = true) : Issues (flashAt d) 0 0 op d := by
  obtain ⟨a, b, c, e⟩ := of_decide_eq_true h
  exact ⟨a, b, c, e⟩

/-- An operation in progress on LUN 0 of channel 0. -/
def fjob (op status : Nat) : FlashJob := ⟨0, 0, op, fdesc op 0 0 1 (if op = 1 then 1 else 0), 0, status, 0, 0, 0, 0⟩

theorem witness_FlashChannels :
    (Issues (flashAt (fdesc 1 0 0 1 1)) 0 0 1 (fdesc 1 0 0 1 1) ∧ (∀ k, k < 16 → bitN (leAt (fdesc 1 0 0 1 1) 8 2) k = true →
      (kvGet (pageKey 0 0 (k / 4) 0 0) ((flashAt (fdesc 1 0 0 1 1)).tileAt 0).flash.pages).isSome = true)) ∧
    (Issues (flashAt (fdesc 2 0 0 1 0)) 0 0 2 (fdesc 2 0 0 1 0) ∧ Issues (flashAt (fdesc 3 0 0 1 0)) 0 0 3 (fdesc 3 0 0 1 0) ∧
      Issues (flashAt (fdesc 4 0 0 1 0)) 0 0 4 (fdesc 4 0 0 1 0) ∧ Issues (flashAt (fdesc 5 0 0 1 0)) 0 0 5 (fdesc 5 0 0 1 0) ∧
      Issues (flashAt (fdesc 6 0 0 1 0)) 0 0 6 (fdesc 6 0 0 1 0) ∧ Issues (flashAt (fdesc 7 0 0 1 0)) 0 0 7 (fdesc 7 0 0 1 0)) ∧
    (∀ op ∈ [1, 2, 3, 4, 5, 6, 7], let d := fdesc op 0 0 0 0
      (flashAt d).fchReady 0 0 = true ∧ (flashAt d).flashRefuse 0 0 d = some 7 ∧ leAt d 0 1 = op) ∧
    world.fchReady 0 0 = false :=
  ⟨⟨issues (by decide +kernel), by decide +kernel⟩,
   ⟨issues (by decide +kernel), issues (by decide +kernel), issues (by decide +kernel), issues (by decide +kernel), issues (by decide +kernel),
    issues (by decide +kernel)⟩, by decide +kernel, by decide +kernel⟩

theorem witness_FlashChannels_ends :
    (∀ p ∈ [(1, 0), (1, 1), (2, 0), (2, 2), (3, 0), (3, 3), (4, 0)],
      ((flashAt (fdesc 1 0 0 1 1)).onTileAt 0 fun x => { x with flash := { x.flash with inflight := [fjob p.1 p.2] } }).fchBusy 0 0 =
        [fjob p.1 p.2]) ∧
    (∀ j ∈ world.fchBusy 0 0, j.lun ≠ 0) ∧ (world.hasTile 0 && world.blockOn (.fch 0 0) && (world.tileAt 0).lunUp 0 0) = true ∧
    (let s := world.wr (.fch 0 0) 0x000 1
     s.fchDrained 0 0 = true ∧ (s.tileAt 0).chanUp 0 = true ∧ bitN (s.rd (.fch 0 0) 0) 0 = true) ∧
    ((flashAt (fdesc 1 0 0 1 1)).fchDrained 0 0 = false) ∧
    (∀ k ∈ [0, 1], ((world.onTileAt 0 fun x => { x with flash := { x.flash with training := [⟨0, true, k⟩] } }).tileAt 0).flash.training.find?
      (fun x => x.chan == 0) = some ⟨0, true, k⟩) ∧
    (let res : TrainResult := ⟨false, none, 24, 24, 0⟩
     res.zqFail.isNone && (!res.stepFail && 24 ≤ res.rdWin && 24 ≤ res.wrWin)) = true ∧
    (let res : TrainResult := ⟨false, none, 23, 24, 0⟩
     res.zqFail.isNone && (!res.stepFail && 24 ≤ res.rdWin && 24 ≤ res.wrWin)) = false :=
  ⟨by decide +kernel, by decide +kernel, by decide +kernel, by decide +kernel, by decide +kernel, by decide +kernel, by decide, by decide⟩

/-- The registers of an engine at work: enabled, a completion ring of eight, and one job in queue 0. -/
def engine (b : Block) (cb : Nat) (d : List Byte) (s : State) : State :=
  (((((s.wr b 0 1).wr b cb 0x1F0003).wr b 0x040 0x100003).wr b 0x044 1).wr b 0x04C 1).writeMem 0 0x100000 d

/-- A compressor job: OP, FMT and LEVEL, FLAGS, source length, output length or buffer count, XLEN. -/
def cdesc (op fmt level flags len out xlen : Nat) : List Byte :=
  leBytes 1 op ++ leBytes 1 fmt ++ leBytes 1 level ++ leBytes 1 flags ++ zeros 8 ++ leBytes 4 7 ++ leBytes 4 0x20000 ++ leBytes 4 len ++
    leBytes 4 0x30000 ++ leBytes 4 out ++ zeros 4 ++ leBytes 4 xlen ++ zeros 24

/-- The device with that job queued. -/
def cmpAt (d : List Byte) : State := engine (.cmp 0) 0x018 d world

/-- What `CmpTakes` asks of a state, as one decidable premise. -/
def CmpTaking (s : State) (op : Nat) : Bool :=
  match s.cmpPick 0 with
  | none => false
  | some (q, u) => decide ((s.hasTile 0 && !s.cmpUp 0) = false ∧ leAt (u.queueHead 0 (.cmp 0) q 64) 0 1 = op ∧
      cmpInvalid (u.queueHead 0 (.cmp 0) q 64) = false)

theorem cmpTakes {s : State} {op : Nat} (h : CmpTaking s op = true) : ∃ q u, CmpTakes s 0 op q (u.queueHead 0 (.cmp 0) q 64) u := by
  unfold CmpTaking at h
  split at h
  · cases h
  · rename_i q u e
    obtain ⟨a, b, c⟩ := of_decide_eq_true h
    exact ⟨q, u, a, e, rfl, b, c⟩

theorem witness_CompressorJobs :
    (∃ q u, CmpTakes (cmpAt (cdesc 1 0 0 0 4096 0 0)) 0 1 q (u.queueHead 0 (.cmp 0) q 64) u) ∧
    (∃ q u, CmpTakes (cmpAt (cdesc 2 0 1 1 64 64 0)) 0 2 q (u.queueHead 0 (.cmp 0) q 64) u) ∧
    (∃ q u, CmpTakes (cmpAt (cdesc 3 0 0 3 64 64 32)) 0 3 q (u.queueHead 0 (.cmp 0) q 64) u) ∧
    (∃ e, (cmpAt (cdesc 2 0 1 0 64 64 0)).streamCtx 0 (cdesc 2 0 1 0 64 64 0) = .error e) ∧
    (∃ c, (cmpAt (cdesc 2 0 1 1 64 64 0)).streamCtx 0 (cdesc 2 0 1 1 64 64 0) = .ok c) ∧
    (∃ q u, (cmpAt (cdesc 1 1 0 0 4096 0 0)).cmpPick 0 = some (q, u)) ∧ cmpInvalid (cdesc 1 1 0 0 4096 0 0) = true ∧
    world.cmpPick 0 = none ∧ (world.hasTile 0 && !world.cmpUp 0) = false ∧
    (let s := world.onTileAt 0 fun x => { x with comp := { x.comp with retired := some 0xA0 } }
     s.cmpPick 0 = none ∧ (s.hasTile 0 && !s.cmpUp 0) = true) ∧
    (let s := world.onTileAt 0 fun x => { x with comp := { x.comp with running := some ⟨0, cdesc 1 0 0 0 4096 0 0, 0, 0, 0, 4096, 256⟩ } }
     ∃ j, (s.tileAt 0).comp.running = some j ∧ leAt j.desc 0 1 = 1 ∧ j.status ≤ 1 ∧ j.queue ≠ 1) ∧
    (inflateStream 0 (some 64) [1, 0, 0, 0xFF, 0xFF]).stop = .done ∧ (inflateStream 0 (some 64) []).stop = .more ∧
    (inflateStream 0 (some 64) [7]).stop = .format ∧ (inflateStream 0 (some 1) [1, 2, 0, 0xFD, 0xFF, 9, 9]).stop = .full ∧
    (inflateStream 1 (some 64) [0x78, 0x01, 1, 0, 0, 0xFF, 0xFF, 0, 0, 0, 0]).stop = .check :=
  ⟨cmpTakes (by decide +kernel), cmpTakes (by decide +kernel), cmpTakes (by decide +kernel), ⟨_, rfl⟩, ⟨_, rfl⟩, ⟨_, _, rfl⟩, by decide,
   by decide +kernel, by decide +kernel, by decide +kernel, ⟨_, rfl, by decide⟩, by decide +kernel, by decide +kernel, by decide +kernel,
   by decide +kernel, by decide +kernel⟩

/-- A sift job: OP, FLAGS, record of a CONT. -/
def sdesc (op flags gidx : Nat) : List Byte :=
  leBytes 1 op ++ leBytes 1 flags ++ zeros 2 ++ leBytes 2 0xFFFF ++ zeros 2 ++ leBytes 4 7 ++ leBytes 4 0x20000 ++ leBytes 4 0x40000 ++
    leBytes 8 gidx ++ zeros 4

/-- A FIXED layout of 8,192-byte records: larger than a grain of 4,096. -/
def layL : List Byte := [1, 0, 1, 0] ++ leBytes 4 8192 ++ zeros 24 ++ [1, 0, 0, 0, 0, 0, 0, 0]

/-- The context of that job. -/
def sctx (lay : List Byte) : SiftCtx := { image := [1, 1, 1, 1] ++ leBytes 2 60 ++ zeros 58, layout := lay, sets := [], nsid := 1, grain := 4096, cls := 2 }

/-- The device with that job in pipeline 0, its context loaded, and a stored grain of zeros. -/
def siftAt (d : List Byte) (lay : List Byte) : State :=
  let s := (((((world.wr (.sft 0 0) 0 1).wr (.sft 0 0) 0x00C 0x100003).wr (.sft 0 0) 0x010 1).wr (.sft 0 0) 0x018 1).wr (.sft 0 0) 0x01C
    0x1F0003).writeMem 0 0x100000 d
  { s with sift := { s.sift with areas := [⟨key1, 0, 0x40000, sctx lay⟩] } }

/-- What `SiftTakes` asks of a state, as one decidable premise. -/
def SiftTaking (s : State) (op : Nat) (d : List Byte) (x : SiftCtx) : Bool :=
  decide (s.siftHead 0 0 = some d ∧ at1 d 0 = op ∧ s.siftArea 0 d = some x ∧ siftInvalid d = false)

theorem siftTakes {s : State} {op : Nat} {d : List Byte} {x : SiftCtx} (h : SiftTaking s op d x = true) : SiftTakes s 0 0 op d x := by
  obtain ⟨a, b, c, e⟩ := of_decide_eq_true h
  exact ⟨a, b, c, e⟩

theorem witness_SiftPipelines :
    SiftTakes (siftAt (sdesc 1 0 0) lay1) 0 0 1 (sdesc 1 0 0) (sctx lay1) ∧ SiftTakes (siftAt (sdesc 2 0 0) layL) 0 0 2 (sdesc 2 0 0) (sctx layL) ∧
    isLarge layL 4096 = true ∧ isLarge lay1 4096 = false ∧
    (siftAt (sdesc 1 0 0) lay1).siftSource 0 (sdesc 1 0 0) 4096 = none ∧
    (siftAt (sdesc 1 0 0) lay1).anyPoison 0 0x20000 (4096 + 256) = false ∧
    (let s := (siftAt (sdesc 1 0 0) lay1).writeMem 0 0x20000 (grainBytes 0 0 16 (List.replicate 16 1))
     (s.siftSource 0 (sdesc 1 0 0) 16).isSome = true ∧ s.anyPoison 0 0x20000 (16 + 256) = false) ∧
    (siftAt (sdesc 9 0 0) lay1).siftHead 0 0 = some (sdesc 9 0 0) ∧ siftInvalid (sdesc 9 0 0) = true ∧
    world.siftHead 0 0 = none ∧ world.siftArea 0 (sdesc 1 0 0) = none ∧
    (((world.onSift 0 0 fun y => { y with running := some { desc := sdesc 1 1 0, status := 0 } }).tileAt 0).sift 0).running =
      some { desc := sdesc 1 1 0, status := 0 } :=
  ⟨siftTakes (by decide +kernel), siftTakes (by decide +kernel), by decide, by decide, by decide +kernel, by decide +kernel, by decide +kernel,
   by decide +kernel, by decide, by decide +kernel, by decide +kernel, by decide +kernel⟩

/-- An index job: OP, FLAGS, its list length or bounds address. -/
def idesc (op flags last : Nat) : List Byte :=
  leBytes 1 op ++ leBytes 1 flags ++ zeros 2 ++ leBytes 4 7 ++ leBytes 4 0x20000 ++ leBytes 4 0x30000 ++ zeros 12 ++ leBytes 4 last

/-- The device with an index on namespace 1 and that job queued. -/
def idxAt (d : List Byte) : State := engine (.idx 0) 0x01C d (laid true)

/-- What `IdxTakes` asks of a state, as one decidable premise. -/
def IdxTaking (s : State) (op : Nat) : Bool :=
  match s.idxPick 0 with
  | none => false
  | some (_, d, _) => decide (at1 d 0 = op ∧ idxInvalid d = false)

theorem idxTakes {s : State} {op : Nat} (h : IdxTaking s op = true) : ∃ q d u, IdxTakes s 0 op q d u := by
  unfold IdxTaking at h
  split at h
  · cases h
  · rename_i q d u e
    obtain ⟨a, b⟩ := of_decide_eq_true h
    exact ⟨q, d, u, e, a, b⟩

theorem witness_IndexBuilder :
    (∃ q d u, IdxTakes (idxAt (idesc 1 0 0)) 0 1 q d u) ∧ (∃ q d u, IdxTakes (idxAt (idesc 2 0 0)) 0 2 q d u) ∧
    (∃ q d u, IdxTakes (idxAt (idesc 3 0 2)) 0 3 q d u) ∧ (∃ q d u, IdxTakes (idxAt (idesc 4 2 0x50000)) 0 4 q d u) ∧
    (let s := idxAt (idesc 1 0 0)
     s.anyPoison 0 0x20000 (s.grainOfNsx 0) = false ∧ (s.indexDecl 1).isSome = true ∧ s.nsLayout 1 = some lay1 ∧ world.indexDecl 1 = none ∧
      (s.tileAt 0).idx.half0 = [] ∧ s.mergeDue 0 0 = none) ∧
    (∃ q d u, (idxAt (idesc 2 0 5)).idxPick 0 = some (q, d, u) ∧ at1 d 0 = 2 ∧ idxInvalid d = true) ∧ world.idxPick 0 = none ∧
    (((world.onTileAt 0 fun x => { x with idx := { x.idx with regen := [0], running := some ⟨0, idesc 1 1 0, 0, 0, 0⟩ } }).tileAt 0).idx.regen =
      [0]) :=
  ⟨idxTakes (by decide +kernel), idxTakes (by decide +kernel), idxTakes (by decide +kernel), idxTakes (by decide +kernel), by decide +kernel,
   ⟨_, _, _, rfl, by decide +kernel, by decide +kernel⟩, by decide +kernel, by decide +kernel⟩

/-- A result that is an error. -/
theorem is_error {ε α : Type} {r : Except ε α} (h : r.toBool = false) : ∃ e, r = .error e := by
  cases r with
  | error e => exact ⟨e, rfl⟩
  | ok a => cases h

/-- A cipher request: OP, FLAGS, HID, its length, of the session's key in slot 4. -/
def qdesc (op flags hid len : Nat) : List Byte :=
  leBytes 1 op ++ leBytes 1 flags ++ leBytes 1 hid ++ zeros 1 ++ leBytes 2 4 ++ zeros 2 ++ leBytes 4 22 ++ leBytes 4 7 ++ leBytes 4 0x20000 ++
    leBytes 4 0x30000 ++ zeros 4 ++ leBytes 4 len

/-- The device with that key, which may stand in no slot, and that request queued. -/
def cqeAt (ks : List KeySlot) (d : List Byte) : State :=
  engine (.cqe 0) 0x018 d { world with keys := { slots := ks, kw := List.replicate 8 0 } }

/-- What `CqeTakes` asks of a state, as one decidable premise. -/
def CqeTaking (s : State) (op : Nat) : Bool :=
  match s.cqePick 0 with
  | none => false
  | some (_, d, u) => decide (at1 d 0 = op ∧ cqeInvalid d = false ∧ u.cqePoison 0 d = false)

theorem cqeTakes {s : State} {op : Nat} (h : CqeTaking s op = true) : ∃ q d u, CqeTakes s 0 op q d u := by
  unfold CqeTaking at h
  split at h
  · cases h
  · rename_i q d u e
    obtain ⟨a, b, c⟩ := of_decide_eq_true h
    exact ⟨q, d, u, e, a, b, c⟩

theorem witness_CipherQueue :
    (∃ q d u, CqeTakes (cqeAt [kslot1] (qdesc 1 0 0 16)) 0 1 q d u) ∧ (∃ q d u, CqeTakes (cqeAt [kslot1] (qdesc 2 0 0 16)) 0 2 q d u) ∧
    (∃ q d u, CqeTakes (cqeAt [kslot1] (qdesc 3 8 1 16)) 0 3 q d u) ∧ (∃ q d u, CqeTakes (cqeAt [kslot1] (qdesc 4 0 1 16)) 0 4 q d u) ∧
    (∃ q d u, CqeTakes (cqeAt [kslot1] (qdesc 5 0 0 0)) 0 5 q d u) ∧
    (let s := cqeAt [kslot1] (qdesc 1 0 0 16)
     s.keyCheck 4 22 [2] = 0 ∧ s.keyCheck 4 22 [3] = 0 ∧ s.keyCheck 4 22 [2, 3] = 0 ∧ s.keyCheck 4 26 [2] = 3 ∧ (s.keySlot 4).nonce < 2 ^ 96 - 1) ∧
    (cqeAt [{ kslot1 with nonce := 2 ^ 96 - 1 }] (qdesc 5 0 0 0)).keyCheck 4 22 [2, 3] = 0 ∧ (cqeAt [] (qdesc 5 0 0 0)).keyCheck 4 22 [2] = 2 ∧
    (∃ h, (cqeAt [kslot1] (qdesc 3 8 1 16)).holdFor 0 (qdesc 3 8 1 16) = .ok h) ∧
    (∃ e, (cqeAt [kslot1] (qdesc 3 0 1 16)).holdFor 0 (qdesc 3 0 1 16) = .error e) ∧
    (let s := (cqeAt [kslot1] (qdesc 4 0 1 16)).onCqe 0 fun x => { x with holds := [⟨1, 0x30000, 4, 22⟩] }
     (s.tileAt 0).cqe.holds.find? (fun h => h.hid == 1) = some ⟨1, 0x30000, 4, 22⟩ ∧ s.holdBusy 0 0 1 = false ∧
      s.rawRead 0 0x20000 16 ≠ s.rawRead 0 0x100000 16) ∧
    (∃ q d u, (cqeAt [] (qdesc 3 0 0 15)).cqePick 0 = some (q, d, u) ∧ at1 d 0 = 3 ∧ cqeInvalid d = true) ∧ world.cqePick 0 = none ∧
    (∃ q d u, (let s := cqeAt [kslot1] (qdesc 1 0 0 16)
      { s with mem := { s.mem with poison := [memKey 0 0x20000] } }).cqePick 0 = some (q, d, u) ∧ cqeInvalid d = false ∧
      u.cqePoison 0 d = true) ∧
    ((world.onCqe 0 fun x => { x with running := some ⟨0, qdesc 1 1 0 16, 0, 16⟩ }).tileAt 0).cqe.running = some ⟨0, qdesc 1 1 0 16, 0, 16⟩ :=
  ⟨cqeTakes (by decide +kernel), cqeTakes (by decide +kernel), cqeTakes (by decide +kernel), cqeTakes (by decide +kernel),
   cqeTakes (by decide +kernel), by decide +kernel, by decide +kernel, by decide +kernel, is_ok (by decide +kernel), is_error (by decide +kernel), by decide +kernel,
   ⟨_, _, _, rfl, by decide +kernel, by decide +kernel⟩, by decide +kernel,
   ⟨_, _, _, rfl, by decide +kernel, by decide +kernel⟩, by decide +kernel⟩

/-- A message with 4 bytes absorbed. -/
def msg1 : DgMsg := { alg := 3, decl := false, tokey := false, cmp := true, key := [], cust := [], data := zeros 4 }

/-- The device with the digest engine of T0 enabled and, unless `stat` says that none is open, that message. -/
def dgeAt (stat busy : Nat) : State :=
  (((world.wr (.dge 0) 0 1).wr (.dge 0) 0x008 stat).wr (.dge 0) 0x00C busy).onDge 0 fun x => { x with msg := some msg1 }

/-- What `DgeTakes` asks of a state, as one decidable premise. -/
def DgeTaking (s : State) : Bool :=
  decide (s.hasTile 0 = true ∧ s.blockOn (.dge 0) = true ∧ bitN (s.rd (.dge 0) 0) 0 = true ∧ (s.tileAt 0).dge.retired = none ∧
    (s.dgOpen 0 = true → s.rdField (.dge 0) 0x008 12 8 = 0))

theorem dgeTakes {s : State} (h : DgeTaking s = true) : DgeTakes s 0 0 := by
  obtain ⟨a, b, c, d, e⟩ := of_decide_eq_true h
  exact ⟨a, b, c, d, e⟩

theorem witness_DigestEngine :
    DgeTakes (dgeAt 0 0) 0 0 ∧ DgeTakes (dgeAt 1 0) 0 0 ∧ DgeTakes (dgeAt 1 1) 0 0 ∧ (dgeAt 0 0).dgOpen 0 = false ∧ (dgeAt 1 1).dgOpen 0 = true ∧
    (dgeAt 1 0).dgBusy 0 = false ∧ (dgeAt 1 1).dgBusy 0 = true ∧ ((dgeAt 1 0).tileAt 0).dge.msg = some msg1 ∧
    ((dgeAt 1 0).tileAt 0).dge.feeding = none ∧ (dgeAt 1 0).anyPoison 0 ((dgeAt 1 0).rd (.dge 0) 0x030) ((dgeAt 1 0).rd (.dge 0) 0x034) = false ∧
    (dgeAt 0x101 0).rdField (.dge 0) 0x008 12 8 ≠ 0 ∧ (bitN ((dgeAt 5 0).rd (.dge 0) 0x008) 2) = true ∧
    (let s := { dgeAt 0 0 with keys := { slots := [{ kslot1 with slot := 0, attr := 2 + 32 }], kw := List.replicate 8 0 } }
     (s.keySlot (s.rd (.dge 0) 0x024)).state = 2 ∧ (s.keySlot (s.rd (.dge 0) 0x024)).use 5 = true ∧
      (world.keySlot 0).state ≠ 2) ∧
    (let s := (dgeAt 0 0).onDge 0 fun x => { x with saves := [(zeros 224, msg1, 0)], msg := some { msg1 with squeezed := 16 }, feeding := some [1] }
     (s.tileAt 0).dge.saves.find? (fun y => y.1 == s.readMem 0 (s.rd (.dge 0) 0x038 / 64 * 64) 224) = some (zeros 224, msg1, 0) ∧
      (s.tileAt 0).dge.feeding = some [1]) ∧
    ((dgeAt 0 0).tileAt 0).dge.saves = [] ∧ (!world.hasTile 0 || !world.blockOn (.dge 0)) = false ∧
    (!bitN (world.rd (.dge 0) 0) 0 || (world.tileAt 0).dge.retired.isSome) = true :=
  ⟨dgeTakes (by decide +kernel), dgeTakes (by decide +kernel), dgeTakes (by decide +kernel), by decide +kernel, by decide +kernel,
   by decide +kernel, by decide +kernel, by decide +kernel, by decide +kernel, by decide +kernel, by decide +kernel, by decide +kernel,
   by decide +kernel, by decide +kernel, by decide +kernel, by decide +kernel, by decide +kernel⟩

/-! ### Memory engines, retries, the machine as a whole -/

/-- The device with a line range set for the maintenance engine of T0 and two lines in its L2, one of them locked and dirty. -/
def cached : State :=
  let s := (world.wr (.mem 0) 0x014 0x1000).wr (.mem 0) 0x018 128
  { s with mem := { s.mem with lines := [⟨0, 0x1000, false, false, zeros 64, []⟩, ⟨0, 0x1040, true, true, zeros 64, []⟩] } }

/-- The device with a logged memory error of kind `kind` at address `a` in entry 0 of T0. -/
def logged (a kind : Nat) : State :=
  (world.wr (.mem 0) 0x080 a).wr (.mem 0) 0x084 (kind * 2 ^ 8 + 1 * 2 ^ 18)

theorem witness_MemoryEngines :
    world.hasTile 8 = false ∧ cached.hasTile 0 = true ∧ cached.rdField (.mem 0) 0x01C 0 0 = 0 ∧ cached.rd (.mem 0) 0x018 = 128 ∧
    cached.rd (.mem 0) 0x014 = 0x1000 ∧ (cached.flag (.mem 0) 0x01C 0).rdField (.mem 0) 0x01C 0 0 = 1 ∧ world.rd (.mem 0) 0x018 = 0 ∧
    cached.rdField (.mem 0) 0x004 4 4 = 0 ∧ cached.rdField (.mem 0) 0x004 5 5 = 0 ∧ (cached.flag (.mem 0) 0x004 4).rdField (.mem 0) 0x004 4 4 = 1 ∧
    (cached.flag (.mem 0) 0x004 5).rdField (.mem 0) 0x004 5 5 = 1 ∧ bitN (world.rd (.mem 0) 0x04C) 0 = false ∧
    bitN ((world.flag (.mem 0) 0x04C 0).rd (.mem 0) 0x04C) 0 = true ∧ (∃ k ∈ world.tileIds, k < 8) ∧
    (∀ kind ∈ [0, 1], ∀ a ∈ [0x40, 0x01800040], let s := logged a kind
     let info := s.rd (.mem 0) 0x084
     s.rd (.mem 0) 0x080 = a ∧ field info 25 18 ≠ 0 ∧ field info 9 8 = kind ∧ field info 13 10 = 0 ∧ s.mem.poison.contains (memKey 0 a) = false) ∧
    field (world.rd (.mem 0) 0x084) 25 18 = 0 :=
  ⟨by decide +kernel, by decide +kernel, by decide +kernel, by decide +kernel, by decide +kernel, by decide +kernel, by decide +kernel,
   by decide +kernel, by decide +kernel, by decide +kernel, by decide +kernel, by decide +kernel, by decide +kernel, ⟨0, by decide, by decide⟩,
   by decide +kernel, by decide +kernel⟩

theorem witness_EngineAndLinkRetries : world.hasTile 8 = false ∧ world.hasTile 0 = true ∧
    (((world.onSift 0 0 fun y => { y with held := some [1] }).tileAt 0).sift 0).held = some [1] ∧
    (((world.onSift 0 0 fun y => { y with held := some [1] }).tileAt 0).sift 0).running = none ∧
    (((world.onSift 0 0 fun y => { y with held := some [1] }).tileAt 0).sift 0).retired = none ∧ ((world.tileAt 0).sift 0).held = none ∧
    (let x := (world.onTileAt 0 fun x => { x with idx := { x.idx with held := some (0, [1]) }, cqe := { x.cqe with held := some (0, [1]) } }).tileAt 0
     x.idx.held = some (0, [1]) ∧ x.idx.running = none ∧ x.idx.retired = none ∧ x.cqe.held = some (0, [1]) ∧ x.cqe.running = none ∧
      x.cqe.retired = none ∧ x.dge.retired = none ∧ x.xtsA.retired = none ∧ x.xtsB.retired = none) ∧
    ((world.onDge 0 fun y => { y with retired := some 0xA1 }).tileAt 0).dge.retired.isSome = true ∧ (world.tileAt 0).idx.held = none ∧
    world.hops 0 1 = 1 ∧ world.hops 0 3 ≠ 1 ∧
    (world.onSift 0 0 fun y => { y with held := some [1] }).heldPoison 0 (.sft 0) = false ∧
    (let s := world.onCqe 0 fun x => { x with held := some (0, qdesc 1 0 0 16) }
     s.heldPoison 0 .cqe = false ∧ ({ s with mem := { s.mem with poison := [memKey 0 0x20000] } }).heldPoison 0 .cqe = true ∧
      s.engineIdle 0 .cqe = true) := by decide +kernel

theorem witness_StepRunsFrontCommand : (State.reset.offer .pwrokRise).pending = [.pwrokRise] ∧ State.reset.pending = [] := by decide

theorem witness_FuseBankMovesOneWay : State.reset.fuses.bounded ∧ step State.reset = .next { State.reset with now := State.reset.now + 1 } :=
  ⟨⟨by decide, by decide⟩, rfl⟩

/-! ### Ill-formed commands, one for each check -/

/-- A thread of the steward's core that it does not have. -/
def noThr : ThrId := ⟨0, 8, 1⟩

/-- The vendor command, without its parameter block. -/
def unblocked : Sqe := { sqe 0x82 1 0 0 0 [] 0 with cpb := [] }

/-- A frame. -/
def frameOf (n : Nat) : Frame := ⟨0, 0, 0, 0, List.replicate n 0⟩

theorem test_wf_thread : (Instr.add noThr 0 0 0).wf = false ∧ (Instr.add h0 0 0 0).wf = true := by decide

theorem test_wf_queue : (Instr.write ⟨f0, 4096, 0⟩).wf = false ∧ (Instr.write key1).wf = true := by decide

theorem test_wf_fetch : (Instr.commandFetch 1 [⟨key1, io 2 [], .clean⟩]).wf = false ∧ (Instr.commandFetch 0 [⟨key1, unblocked, .clean⟩]).wf = false ∧
    (Instr.commandFetch 0 [⟨key1, io 2 [], .clean⟩]).wf = true := by decide

theorem test_wf_message : (Instr.identify ⟨box, ⟨0, 1, 0, 7, 0, 2 ^ 32, 0, []⟩⟩).wf = false ∧ (Instr.identify (plain 0 [])).wf = true := by decide

theorem test_wf_frame : (Instr.ping (frameOf 8193)).wf = false ∧ (Instr.ping (frameOf 0)).wf = true := by decide +kernel

theorem test_wf_ladder : (Instr.flashRead 0 0 ⟨some 16, false, 0, 0, 0⟩).wf = false ∧ (Instr.flashRead 0 0 ⟨none, false, 65536, 0, 0⟩).wf = false ∧
    (Instr.flashRead 0 0 ⟨none, false, 0, 17, 0⟩).wf = false ∧ (Instr.flashRead 0 0 ⟨some 15, true, 65535, 16, 0⟩).wf = true := by decide

theorem test_wf_training : (Instr.trainingComplete 0 0 ⟨false, none, 65, 0, 0⟩).wf = false ∧
    (Instr.trainingComplete 0 0 ⟨false, none, 0, 65, 0⟩).wf = false ∧ (Instr.trainingComplete 0 0 ⟨false, none, 0, 0, 8⟩).wf = false ∧
    (Instr.trainingComplete 0 0 ⟨false, none, 64, 64, 7⟩).wf = true := by decide

theorem test_wf_quad : (Instr.collectionVictimRelease 0 0 [⟨16, 0, 0⟩]).wf = false ∧ (Instr.collectionVictimRelease 0 0 [⟨0, 16, 0⟩]).wf = false ∧
    (Instr.collectionVictimRelease 0 0 [⟨0, 0, 16384⟩]).wf = false ∧ (Instr.collectionVictimRelease 0 0 [⟨15, 15, 16383⟩]).wf = true := by decide

theorem test_wf_media : (Instr.read key1 ⟨[(8, 0, 0)], [], [], []⟩).wf = false ∧ (Instr.read key1 ⟨[(0, 4096, 0)], [], [], []⟩).wf = false ∧
    (Instr.read key1 calm).wf = true := by decide

theorem test_wf_core : (Instr.run key1 ⟨0, 8, 0⟩).wf = false ∧ (Instr.threadStart ⟨0, 8, 0⟩).wf = false ∧ (Instr.run key1 h0).wf = true := by decide

theorem test_wf_others : (Instr.cinchGo [0, 0]).wf = false ∧ (Instr.undecodedAccess 0 3 false).wf = false ∧
    (Instr.indexRegeneration 0 4096).wf = false ∧ (Instr.mackTmo 0 0).wf = false ∧ (Instr.mackTmo 4097 0).wf = false ∧
    (Instr.catchUp 0 calm).wf = false ∧ (Instr.catchUp 4097 calm).wf = false ∧ (Instr.governorPeriod (List.replicate 9 0) 0 false).wf = false ∧
    (Instr.scrub 0 [(0x01B00000, .ue)]).wf = false ∧ (Instr.hourlyScrub [(0, 0x01800000, .ue)]).wf = false := by decide +kernel

/-! ### Values that the spec states -/

/-- The CRC-32C of chapter 0; the value is that CRC's catalogue check value. -/
theorem test_crc32c : (crc32c ((ascii "123456789"))).toNat = 0xE3069283 := by decide +kernel

/-- The ball of FC083_DQ3 in the manual's example (chapter 21): CL34. -/
theorem test_ball_fc083_dq3 : (Part.grid .ltr8128).chanBalls 5 3 (.dq 3) = [(68, 34)] ∧ ballName 68 34 = ['C', 'L', '3', '4'] := by decide +kernel

/-- HTX0_P is A1, HTX0_N is A2, and HRX0 is C1 and C2, in the same example. -/
theorem test_ball_htx0 : ((Part.coreBalls .ltr8128 0 (.htx 0)).map fun p => ballName p.1 p.2) = [['A', '1'], ['A', '2']] ∧
    ((Part.coreBalls .ltr8128 0 (.hrx 0)).map fun p => ballName p.1 p.2) = [['C', '1'], ['C', '2']] := by decide +kernel

/-- T0 skips local row 31, column 18, so that THD0_P and THD0_N start a pair in row 32 (R450). -/
theorem test_ball_skip : ((Part.coreArea .ltr8128 0).filter fun x => x.1 == (31, 18) || x.1 == (32, 1)) = [((31, 18), .vss), ((32, 1), .thd 0)] := by
  decide +kernel

end Sys2Proof.Tests
end

section
/-! PROOF. Register writes (R7, R38, R40, R50, R343, R360): what a field and a flag read after they were written, what an access to the
register space answers in each case, and the rule for plain registers. -/

namespace Sys2Proof.Machine

open Sys2Proof

/-! ### Fields and flags -/

/-- A field below bit 32 does not see the bits above. -/
theorem field_mod_word {hi lo : Nat} (h : lo ≤ hi) (w : hi < 32) (x : Nat) : field (x % 2 ^ 32) hi lo = field x hi lo := by
  have e : 2 ^ 32 = 2 ^ lo * (2 ^ (hi + 1 - lo) * 2 ^ (31 - hi)) := by
    rw [← Nat.pow_add, ← Nat.pow_add]; congr 1; omega
  unfold field
  rw [e, Nat.mod_mul_right_div_self, Nat.mod_mul_right_mod]

/-- A field of a register reads as it was written. -/
theorem State.rdField_wrField_self (s : State) (b : Block) (o : Nat) {hi lo : Nat} (h : lo ≤ hi) (w : hi < 32) (v : Nat) :
    (s.wrField b o hi lo v).rdField b o hi lo = v % 2 ^ (hi + 1 - lo) := by
  rw [State.rdField, State.wrField, State.rd_wr_self, field_mod_word h w, field_withField h]

/-- Writing a field leaves the other registers of the block. -/
theorem State.rd_wrField_off (s : State) (b : Block) {o p : Nat} (h : p ≠ o) (hi lo v : Nat) :
    (s.wrField b o hi lo v).rd b p = s.rd b p := s.rd_wr_off b h _

/-- A flag that the hardware has set reads 1. -/
theorem State.rdField_flag_self (s : State) (b : Block) (o : Nat) {i : Nat} (w : i < 32) : (s.flag b o i).rdField b o i i = 1 :=
  (s.rdField_wrField_self b o (Nat.le_refl i) w 1).trans (Nat.mod_eq_of_lt (Nat.one_lt_two_pow (by omega)))

/-- Setting a flag leaves the other registers of the block. -/
theorem State.rd_flag_off (s : State) (b : Block) {o p : Nat} (h : p ≠ o) (i : Nat) : (s.flag b o i).rd b p = s.rd b p :=
  s.rd_wrField_off b h _ _ _

/-! ### DECERR_STAT and DECERR_ADDR (R40) -/

/-- A raised flag of DECERR_STAT reads 1. -/
theorem State.rdField_decErr (s : State) (a : Nat) {bit : Nat} (h : bit < 3) : (s.decErr a bit).rdField .glb 0x120 bit bit = 1 :=
  State.rdField_flag_self _ .glb 0x120 (by omega)

/-- With every flag clear, the first access that raises one leaves its address. -/
theorem State.rd_decErr_addr_first (s : State) {a : Nat} (w : a < 2 ^ 32) (clear : s.rd .glb 0x120 % 8 = 0) (bit : Nat) :
    (s.decErr a bit).rd .glb 0x124 = a := by
  rw [State.decErr, if_pos clear, State.rd_flag_off _ .glb (by decide), State.rd_wr_self, Nat.mod_eq_of_lt w]

/-- With a flag set, the address that stands there stays. -/
theorem State.rd_decErr_addr_kept (s : State) (a : Nat) (raised : s.rd .glb 0x120 % 8 ≠ 0) (bit : Nat) :
    (s.decErr a bit).rd .glb 0x124 = s.rd .glb 0x124 := by
  rw [State.decErr, if_neg raised, State.rd_flag_off _ .glb (by decide)]

/-! ### A word written to the register space, case by case -/

section
variable {s : State} {who : BusWho} {a : Nat} {b : Block} {off : Nat}

/-- An access that is no aligned word sets SIZE. -/
theorem State.busWrite_misaligned (h : a % 4 ≠ 0) (v : Word) : s.busWrite who a v = s.decErr a 1 := if_pos h

/-- A write outside every block sets UNDEC. -/
theorem State.busWrite_undecoded (al : a % 4 = 0) (arr : s.arrayWord a = none) (h : blockAt s.n a = none) (v : Word) :
    s.busWrite who a v = s.decErr a 0 := by
  simp [State.busWrite, al, arr, h]

/-- SEC refuses every requester but the package steward (R343). -/
theorem secRefuses_eq_true : secRefuses who b = true ↔ b = .sec ∧ who ≠ .package := by simp [secRefuses]

/-- A write to a block that is off, or to SEC by another than the package steward, sets UNDEC. -/
theorem State.busWrite_refused (al : a % 4 = 0) (arr : s.arrayWord a = none) (h : blockAt s.n a = some (b, off))
    (r : s.blockOn b = false ∨ (b = .sec ∧ who ≠ .package)) (v : Word) : s.busWrite who a v = s.decErr a 0 := by
  have r' : (!s.blockOn b || secRefuses who b) = true := by
    rcases r with off_ | sec
    · rw [off_]; rfl
    · rw [secRefuses_eq_true.2 sec, Bool.or_true]
  simp [State.busWrite, al, arr, h, r']

/-- A write that its block takes sets BUSYWR while the register is drain-only and its scope is not drained; else it starts its command, or
writes the register by its access code. -/
theorem State.busWrite_taken (al : a % 4 = 0) (arr : s.arrayWord a = none) (h : blockAt s.n a = some (b, off))
    (on : s.blockOn b = true) (sec : b ≠ .sec ∨ who = .package) (v : Word) :
    s.busWrite who a v = if s.drainBusy b off then s.decErr a 2
      else match s.commandWrite who b off v with
        | some s1 => s1
        | none => match b.desc off with
          | some d => if off = 0 then (s.plainWrite b off d v.toNat).ctrlSync b else s.plainWrite b off d v.toNat
          | none => s := by
  have r : (!s.blockOn b || secRefuses who b) = false := by
    rw [on, Bool.not_true, Bool.false_or, Bool.eq_false_iff, Ne, secRefuses_eq_true]
    rintro ⟨e, w⟩
    exact sec.elim (fun x => x e) w
  simp only [State.busWrite, al, arr, h, r]
  rfl

/-- A write that a drained scope would take, and that finds it busy, sets BUSYWR. -/
theorem State.busWrite_busy (al : a % 4 = 0) (arr : s.arrayWord a = none) (h : blockAt s.n a = some (b, off))
    (on : s.blockOn b = true) (sec : b ≠ .sec ∨ who = .package) (busy : s.drainBusy b off = true) (v : Word) :
    s.busWrite who a v = s.decErr a 2 := by
  rw [State.busWrite_taken al arr h on sec, if_pos busy]

/-- A write that starts no command, to a register other than the first of its block, goes by the register's access code. -/
theorem State.busWrite_plain (al : a % 4 = 0) (arr : s.arrayWord a = none) (h : blockAt s.n a = some (b, off))
    (on : s.blockOn b = true) (sec : b ≠ .sec ∨ who = .package) (idle : s.drainBusy b off = false) {v : Word}
    (cmd : s.commandWrite who b off v = none) (first : off ≠ 0) {d : RegDesc} (hd : b.desc off = some d) :
    s.busWrite who a v = s.plainWrite b off d v.toNat := by
  simp only [State.busWrite_taken al arr h on sec, idle, cmd, hd, if_neg first, Bool.false_eq_true, if_false]

end

/-! ### The commands that access a register -/

/-- REGISTER_WRITE is a write of the steward that it names. -/
theorem exec_registerWrite (w : Fin 9) (a v : Word) (s : State) :
    exec (.registerWrite w a v) s = s.ends (s.busWrite (stewardOf w) a.toNat v) := rfl

/-- A drain-only register is written as the package steward writes any register. -/
theorem exec_drainOnlyRegisterWrite (a v : Word) (s : State) :
    exec (.drainOnlyRegisterWrite a v) s = exec (.registerWrite 0 a v) s := rfl

/-- An access of another size, or not aligned, sets SIZE. -/
theorem exec_undecodedAccess_size (s : State) {a : Word} {n : Nat} (h : n ≠ 4 ∨ a.toNat % 4 ≠ 0) (isw : Bool) :
    exec (.undecodedAccess a n isw) s = s.ends (s.decErr a.toNat 1) := congrArg s.ends (if_pos h)

/-- An aligned word outside every block sets UNDEC. -/
theorem exec_undecodedAccess_undec {s : State} {a : Word} (al : a.toNat % 4 = 0) (arr : s.arrayWord a.toNat = none)
    (h : blockAt s.n a.toNat = none) (isw : Bool) : exec (.undecodedAccess a 4 isw) s = s.ends (s.decErr a.toNat 0) := by
  have e : exec (.undecodedAccess a 4 isw) s = execUndecodedAccess a 4 isw s := rfl
  simp [e, execUndecodedAccess, al, arr, h]

/-- Settles O36: each case of a write is the lemma of that case, and the access codes are those of `State.plainWrite`. -/
theorem registerWriteRule : Obligations.RegisterWriteRule := by
  unfold Obligations.RegisterWriteRule
  refine ⟨fun s w a v => ⟨fun mis => ?_, fun al arr => ⟨fun un => ?_, fun b off h => ⟨fun r => ?_, fun on sec => ⟨fun busy => ?_, ?_⟩⟩⟩,
    exec_drainOnlyRegisterWrite a v s, fun n isw h => exec_undecodedAccess_size s h isw,
    fun isw al arr un => exec_undecodedAccess_undec al arr un isw⟩, fun s a bit hb ha =>
    ⟨s.rdField_decErr a hb, fun clear => s.rd_decErr_addr_first ha clear bit, fun raised => s.rd_decErr_addr_kept a raised bit⟩⟩
  · rw [exec_registerWrite, State.busWrite_misaligned mis]
  · rw [exec_registerWrite, State.busWrite_undecoded al arr un]
  · rw [exec_registerWrite, State.busWrite_refused al arr h r]
  · rw [exec_registerWrite, State.busWrite_busy al arr h on sec busy]
  · intro idle cmd first d hd
    rw [exec_registerWrite, State.busWrite_plain al arr h on sec idle cmd first hd, State.plainWrite]
    cases d.acc <;> rfl

end Sys2Proof.Machine
end

section
/-! PROOF. Resets and failures (R8, R25, R33, R43, R44, R57, R58, R83, R226, R377, R441, R454): what the end of a command, the drop of
carriers, the reset of a controller, a power cycle and the failure of a tile leave, and what each command of the chapter does. -/

namespace Sys2Proof.Machine

open Sys2Proof

/-! ### Commands ended by a reset -/

@[simp] theorem State.discard_host (s : State) (k : CmdKey) : (s.discard k).host = s.host := rfl
@[simp] theorem State.discard_mem (s : State) (k : CmdKey) : (s.discard k).mem = s.mem := rfl
@[simp] theorem State.discard_fuses (s : State) (k : CmdKey) : (s.discard k).fuses = s.fuses := rfl

@[simp] theorem State.vendorDone_host (s : State) (t : Track) : (s.vendorDone t).host = s.host := by
  unfold State.vendorDone; split <;> rfl
@[simp] theorem State.vendorDone_mem (s : State) (t : Track) : (s.vendorDone t).mem = s.mem := by
  unfold State.vendorDone; split <;> rfl
@[simp] theorem State.vendorDone_fuses (s : State) (t : Track) : (s.vendorDone t).fuses = s.fuses := by
  unfold State.vendorDone; split <;> rfl

@[simp] theorem State.untrack_tracks (s : State) (k : CmdKey) :
    (s.untrack k).host.tracks = s.host.tracks.filter fun t => t.key != k := rfl
@[simp] theorem State.untrack_mem (s : State) (k : CmdKey) : (s.untrack k).mem = s.mem := rfl
@[simp] theorem State.untrack_fuses (s : State) (k : CmdKey) : (s.untrack k).fuses = s.fuses := rfl

@[simp] theorem State.releaseEpoch_host (s : State) : s.releaseEpoch.host = s.host := by unfold State.releaseEpoch; split <;> rfl
@[simp] theorem State.releaseEpoch_mem (s : State) : s.releaseEpoch.mem = s.mem := by unfold State.releaseEpoch; split <;> rfl
@[simp] theorem State.releaseEpoch_fuses (s : State) : s.releaseEpoch.fuses = s.fuses := by unfold State.releaseEpoch; split <;> rfl

/-- A command that a reset ends is tracked no more, and no other track changes. -/
@[simp] theorem State.endTrack_tracks (s : State) (t : Track) :
    (s.endTrack t).host.tracks = s.host.tracks.filter fun u => u.key != t.key := by
  unfold State.endTrack; simp only [State.releaseEpoch_host, State.untrack_tracks, State.vendorDone_host]; split <;> rfl

@[simp] theorem State.endTrack_mem (s : State) (t : Track) : (s.endTrack t).mem = s.mem := by
  unfold State.endTrack; simp only [State.releaseEpoch_mem, State.untrack_mem, State.vendorDone_mem]; split <;> rfl

@[simp] theorem State.endTrack_fuses (s : State) (t : Track) : (s.endTrack t).fuses = s.fuses := by
  unfold State.endTrack; simp only [State.releaseEpoch_fuses, State.untrack_fuses, State.vendorDone_fuses]; split <;> rfl

/-- The tracks left once a list of commands has ended: those of the other commands. -/
theorem State.mem_foldl_endTrack {u : Track} (l : List Track) (s : State) :
    u ∈ (l.foldl State.endTrack s).host.tracks ↔ u ∈ s.host.tracks ∧ ∀ t ∈ l, u.key ≠ t.key := by
  induction l generalizing s with
  | nil => simp
  | cons t ts ih => simp [ih, and_assoc]

@[simp] theorem State.foldl_endTrack_mem (l : List Track) (s : State) : (l.foldl State.endTrack s).mem = s.mem := by
  induction l generalizing s with
  | nil => rfl
  | cons t ts ih => rw [List.foldl_cons, ih, State.endTrack_mem]

@[simp] theorem State.foldl_endTrack_fuses (l : List Track) (s : State) : (l.foldl State.endTrack s).fuses = s.fuses := by
  induction l generalizing s with
  | nil => rfl
  | cons t ts ih => rw [List.foldl_cons, ih, State.endTrack_fuses]

/-- With the commands of a function ended, no track is of that function. -/
theorem State.endTracks_fn (s : State) (f : FnId) :
    ∀ t ∈ ((s.host.tracks.filter fun t => t.key.fn == f).foldl State.endTrack s).host.tracks, t.key.fn ≠ f := by
  intro t ht e
  obtain ⟨here, others⟩ := (State.mem_foldl_endTrack _ s).1 ht
  exact others t (List.mem_filter.2 ⟨here, beq_iff_eq.2 e⟩) rfl

/-- With every command ended, nothing is tracked. -/
theorem State.endTracks_all (s : State) : (s.host.tracks.foldl State.endTrack s).host.tracks = [] := by
  refine List.eq_nil_iff_forall_not_mem.2 fun t ht => ?_
  obtain ⟨here, others⟩ := (State.mem_foldl_endTrack _ s).1 ht
  exact others t here rfl

/-! ### Carriers and the log of a function -/

@[simp] theorem State.clearFuncLog_lmcs (s : State) (f : FnId) : (s.clearFuncLog f).lmcs = s.lmcs := rfl

/-- A cleared log is empty (R423). -/
@[simp] theorem State.funcLog_clearFuncLog (s : State) (f : FnId) : (s.clearFuncLog f).funcLog f = [] := by
  have gone : (s.logs.funcs.filter fun x => x.1 != f).find? (fun x => x.1 == f) = none := by
    simp [List.find?_eq_none]
  simp [State.funcLog, State.clearFuncLog, gone]

/-- With the carriers of a function dropped, no request, owner role or pending change is of one of them (R33, R52, R353). -/
theorem State.dropCarriers_fn (s : State) (f : FnId) : let w := s.dropCarriers fun c => c.fn == some f
    (∀ q ∈ w.lmcs.inFlight ++ w.lmcs.started, q.car.fn ≠ some f) ∧ (∀ o ∈ w.lmcs.owners, o.1.fn ≠ some f) ∧
    ∀ p ∈ w.lmcs.pending, p.1.fn ≠ some f := by
  simp only [State.dropCarriers, ← List.filter_append, List.mem_filter, Bool.not_eq_true', beq_eq_false_iff_ne]
  exact ⟨fun _ h => h.2, fun _ h => h.2, fun _ h => h.2⟩

/-! ### Controllers -/

/-- The controller of a function after a change that keeps its function. -/
theorem HostSide.ctrl_onCtrl_self (h : HostSide) {f : FnId} {g : Controller → Controller} (keeps : ∀ c, (g c).fn = c.fn) :
    (h.onCtrl f g).ctrl f = (h.ctrl f).map g := by
  simp only [HostSide.ctrl, HostSide.onCtrl]
  induction h.ctrls with
  | nil => rfl
  | cons c cs ih =>
    rw [List.map_cons, List.find?_cons, List.find?_cons]
    by_cases e : c.fn = f
    · simp [e, keeps]
    · simp only [beq_eq_false_iff_ne.2 e, Bool.false_eq_true, if_false, ih]

/-- A reset of a controller, by CC.EN or of its function, is the reset of R33, R58, R83 and R226 where the controller is there. -/
theorem exec_functionReset {c : Instr} {f : FnId} (h : c ∈ ([.controllerReset f, .functionLevelReset f] : List Instr)) (s : State) :
    exec c s = s.ends (if (s.host.ctrl f).isSome then s.resetFn f else s) := by
  simp only [List.mem_cons, List.not_mem_nil, or_false] at h
  rcases h with rfl | rfl <;> rfl

@[simp] theorem Controller.withAdmin_fn (c : Controller) : c.withAdmin.fn = c.fn := by unfold Controller.withAdmin; split <;> rfl

/-- An enabled controller has its admin submission queue. -/
theorem Controller.withAdmin_sq (c : Controller) : (c.withAdmin.sq 0).isSome = true := by
  unfold Controller.withAdmin
  split
  · assumption
  · rfl

/-- A controller after its CC.EN is set: an online one is enabled, with its admin queues, and ready once `up` says so (R377, R25). -/
def Controller.enabledAt (up : Bool) (c : Controller) : Controller :=
  if !c.online then c else { c.withAdmin with en := true, rdy := up && !c.cfs }

@[simp] theorem Controller.enabledAt_fn (up : Bool) (c : Controller) : (c.enabledAt up).fn = c.fn := by
  unfold Controller.enabledAt
  split
  · rfl
  · exact c.withAdmin_fn

/-- An online controller once CC.EN is set. -/
theorem Controller.enabledAt_online (up : Bool) {c : Controller} (on : c.online = true) :
    c.enabledAt up = { c.withAdmin with en := true, rdy := up && !c.cfs } := by
  rw [Controller.enabledAt, on]; rfl

theorem exec_ccEn (f : FnId) (s : State) : exec (.ccEn f) s =
    s.ends (if !s.host.configured then s else s.onCtrl f fun c => c.enabledAt s.boot.reached11) := rfl

/-- CC.EN on a configured device enables an online controller and changes nothing but the controllers. -/
theorem exec_ccEn_online {s : State} {f : FnId} {c : Controller} (conf : s.host.configured = true) (hc : s.host.ctrl f = some c)
    (on : c.online = true) : ∃ t : State, exec (.ccEn f) s = s.ends t ∧
      ∃ d, t.host.ctrl f = some d ∧ d.en = true ∧ d.rdy = (s.boot.reached11 && !c.cfs) ∧ (d.sq 0).isSome = true ∧
        t = { s with host := { s.host with ctrls := t.host.ctrls } } := by
  have enabled : (s.onCtrl f fun c => c.enabledAt s.boot.reached11).host.ctrl f =
      some { c.withAdmin with en := true, rdy := s.boot.reached11 && !c.cfs } := by
    rw [← Controller.enabledAt_online _ on, State.onCtrl, HostSide.ctrl_onCtrl_self _ (Controller.enabledAt_fn _), hc]
    rfl
  refine ⟨_, ?_, _, enabled, rfl, rfl, c.withAdmin_sq, rfl⟩
  rw [exec_ccEn, conf]
  rfl

/-! ### PERST_N -/

/-- PERST_N takes the ports down and leaves the controllers of the port mode that it latches. -/
theorem exec_perstN (s : State) : ∃ t : State, exec .perstN s = s.ends t ∧ t.pins.perst = true ∧ t.host.linkUp = false ∧
    t.host.linkTraining = false ∧ t.host.hmb.enabled = false ∧ t.logs.funcs = [] ∧ t.host.fetchPtr = (0, 0) ∧
    t.host.ctrls = (if t.host.configured then t.portCtrls else []) :=
  ⟨_, rfl, rfl, rfl, rfl, rfl, rfl, rfl, rfl⟩

/-! ### The power cycle -/

/-- A tile after a power cycle is the tile as the cut, which at most adds a dump cut short, and the cold start leave it. -/
theorem State.tileAt_powerCycle (s : State) (on : Bool) (bs : BitVec 2) (pe : Bool) {i : Nat} (h : i < 8) :
    (s.powerCycle on bs pe).tileAt i = (s.tileAt i).cold ∨ (s.powerCycle on bs pe).tileAt i = (s.tileAt i).cutDump.cold := by
  have e : ∀ v : Vector Tile 8, v.toList.getD i {} = v[i] := fun v => by simp [List.getD_eq_getElem?_getD, h]
  simp only [State.tileAt, State.powerCycle, e, Vector.getElem_mapIdx]
  split
  · exact .inr rfl
  · exact .inl rfl

/-- What a tile keeps over a power cycle (R8, R43): the durable records, its root copies and its retirements. -/
theorem State.powerCycle_tile (s : State) (on : Bool) (bs : BitVec 2) (pe : Bool) {i : Nat} (h : i < 8) :
    ((s.powerCycle on bs pe).tileAt i).ftl.journal = (s.tileAt i).ftl.journal.filter (fun j => j.seq < (s.tileAt i).ftl.durSeq) ∧
      ((s.powerCycle on bs pe).tileAt i).ftl.rootA = (s.tileAt i).ftl.rootA ∧ ((s.powerCycle on bs pe).tileAt i).ftl.staged = [] ∧
      ((s.powerCycle on bs pe).tileAt i).comp.retired = (s.tileAt i).comp.retired := by
  rcases s.tileAt_powerCycle on bs pe h with e | e <;> rw [e] <;> exact ⟨rfl, rfl, rfl, rfl⟩

/-! ### Supply and PWROK -/

/-- The last entry of a log is in it when the log keeps any. -/
theorem mem_newest_last {α : Type} {k : Nat} (h : 0 < k) (xs : List α) (x : α) : x ∈ newest k (xs ++ [x]) := by
  unfold newest
  split
  · simp
  · rw [List.drop_append_of_le_length (by simp; omega)]
    simp

/-- A logged event stands in the package event log. -/
theorem State.log_mem_events (s : State) (sev cause kind src unit detail : Nat) :
    ∃ e ∈ (s.log sev cause kind src unit detail).logs.events, e.sev = sev ∧ e.detail = detail :=
  ⟨_, mem_newest_last (by decide) _ _, rfl, rfl⟩

theorem exec_pwrokFall (ns : Nat) (s : State) : exec (.pwrokFall ns) s =
    s.ends (if ns < 1000 then s else s.powerCycle false s.boot.bootSel s.boot.pairEn) := rfl

theorem exec_supplyCollapse (ns : Nat) (s : State) : exec (.supplyCollapse ns) s = s.ends (if !s.boot.powered then s
    else if ns < 1000 then s.alarm .voltage else s.powerCycle false s.boot.bootSel s.boot.pairEn) := rfl

theorem exec_supplyDip (mv : Nat) (s : State) : exec (.supplyDip mv) s =
    s.ends (if s.boot.powered && 640 ≤ mv then s.log 0 0 5 8 0 mv else s) := rfl

/-- The device whose PWROK has risen: power is on and the straps are sampled (R440). -/
def State.risen (s : State) : State :=
  { s with boot := { s.boot with powered := true, bootSel := s.pins.bootSel, pairEn := s.pins.pairEn, since := s.now } }

theorem exec_pwrokRise (s : State) : exec .pwrokRise s = s.ends (if s.boot.powered then s else s.risen.invalidated) := rfl

theorem exec_parkRestart (s : State) : exec .parkRestart s = s.ends (if !s.power.parked then s
    else (({ s with pins := { s.pins with gpio := setAt s.pins.gpio 0 true } } : State).powerCycle
      true s.boot.bootSel s.boot.pairEn).invalidated) := rfl

/-- Setting a flag of some tiles' MEM blocks changes registers only. -/
theorem State.foldl_flag_mem (l : List Nat) (o i : Nat) (s : State) :
    l.foldl (fun (s : State) t => s.flag (.mem t) o i) s =
      { s with regs := (l.foldl (fun (s : State) t => s.flag (.mem t) o i) s).regs } := by
  induction l generalizing s with
  | nil => rfl
  | cons t ts ih => rw [List.foldl_cons, ih]; rfl

/-- The MEM registers of two tiles at one offset are apart. -/
theorem regAddr_mem_ne {t u : Nat} (h : t ≠ u) (o : Nat) : regAddr (.mem t) o ≠ regAddr (.mem u) o := by
  simp only [regAddr, Block.base, tileBase]
  omega

/-- A flag of one tile's MEM block that reads 1 still does after the flag was set in another tile, or in the same. -/
theorem State.rdField_flag_mem_of_one {s : State} {k o i : Nat} (w : i < 32) (h : s.rdField (.mem k) o i i = 1) (t : Nat) :
    (s.flag (.mem t) o i).rdField (.mem k) o i i = 1 := by
  by_cases e : k = t
  · subst e; exact s.rdField_flag_self _ o w
  · exact (congrArg (field · i i) (s.rd_wr_ne (regAddr_mem_ne e o) _)).trans h

/-- The same, after it was set in several tiles. -/
theorem State.rdField_foldl_flag_mem_of_one {k o i : Nat} (w : i < 32) (l : List Nat) {s : State} (h : s.rdField (.mem k) o i i = 1) :
    (l.foldl (fun (s : State) t => s.flag (.mem t) o i) s).rdField (.mem k) o i i = 1 := by
  induction l generalizing s with
  | nil => exact h
  | cons t ts ih => exact ih (State.rdField_flag_mem_of_one w h t)

/-- Once set in some tiles, the flag reads 1 in each of them. -/
theorem State.rdField_foldl_flag_mem {l : List Nat} {k : Nat} (hk : k ∈ l) (o : Nat) {i : Nat} (w : i < 32) (s : State) :
    (l.foldl (fun (s : State) t => s.flag (.mem t) o i) s).rdField (.mem k) o i i = 1 := by
  induction l generalizing s with
  | nil => exact absurd hk List.not_mem_nil
  | cons t ts ih =>
    rcases List.mem_cons.1 hk with rfl | hk
    · exact State.rdField_foldl_flag_mem_of_one w ts (s.rdField_flag_self _ o w)
    · exact ih hk _

/-- Invalidation changes registers only (R306). -/
theorem State.invalidated_eq (s : State) : s.invalidated = { s with regs := s.invalidated.regs } := State.foldl_flag_mem _ _ _ s

@[simp] theorem State.invalidated_boot (s : State) : s.invalidated.boot = s.boot := by rw [State.invalidated_eq]

/-- After it MEM.STAT.INIT of every tile reads 1 (R306). -/
theorem State.rdField_invalidated (s : State) {k : Nat} (hk : k ∈ s.tileIds) : s.invalidated.rdField (.mem k) 0x004 3 3 = 1 :=
  State.rdField_foldl_flag_mem hk _ (by decide) s

/-- PWROK_RISE with the power off turns it on, samples the straps and invalidates the caches (R377, R440, R306). -/
theorem exec_pwrokRise_off {s : State} (off : s.boot.powered = false) : ∃ t : State, exec .pwrokRise s = s.ends t ∧
    t.boot.powered = true ∧ t.boot.bootSel = s.pins.bootSel ∧ t.boot.pairEn = s.pins.pairEn ∧ t.boot.since = s.now ∧
    (∀ k ∈ s.tileIds, t.rdField (.mem k) 0x004 3 3 = 1) ∧ t = { s with boot := t.boot, regs := t.regs } := by
  refine ⟨s.risen.invalidated, by rw [exec_pwrokRise, off]; rfl, ?_⟩
  rw [State.invalidated_boot]
  exact ⟨rfl, rfl, rfl, rfl, fun k hk => s.risen.rdField_invalidated hk, s.risen.invalidated_eq⟩

/-! ### The failure of a tile -/

theorem exec_tileFailure (t : TileId) (s : State) : exec (.tileFailure t) s =
    s.ends (if !s.hasTile t || s.boot.failed.contains t.val then s else s.tileFails t) := rfl

/-- A tile of the part that had not failed is treated as failed. -/
theorem exec_tileFailure_fails {s : State} {t : TileId} (has : s.hasTile t = true) (whole : t.val ∉ s.boot.failed) :
    exec (.tileFailure t) s = s.ends (s.tileFails t) := by
  rw [exec_tileFailure, if_neg (by simp [has, whole])]

/-- A tile that fails the start leaves every controller with CFS and without RDY, and PHASE reads FAILED (R378). -/
theorem State.failTile_effects (s : State) (t : Nat) : (s.failTile t).boot.startFailed = true ∧ t ∈ (s.failTile t).boot.failed ∧
    (s.failTile t).rdField .glb 0x300 3 0 = 9 ∧ ∀ c ∈ (s.failTile t).host.ctrls, c.cfs = true ∧ c.rdy = false := by
  refine ⟨rfl, List.mem_append_right _ List.mem_cons_self, State.rdField_wrField_self _ .glb 0x300 (by decide) (by decide) 9, ?_⟩
  intro c hc
  obtain ⟨d, -, rfl⟩ := List.mem_map.1 hc
  exact ⟨rfl, Bool.and_false _⟩

/-! ### The statement -/

/-- What a function's reset ends and drops, before its sessions drain: its commands, its carriers and its log. -/
theorem State.resetFn_clears (s : State) (f : FnId) :
    let v := (s.host.tracks.filter fun t => t.key.fn == f).foldl State.endTrack s
    let w := (v.dropCarriers fun c => c.fn == some f).clearFuncLog f
    (∀ t ∈ v.host.tracks, t.key.fn ≠ f) ∧ v.mem = s.mem ∧ v.fuses = s.fuses ∧
    (∀ q ∈ w.lmcs.inFlight ++ w.lmcs.started, q.car.fn ≠ some f) ∧ (∀ o ∈ w.lmcs.owners, o.1.fn ≠ some f) ∧
    (∀ p ∈ w.lmcs.pending, p.1.fn ≠ some f) ∧ w.funcLog f = [] := by
  obtain ⟨reqs, owners, pend⟩ :=
    ((s.host.tracks.filter fun t => t.key.fn == f).foldl State.endTrack s).dropCarriers_fn f
  exact ⟨s.endTracks_fn f, State.foldl_endTrack_mem _ s, State.foldl_endTrack_fuses _ s, reqs, owners, pend,
    State.funcLog_clearFuncLog _ f⟩

/-- Settles O47: a clause for each command, by what it leaves. -/
theorem resetCommands : Obligations.ResetCommands := by
  unfold Obligations.ResetCommands
  refine ⟨fun s f => ?functionReset, fun s f => ⟨fun conf => ?_, fun conf c hc on => exec_ccEn_online conf hc on⟩, fun s => ?perst,
    fun s on bs pe => ?cycle, fun s ns => ?supply, fun s => ?restart, fun s t => ?tile⟩
  case functionReset =>
    obtain ⟨tracks, mem, fuses, reqs, owners, pend, log⟩ := s.resetFn_clears f
    refine ⟨fun c hc => ⟨fun none_ => ?_, fun some_ => ?_⟩, tracks, mem, fuses, reqs, owners, pend, log,
      fun c => ⟨rfl, rfl, rfl, rfl, rfl, rfl, rfl, rfl⟩⟩
    · rw [exec_functionReset hc, none_]; rfl
    · rw [exec_functionReset hc, if_pos some_]; simp only [State.resetFn, beq_iff_eq]
  · rw [exec_ccEn, conf]; rfl
  case perst =>
    obtain ⟨t, run, perst, up, training, hmb, funcs, ptr, ctrls⟩ := exec_perstN s
    exact ⟨t, run, perst, up, training, hmb, funcs, ptr, ctrls, s.endTracks_all⟩
  case cycle =>
    exact ⟨rfl, rfl, rfl, rfl, rfl, rfl, rfl, rfl, rfl, rfl, rfl, rfl, rfl, rfl, rfl, rfl, rfl, rfl, fun i h => s.powerCycle_tile on bs pe h⟩
  case supply =>
    rw [exec_pwrokFall, exec_supplyCollapse, exec_supplyDip]
    refine ⟨fun short => by rw [if_pos short], fun long => by rw [if_neg (Nat.not_lt.2 long)], fun off => by rw [off]; rfl,
      fun on short => by rw [on, if_pos short]; rfl, fun on long => by rw [on, if_neg (Nat.not_lt.2 long)]; rfl,
      fun on high => ⟨s.log 0 0 5 8 0 ns, by simp [on, high], rfl, s.log_mem_events 0 0 5 8 0 ns⟩, fun low => ?_⟩
    rw [decide_eq_false (Nat.not_le.2 low), Bool.and_false]; rfl
  case restart =>
    rw [exec_parkRestart]
    exact ⟨fun on => by rw [exec_pwrokRise, if_pos on], exec_pwrokRise_off, fun run => by rw [run]; rfl,
      fun parked => ⟨_, by rw [parked]; rfl, rfl, rfl⟩⟩
  case tile =>
    refine ⟨fun h => ?_, fun has whole => ⟨fun early => ?_, fun late => ?_⟩, s.failTile_effects t⟩
    · rw [exec_tileFailure, if_pos (by simpa using h)]
    · rw [exec_tileFailure_fails has whole, State.tileFails, early]; rfl
    · rw [exec_tileFailure_fails has whole, State.tileFails, late]; rfl

end Sys2Proof.Machine
end

section
/-! PROOF. The fuse bank (R11, R341, R351, R352, Table 15.8): what the end of a command makes of it, and that every step ends so. -/

namespace Sys2Proof.Machine

open Sys2Proof

/-! ### The bank after a command -/

/-- A key in use stays, or its entry is spent (R352). -/
theorem OwnerEntry.advance_inUse (k : List Byte) (e : OwnerEntry) :
    (OwnerEntry.inUse k).advance e = .inUse k ∨ (OwnerEntry.inUse k).advance e = .spent := by
  rw [OwnerEntry.advance]
  split
  · exact .inr rfl
  · exact .inl rfl

/-- An owner entry of the bank after a command, from the entry before it. -/
theorem Fuses.getElem?_owners_advance (old new : Fuses) (i : Nat) :
    (old.advance new).owners[i]? = (old.owners[i]?).map fun e => e.advance (new.owners.getD i e) :=
  List.getElem?_mapIdx

/-- F stays within its 128 steps, and no owner entry is added or lost. -/
theorem Fuses.bounded_advance {old : Fuses} (h : old.bounded) (new : Fuses) : (old.advance new).bounded := by
  obtain ⟨steps, entries⟩ := h
  exact ⟨Nat.max_le.2 ⟨steps, Nat.min_le_left _ _⟩, List.length_mapIdx.trans entries⟩

/-- A bank follows itself. -/
theorem Fuses.follows_refl (f : Fuses) : f.follows f := ⟨Nat.le_refl _, Nat.le_refl _, fun _ => ⟨id, fun _ => .inl⟩, rfl⟩

/-- The bank after a command follows the bank before it, whatever the command would make of it. -/
theorem Fuses.follows_advance (old new : Fuses) : old.follows (old.advance new) where
  rollback := Nat.le_max_left _ _
  alarms := Nat.le_max_left _ _
  owners i := by
    rw [Fuses.getElem?_owners_advance]
    refine ⟨fun spent => ?_, fun k inUse => ?_⟩
    · rw [spent]; rfl
    · rw [inUse]
      exact (OwnerEntry.advance_inUse k _).imp (congrArg some) (congrArg some)
  made := rfl

/-! ### Every step -/

/-- The meaning of every command ends in `State.ends`, which alone advances the bank (assumption 18). -/
theorem exec_ends (c : Instr) (s : State) : ∃ t, exec c s = s.ends t := by
  cases c <;> exact ⟨_, rfl⟩

/-- The bank after a step: as it was when the block idles, and advanced by the command at the front of the queue. -/
theorem step_fuses {s t : State} (h : step s = .next t) : t.fuses = s.fuses ∨ ∃ new, t.fuses = s.fuses.advance new := by
  unfold step at h
  split at h
  next => obtain rfl := Host.Outcome.next.inj h; exact .inl s.idle_fuses
  next c cs _ =>
    obtain ⟨u, hu⟩ := exec_ends c { s with pending := cs }
    obtain rfl := Host.Outcome.next.inj (hu.symm.trans h)
    exact .inr ⟨u.fuses, rfl⟩

/-- Settles O3: a step leaves the bank, or advances it. -/
theorem fuseBankMovesOneWay : Obligations.FuseBankMovesOneWay := by
  unfold Obligations.FuseBankMovesOneWay
  intro s t bounded h
  rcases step_fuses h with same | ⟨new, advanced⟩
  · rw [same]; exact ⟨bounded, s.fuses.follows_refl⟩
  · rw [advanced]; exact ⟨Fuses.bounded_advance bounded new, s.fuses.follows_advance new⟩

end Sys2Proof.Machine
end

section
/-! PROOF. The retry of a cipher queue engine whose second read meets a poisoned word (R308, R419, assumption 123). -/

namespace Sys2Proof.Machine

open Sys2Proof

/-- Two answers that are the same have the same tiles. -/
theorem State.tileAt_of_ends_eq {s u v : State} (h : s.ends u = s.ends v) (t : Nat) : u.tileAt t = v.tileAt t := by
  have ended : s.ended u = s.ended v := by injection h
  have tiles : u.tiles = v.tiles := by simpa only [State.ended_tiles] using congrArg State.tiles ended
  simp only [State.tileAt, tiles]

/-- Giving up the unit of work retires nothing. -/
theorem State.dropHeld_cqe_retired (s : State) (t : TileId) :
    ((s.dropHeld t .cqe).tileAt t).cqe.retired = (s.tileAt t).cqe.retired := by
  simp [State.dropHeld, State.onCqe, State.onTileAt, State.onTile, State.tileAt, List.getD_eq_getElem?_getD]

/-- A cipher queue engine in service whose held request reads a poisoned word gives it up, however the repetition would end: that read is
charged to the memory (R308). -/
theorem exec_engineParityRetry_cqe_poisoned {s : State} {t : TileId} {w : Nat × List Byte} (here : s.hasTile t = true)
    (held : (s.tileAt t).cqe.held = some w) (idle : s.engineIdle t .cqe = true) (poison : s.heldPoison t .cqe = true) (ok : Bool) :
    exec (.engineParityRetry t .cqe ok) s = s.ends (s.dropHeld t .cqe) := by
  obtain ⟨running, retired⟩ : (s.tileAt t).cqe.running = none ∧ (s.tileAt t).cqe.retired = none := by
    simpa [State.engineIdle] using idle
  have unfolded : exec (.engineParityRetry t .cqe ok) s = execEngineParityRetry t .cqe ok s := rfl
  rw [unfolded, execEngineParityRetry]
  simp [here, held, running, retired, poison]

/-- The device after reset whose cipher queue engine of T0 holds a TAGCHECK of the word at 0, which is poisoned. -/
def State.holdingPoison : State :=
  ({ State.reset with mem := { State.reset.mem with poison := [memKey 0 0] } } : State).onCqe 0 fun x => { x with held := some (0, [4]) }

/-- Refutes O58: no premise of its clauses shuts out held work that reads a poisoned word. On `State.holdingPoison` a repetition that fails
gives the request up and retires no engine, where the clause on the cipher queue engine wants it retired. -/
theorem not_engineAndLinkRetries : ¬ Obligations.EngineAndLinkRetries := by
  unfold Obligations.EngineAndLinkRetries
  rintro ⟨-, retries, -⟩
  have here : State.holdingPoison.hasTile (0 : TileId) = true := by decide +kernel
  have held : (State.holdingPoison.tileAt (0 : TileId)).cqe.held = some (0, [4]) := by decide +kernel
  have running : (State.holdingPoison.tileAt (0 : TileId)).cqe.running = none := by decide +kernel
  have retired : (State.holdingPoison.tileAt (0 : TileId)).cqe.retired = none := by decide +kernel
  have poison : State.holdingPoison.heldPoison (0 : TileId) .cqe = true := by decide +kernel
  have idle : State.holdingPoison.engineIdle (0 : TileId) .cqe = true := by decide +kernel
  obtain ⟨-, -, -, -, -, cqe, -⟩ := retries State.holdingPoison 0 false here
  obtain ⟨-, u, answer, retires, -⟩ := cqe 0 [4] held running retired
  rw [exec_engineParityRetry_cqe_poisoned here held idle poison] at answer
  rw [← State.tileAt_of_ends_eq answer, State.dropHeld_cqe_retired, retired] at retires
  exact absurd retires (by decide)

end Sys2Proof.Machine
end

section
/-! PROOF. Standard I/O commands (R17 to R19, R26, R46, R59, R60, R62, R63, R66, R78, R227, R307, R315): what a doorbell, a fetch, each
standard command and each fragment does, case by case. -/

namespace Sys2Proof.Machine

open Sys2Proof

/-! ### Doorbells (R26, R392) -/

section
variable {s : State} {f : FnId} {i : Fin 8192} {v : BitVec 16} {c : Controller} (hc : s.host.ctrl f = some c)
include hc

/-- A doorbell before CSTS.RDY is ignored. -/
theorem exec_doorbellWrite_notReady (off : c.rdy = false) : exec (.doorbellWrite f i v) s = s.ends s := by
  refine congrArg s.ends ?_
  simp only [hc, off]
  rfl

variable (on : c.rdy = true)
include on

/-- The tail doorbell of no queue is reported. -/
theorem exec_doorbellWrite_noSq (even : i.val % 2 = 0) (none_ : c.sq (i.val / 2) = none) :
    exec (.doorbellWrite f i v) s = s.ends (s.raiseOn f 0 0 1) := by
  refine congrArg s.ends ?_
  simp only [hc, on, even, none_]
  rfl

/-- A tail out of range is reported. -/
theorem exec_doorbellWrite_sqRange {x : SubQueue} (even : i.val % 2 = 0) (hx : c.sq (i.val / 2) = some x) (out : x.size ≤ v.toNat) :
    exec (.doorbellWrite f i v) s = s.ends (s.raiseOn f 0 1 1) := by
  refine congrArg s.ends ?_
  simp only [hc, on, even, hx, if_pos out]
  rfl

/-- A tail in range is the queue's new tail. -/
theorem exec_doorbellWrite_tail {x : SubQueue} (even : i.val % 2 = 0) (hx : c.sq (i.val / 2) = some x) (in_ : v.toNat < x.size) :
    exec (.doorbellWrite f i v) s = s.ends (s.onCtrl f fun c => { c with
      sqs := c.sqs.map fun y => if y.qid = i.val / 2 then { y with tail := v.toNat } else y }) := by
  refine congrArg s.ends ?_
  simp only [hc, on, even, hx, if_neg (Nat.not_le.2 in_)]
  rfl

/-- A head in range is the completion queue's new head. -/
theorem exec_doorbellWrite_head {x : ComQueue} (odd : i.val % 2 = 1) (hx : (c.cqs.find? fun y => y.qid == i.val / 2) = some x)
    (in_ : v.toNat < x.size) : exec (.doorbellWrite f i v) s = s.ends (s.onCtrl f fun c => { c with
      cqs := c.cqs.map fun y => if y.qid = i.val / 2 then { y with head := v.toNat } else y }) := by
  refine congrArg s.ends ?_
  simp only [hc, on, odd, hx, if_neg (Nat.not_le.2 in_)]
  rfl

end

/-! ### Fetching (R17, R46, R59, R60) -/

/-- A rotating arbiter with one requester grants it, wherever its pointer stands. -/
theorem rotate_beq {n j : Nat} (h : j < n) (p : Nat) : rotate n p (fun i => j == i) = some j := by
  have reaches : (p + (j + n - p % n) % n) % n = j := by
    have below : p % n < n := Nat.mod_lt _ (by omega)
    rw [Nat.add_mod, Nat.mod_mod, ← Nat.add_mod, ← Nat.mod_add_mod, show p % n + (j + n - p % n) = j + n by omega, Nat.add_mod_right,
      Nat.mod_eq_of_lt h]
  have found : (rotate n p fun i => j == i).isSome = true := by
    refine List.find?_isSome.2 ⟨j, List.mem_map.2 ⟨(j + n - p % n) % n, List.mem_range.2 (Nat.mod_lt _ (by omega)), reaches⟩, ?_⟩
    exact beq_self_eq_true j
  obtain ⟨i, hi⟩ := Option.isSome_iff_exists.1 found
  rw [hi, ← eq_of_beq (List.find?_some hi)]

/-- With no requester it grants none. -/
theorem rotate_false (n p : Nat) : rotate n p (fun _ => false) = none := List.find?_eq_none.2 fun _ _ => Bool.false_ne_true

/-- The state in which an entry has been fetched on a port: tracked, its queue moved on, the arbiters' pointers behind it, ACT asserted. -/
def State.fetched (s : State) (port : Fin 2) (x : FetchCand) : State :=
  let i := x.key.fn.num.val
  let s1 := s.onCtrl x.key.fn fun c => { c with
    sqs := c.sqs.map fun q => if q.qid = x.key.sq then { q with head := (q.head + 1) % max 1 q.size } else q
    sqPtr := (x.key.sq + 1) % 4096 }
  { s1 with
    pins := { s1.pins with act := true }
    host := { s1.host with
      tracks := s1.host.tracks ++ [{ key := x.key, sqe := x.sqe, epoch := s.islandEpoch (48 + port.val) }]
      fetchPtr := if port.val = 0 then ((i + 1) % 128, s1.host.fetchPtr.2) else (s1.host.fetchPtr.1, (i + 1) % 128) } }

/-- The controller of a fetched entry: the entry's queue has moved on, and the next queue has its turn. -/
theorem State.ctrl_fetched {s : State} {x : FetchCand} {c : Controller} (hc : s.host.ctrl x.key.fn = some c) (port : Fin 2) :
    (s.fetched port x).host.ctrl x.key.fn = some { c with
      sqs := c.sqs.map fun q => if q.qid = x.key.sq then { q with head := (q.head + 1) % max 1 q.size } else q
      sqPtr := (x.key.sq + 1) % 4096 } := by
  have moved := HostSide.ctrl_onCtrl_self s.host (f := x.key.fn) (g := fun c => { c with
    sqs := c.sqs.map fun q => if q.qid = x.key.sq then { q with head := (q.head + 1) % max 1 q.size } else q
    sqPtr := (x.key.sq + 1) % 4096 }) fun _ => rfl
  rw [hc] at moved
  exact moved

/-- A device that has stopped fetches nothing. -/
theorem exec_commandFetch_stopped {s : State} (stopped : s.host.stopped = true) (port : Fin 2) (r : List FetchCand) :
    exec (.commandFetch port r) s = s.ends s := by
  refine congrArg s.ends ?_
  simp only [stopped, Bool.true_or, if_true]

/-- An entry that may not be fetched is not. -/
theorem exec_commandFetch_unfetchable {s : State} {port : Fin 2} {x : FetchCand} (no : s.fetchable port.val x = false) :
    exec (.commandFetch port [x]) s = s.ends s := by
  refine congrArg s.ends ?_
  simp [no, rotate_false]

/-- The only entry that may be fetched is: an unsupported one ends at once, and any other has its descriptor read. -/
theorem exec_commandFetch_one {s : State} {port : Fin 2} {x : FetchCand} (runs : s.host.stopped = false)
    (room : s.host.tracks.length < 65536) (may : s.fetchable port.val x = true) : exec (.commandFetch port [x]) s =
      s.ends (if x.sqe.opc.toNat ∈ ioOpcodes then (s.fetched port x).descCheck x else (s.fetched port x).fail x.key .invalidOpcode) := by
  have unfolded : exec (.commandFetch port [x]) s = execCommandFetch port [x] s := rfl
  rw [unfolded, execCommandFetch]
  simp [runs, Nat.not_le.2 room, may, rotate_beq x.key.fn.num.isLt, firstBy, State.fetched]

/-! ### The descriptor of a vendor command (R227, R307, R315) -/

/-- Only the descriptor of a vendor command is read, and a clean one changes nothing. -/
theorem State.descCheck_clean {s : State} {x : FetchCand} (h : x.desc = .clean ∨ x.sqe.opc.toNat < 0x80) : s.descCheck x = s := by
  unfold State.descCheck
  rcases h with h | h <;> simp [h]

/-- The session store's word of a session of the part. -/
theorem State.privArray_session {s : State} {snum : Nat} (h : snum < s.n * 32768) :
    s.privArray (0x40000000 + snum / 32768 * 0x01000000 + 0x800000 + snum % 32768 * 32) = some (snum / 32768, 0) := by
  unfold State.privArray
  rw [if_pos (by omega)]
  simp only
  rw [if_pos (by omega), Option.some.injEq, Prod.mk.injEq]
  exact ⟨by omega, rfl⟩

/-- A word of the session store that no remap entry serves, found poisoned: it is logged, and its session revoked. -/
theorem State.arrayCheck_session_ue {s : State} {snum : Nat} (h : snum < s.n * 32768) {a : Nat}
    (ha : a = 0x40000000 + snum / 32768 * 0x01000000 + 0x800000 + snum % 32768 * 32) (free : ∀ r ∈ s.mem.remap, r.2.2 ≠ a) (req : Nat) :
    s.arrayCheck a req .ue = (true, (s.memError (snum / 32768) a 1 6 req 127 false).loseSession snum) := by
  have word : a / 8 * 8 = a := by omega
  have num : snum / 32768 * 32768 + (a % 0x01000000 - 0x800000) / 32 = snum := by omega
  have served : ((s.mem.remap.filter fun r => r.1 == snum / 32768 && r.2.1 == 0).any fun r => r.2.2 == a) = false := by
    simpa [List.any_eq_false] using fun x y z hr _ _ => free (x, y, z) hr
  unfold State.arrayCheck
  rw [ha, State.privArray_session h, ← ha]
  simp [word, num, served]

/-- The lost descriptor of a session in force: the word is logged, the session revoked, and the command ends with C8h and 83h. -/
theorem State.descCheck_lost {s : State} {x : FetchCand} {snum a : Nat} (hs : snum = x.sqe.cdw2.toNat % 2 ^ 18)
    (ha : a = 0x40000000 + snum / 32768 * 0x01000000 + 0x800000 + snum % 32768 * 32) (lost : x.desc = .ue)
    (vendor : 0x80 ≤ x.sqe.opc.toNat) (part : snum < s.n * 32768) (free : ∀ r ∈ s.mem.remap, r.2.2 ≠ a)
    (ses : (s.sessionOf x.sqe.cdw2.toNat x.key.fn).isSome = true) :
    s.descCheck x = ((s.memError (snum / 32768) a 1 6 12 127 false).loseSession snum).finish (Cqe.of x.key .sachetFault 0 0x83 []) := by
  unfold State.descCheck
  simp only [← hs, ← ha, lost, State.arrayCheck_session_ue part ha free 12, ses]
  rw [if_neg (by simp [Nat.not_lt.2 vendor, Nat.not_le.2 part])]
  rfl

/-! ### READ and COMPARE (R19) -/

/-- The two commands that read blocks, each with its opcode. -/
def readRows (k : CmdKey) (env : MediaEnv) : List (Instr × Byte) := [(.read k env, 0x02), (.compare k env, 0x05)]

section
variable {s u : State} {k : CmdKey} {t : Track} {env : MediaEnv} {st : NvmeStatus} {ns : Namespace}

/-- A read that fails its checks ends with the first failed one. -/
theorem exec_readRow_refused {c : Instr × Byte} (hc : c ∈ readRows k env) (a : Tracked s k c.2 t) (h : s.ioCheck t = (st, none)) :
    exec c.1 s = s.ends (s.fail k st) := by
  simp only [readRows, List.mem_cons, List.not_mem_nil, or_false] at hc
  rcases hc with rfl | rfl
  all_goals
    refine congrArg s.ends ?_
    rw [State.withTrack_tracked a, h]

/-- A read of a lost block ends with Unrecovered Read Error. -/
theorem exec_readRow_lost {c : Instr × Byte} (hc : c ∈ readRows k env) (a : Tracked s k c.2 t) (h : s.ioCheck t = (st, some ns))
    (lost : s.readBlocks ns env t.sqe.slba t.sqe.nlb = (none, u)) : exec c.1 s = s.ends (u.fail k .unrecoveredRead) := by
  simp only [readRows, List.mem_cons, List.not_mem_nil, or_false] at hc
  rcases hc with rfl | rfl
  all_goals
    refine congrArg s.ends ?_
    rw [State.withTrack_tracked a, h]
    simp only [lost]

/-- READ of blocks whose protection information agrees ends with their data. -/
theorem exec_read_data {d m : List Byte} (a : Tracked s k 0x02 t) (h : s.ioCheck t = (st, some ns))
    (read : s.readBlocks ns env t.sqe.slba t.sqe.nlb = (some (d, m), u)) (pi : piCheck ns t.sqe d m = .success) :
    exec (.read k env) s = s.ends (u.finish { Cqe.of k .success 0 0 d with md := if t.sqe.pract then [] else m }) := by
  refine congrArg s.ends ?_
  rw [State.withTrack_tracked a, h]
  simp only [read, pi]

/-- COMPARE of such blocks ends with the comparison. -/
theorem exec_compare_data {d m : List Byte} (a : Tracked s k 0x05 t) (h : s.ioCheck t = (st, some ns))
    (read : s.readBlocks ns env t.sqe.slba t.sqe.nlb = (some (d, m), u)) (pi : piCheck ns t.sqe d m = .success) :
    exec (.compare k env) s = s.ends (u.fail k (if d = fit d.length t.sqe.data then .success else .compareFailure)) := by
  refine congrArg s.ends ?_
  rw [State.withTrack_tracked a, h]
  simp only [read, pi]

end

/-! ### WRITE, WRITE_ZEROES and DATASET_MANAGEMENT (R17, R62, R66, R78) -/

/-- The three commands that send fragments, each with its opcode. -/
def writeRows (k : CmdKey) : List (Instr × Byte) := [(.write k, 0x01), (.writeZeroes k, 0x08), (.datasetManagement k, 0x09)]

section
variable {s : State} {k : CmdKey} {t : Track} {st : NvmeStatus} {ns : Namespace}

/-- One that has sent its fragments waits for them. -/
theorem exec_writeRow_started {c : Instr × Byte} (hc : c ∈ writeRows k) (a : Tracked s k c.2 t) (on : t.started = true) :
    exec c.1 s = s.ends s := by
  simp only [writeRows, List.mem_cons, List.not_mem_nil, or_false] at hc
  rcases hc with rfl | rfl | rfl
  all_goals
    refine congrArg s.ends ?_
    rw [State.withTrack_tracked a, if_pos on]

/-- One that nothing may write ends with the status that says so. -/
theorem exec_writeRow_gated {c : Instr × Byte} (hc : c ∈ writeRows k) (a : Tracked s k c.2 t) (new : t.started = false)
    (gate : s.writeGate t.sqe.nsid.toNat = st) (shut : st ≠ .success) : exec c.1 s = s.ends (s.fail k st) := by
  simp only [writeRows, List.mem_cons, List.not_mem_nil, or_false] at hc
  rcases hc with rfl | rfl | rfl
  all_goals
    refine congrArg s.ends ?_
    rw [State.withTrack_tracked a, if_neg (by rw [new]; exact Bool.false_ne_true), gate]
    split
    · contradiction
    · rfl

/-- WRITE that fails its checks ends with the first failed one. -/
theorem exec_write_refused (a : Tracked s k 0x01 t) (new : t.started = false) (gate : s.writeGate t.sqe.nsid.toNat = .success)
    (h : s.ioCheck t = (st, none)) : exec (.write k) s = s.ends (s.fail k st) := by
  refine congrArg s.ends ?_
  rw [State.withTrack_tracked a, new, gate, h]
  rfl

/-- WRITE that passes them, with protection information that agrees, sends its fragments. -/
theorem exec_write_starts (a : Tracked s k 0x01 t) (new : t.started = false) (gate : s.writeGate t.sqe.nsid.toNat = .success)
    (h : s.ioCheck t = (st, some ns)) (pi : t.sqe.pract = true ∨
      piCheck ns t.sqe (fit (t.sqe.nlb * ns.blockSize) t.sqe.data) (fit (mdMoved ns t.sqe) t.sqe.md) = .success) :
    exec (.write k) s = s.ends (s.startFrags k (fragsOf s.n ns (t.sqe.slba * ns.blockSize) 4 (t.sqe.nlb * ns.blockSize))) := by
  refine congrArg s.ends ?_
  have agrees : (if t.sqe.pract then NvmeStatus.success else
      piCheck ns t.sqe (fit (t.sqe.nlb * ns.blockSize) t.sqe.data) (fit (mdMoved ns t.sqe) t.sqe.md)) = .success := by
    split
    · rfl
    · exact pi.resolve_left ‹_›
  rw [State.withTrack_tracked a, new, gate, h]
  simp only [agrees]
  rfl

/-- WRITE_ZEROES that passes its checks sends its fragments. -/
theorem exec_writeZeroes_starts (a : Tracked s k 0x08 t) (new : t.started = false) (gate : s.writeGate t.sqe.nsid.toNat = .success)
    (h : s.nsCheck t.key.fn t.sqe.nsid.toNat t.sqe.slba t.sqe.nlb = (st, some ns)) : exec (.writeZeroes k) s =
      s.ends (s.startFrags k (fragsOf s.n ns (t.sqe.slba * ns.blockSize) (t.sqe.nlb + 2) (t.sqe.nlb * ns.blockSize))) := by
  refine congrArg s.ends ?_
  rw [State.withTrack_tracked a, new, gate]
  simp only [h]
  rfl

/-- DATASET_MANAGEMENT of a range beyond the namespace. -/
theorem exec_datasetManagement_range (a : Tracked s k 0x09 t) (new : t.started = false)
    (gate : s.writeGate t.sqe.nsid.toNat = .success) (h : s.nsCheck t.key.fn t.sqe.nsid.toNat 0 0 = (st, some ns))
    (out : ∃ r ∈ dsmRanges t.sqe, ns.blocks < r.1 + r.2) : exec (.datasetManagement k) s = s.ends (s.fail k .lbaOutOfRange) := by
  refine congrArg s.ends ?_
  have some_ : ((dsmRanges t.sqe).any fun r => ns.blocks < r.1 + r.2) = true := by simpa using out
  rw [State.withTrack_tracked a, new, gate]
  simp only [h, some_]
  rfl

/-- DATASET_MANAGEMENT of ranges of the namespace: with AD it sends the fragments of each, without it nothing changes. -/
theorem exec_datasetManagement_inRange (a : Tracked s k 0x09 t) (new : t.started = false)
    (gate : s.writeGate t.sqe.nsid.toNat = .success) (h : s.nsCheck t.key.fn t.sqe.nsid.toNat 0 0 = (st, some ns))
    (in_ : ∀ r ∈ dsmRanges t.sqe, r.1 + r.2 ≤ ns.blocks) (ptr : dataPtrStatus t.sqe.dptr (16 * (dsmRanges t.sqe).length) 0 = .success) :
    exec (.datasetManagement k) s = s.ends (if bitN t.sqe.cdw11.toNat 2 = false then s.fail k .success else s.startFrags k
      ((dsmRanges t.sqe).flatMap fun r => fragsOf s.n ns (r.1 * ns.blockSize) (r.2 + 2) (r.2 * ns.blockSize))) := by
  refine congrArg s.ends ?_
  have none_ : ((dsmRanges t.sqe).any fun r => ns.blocks < r.1 + r.2) = false := by simpa using in_
  rw [State.withTrack_tracked a, new, gate]
  simp only [h, ptr, none_, Bool.not_eq_true']
  rfl

end

/-! ### FLUSH (R63) -/

section
variable {s : State} {k : CmdKey} {t : Track} {st : NvmeStatus} {ns : Namespace}

/-- FLUSH of one namespace in Protected mode ends at once. -/
theorem exec_flush_protected (a : Tracked s k 0x00 t) (h : s.nsCheck t.key.fn t.sqe.nsid.toNat 0 0 = (st, some ns))
    (prot : s.protected_ = true) : exec (.flush k) s = s.ends (s.fail k .success) := by
  refine congrArg s.ends ?_
  rw [State.withTrack_tracked a]
  simp [h, prot]

/-- A namespace without a mirror keeps no FLUSH of it waiting. -/
theorem State.mirrors_any_eq_false {nsid : Nat} (h : s.mirrorDef nsid = none) (p : MirrorDef → Bool) :
    (s.cfg.body.mirrors.any fun m => m.nsid == nsid && p m) = false := by
  refine List.any_eq_false.2 fun m hm => ?_
  simp [List.find?_eq_none.1 h m hm]

/-- FLUSH of a namespace without a mirror in Unprotected mode, with every committed write of it in flash, programs the journal of every
tile and ends. -/
theorem exec_flush_settled (a : Tracked s k 0x00 t) (h : s.nsCheck t.key.fn t.sqe.nsid.toNat 0 0 = (st, some ns))
    (one : t.sqe.nsid ≠ 0xFFFFFFFF) (prot : s.protected_ = false) (alone : s.mirrorDef t.sqe.nsid.toNat = none)
    (inFlash : ∀ x ∈ s.tiles.toList, ∀ g ∈ x.ftl.staged, g.commit = true → g.key.nsx + 1 ≠ t.sqe.nsid.toNat) :
    exec (.flush k) s = s.ends ((s.tileIds.foldl (fun (u : State) t => u.pushOut t fun _ => false) s).fail k .success) := by
  have all : (t.sqe.nsid == 0xFFFFFFFF) = false := beq_eq_false_iff_ne.2 one
  have none_ : (s.tiles.toList.any fun x => x.ftl.staged.any fun g => g.commit && g.key.nsx + 1 == t.sqe.nsid.toNat) = false := by
    refine List.any_eq_false.2 fun x hx => ?_
    simpa using inFlash x hx
  refine congrArg s.ends ?_
  rw [State.withTrack_tracked a]
  simp only [h, prot, all, none_, Bool.false_or, State.mirrors_any_eq_false alone]
  rfl

end

/-! ### Fragments (R17, R18, R62, R78, R136) -/

/-- The staged changes that a fragment makes on its tile. -/
def State.fragChanges (s : State) (k : CmdKey) (tr : Track) (ns : Namespace) (f : Frag) : List Staged :=
  (grainsOf ns f).filterMap fun g => (s.stageOf ns tr (tr.sqe.slba * ns.blockSize) f g).map fun kd =>
    (⟨⟨ns.nsx, (grainPlace s.n ns.nsid g).2⟩, kd, some k, tr.group, tr.epoch.toNat, false, none⟩ : Staged)

/-- Whether a tile has the space that R136 charges for some changes. -/
def State.fits (s : State) (t : TileId) (ns : Namespace) (changes : List Staged) : Bool :=
  s.judge t ns.nsid (sumOf (changes.map fun g => g.units)) (changes.map fun g => g.key)

/-- Whether the index builder of a tile has no room for the tuples of an indexed namespace (R78). -/
def State.indexBusy (s : State) (t : TileId) (ns : Namespace) : Bool := (s.tileAt t).idx.full && (s.indexDecl ns.nsid).isSome

/-- The state with a fragment of a command judged: phase `p`, status `st`. -/
def State.markFrag (s : State) (k : CmdKey) (f : Frag) (p : Nat) (st : NvmeStatus) : State :=
  s.onTrack k fun x => { x with frags := x.frags.map fun y => if y = f then { y with phase := p, stat := st } else y }

section
variable {s : State} {k : CmdKey} {tr : Track} {t : TileId} {f : Frag} {ns : Namespace}

/-- A fragment waits while the overlay of its tile is full (R102). -/
theorem exec_fragmentStaged_full (here : s.track k = some tr) (sent : (tr.frags.find? fun f => f.tile == t.val && f.phase == 0) = some f)
    (hns : s.nsOf tr.sqe.nsid.toNat = some ns) (full : (s.tileAt t).ftl.full = true) :
    exec (.fragmentStaged k t) s = s.ends s := by
  refine congrArg s.ends ?_
  simp only [here, sent, hns, full]
  rfl

/-- A fragment that fits, and of an indexed namespace finds room for its tuples, is staged. -/
theorem exec_fragmentStaged_staged (here : s.track k = some tr)
    (sent : (tr.frags.find? fun f => f.tile == t.val && f.phase == 0) = some f) (hns : s.nsOf tr.sqe.nsid.toNat = some ns)
    (room : (s.tileAt t).ftl.full = false) (fits : tr.sqe.opc ≠ 0x01 ∨ s.fits t ns (s.fragChanges k tr ns f) = true)
    (free : s.indexBusy t ns = false) : exec (.fragmentStaged k t) s = s.ends (((s.markFrag k f 1 .success).onTile t fun x =>
      { x with ftl := { x.ftl with staged := x.ftl.staged ++ s.fragChanges k tr ns f } }).judged k) := by
  have ok : ((tr.sqe.opc != 0x01 || s.fits t ns (s.fragChanges k tr ns f)) && !s.indexBusy t ns) = true := by
    simpa [free] using fits
  refine congrArg s.ends ?_
  simp only [State.fits, State.fragChanges, State.indexBusy] at ok
  simp only [here, sent, hns, room, ok, beq_iff_eq, Bool.false_eq_true, if_true, if_false]
  rfl

/-- One that does not is refused for space. -/
theorem exec_fragmentStaged_refused (here : s.track k = some tr)
    (sent : (tr.frags.find? fun f => f.tile == t.val && f.phase == 0) = some f) (hns : s.nsOf tr.sqe.nsid.toNat = some ns)
    (room : (s.tileAt t).ftl.full = false)
    (no : tr.sqe.opc = 0x01 ∧ s.fits t ns (s.fragChanges k tr ns f) = false ∨ s.indexBusy t ns = true) :
    exec (.fragmentStaged k t) s = s.ends ((s.markFrag k f 2 .capacityExceeded).judged k) := by
  have bad : ((tr.sqe.opc != 0x01 || s.fits t ns (s.fragChanges k tr ns f)) && !s.indexBusy t ns) = false := by
    rcases no with ⟨opc, small⟩ | busy
    · simp [opc, small]
    · simp [busy]
  refine congrArg s.ends ?_
  simp only [State.fits, State.fragChanges, State.indexBusy] at bad
  simp only [here, sent, hns, room, bad, beq_iff_eq, Bool.false_eq_true, if_false]
  rfl

end

/-- The only fragment of a command, unfinished, is the one that its tile reports. -/
theorem find?_unfinished {f : Frag} {t : Nat} (tile : f.tile = t) (unfinished : f.phase ≠ 3) :
    ([f].find? fun f => f.tile == t && f.phase != 3) = some f := by
  simp [tile, unfinished]

section
variable {s : State} {k : CmdKey} {tr : Track} {t : TileId} {f : Frag} (here : s.track k = some tr) (tile : f.tile = t.val)
  (only : tr.frags = [f])
include here tile only

/-- A staged fragment does not complete before the commit point. -/
theorem exec_fragmentComplete_uncommitted (before : tr.committed = false) (staged : f.phase = 1) :
    exec (.fragmentComplete k t .success) s = s.ends s := by
  refine congrArg s.ends ?_
  simp only [here, only, find?_unfinished tile (by omega : f.phase ≠ 3)]
  simp [staged, before]

variable (alone : tr.mseq = none) (settled : s.mirrWaits (.cmd k) = false)
include alone settled

/-- A refused fragment ends its command with its status, and what was staged is dropped. -/
theorem exec_fragmentComplete_refused (before : tr.committed = false) (refused : f.phase = 2) (failed : f.stat ≠ .success)
    (st : NvmeStatus) : exec (.fragmentComplete k t st) s = s.ends ((s.discard k).fail k f.stat) := by
  refine congrArg s.ends ?_
  simp only [here, only, find?_unfinished tile (by omega : f.phase ≠ 3)]
  simp [refused, before, alone, settled, failed, sortBy, insertBy]

variable (after : tr.committed = true) (staged : f.phase = 1) (st : NvmeStatus)
include after staged

/-- A committed fragment that need not be durable ends its command with success. -/
theorem exec_fragmentComplete_committed (cached : s.writeThrough tr = false) :
    exec (.fragmentComplete k t st) s = s.ends (s.fail k .success) := by
  refine congrArg s.ends ?_
  simp only [here, only, find?_unfinished tile (by omega : f.phase ≠ 3)]
  simp [staged, after, alone, settled, cached, sortBy, insertBy]

/-- One that must be durable and is not waits, with filler placed (R62, R115). -/
theorem exec_fragmentComplete_notDurable (through : s.writeThrough tr = true) (waits : s.durable k = false) :
    exec (.fragmentComplete k t st) s = s.ends (s.pushOut t fun x => x.staged.any fun g => g.cmd == some k) := by
  refine congrArg s.ends ?_
  simp only [here, only, find?_unfinished tile (by omega : f.phase ≠ 3)]
  simp [staged, after, alone, settled, through, waits]

/-- One that must be durable and is ends its command with success, the journal's tail programmed. -/
theorem exec_fragmentComplete_durable (through : s.writeThrough tr = true) (durable : s.durable k = true) :
    exec (.fragmentComplete k t st) s = s.ends ((s.pushOut t fun _ => false).fail k .success) := by
  refine congrArg s.ends ?_
  simp only [here, only, find?_unfinished tile (by omega : f.phase ≠ 3)]
  simp [staged, after, alone, settled, through, durable, sortBy, insertBy]

end

/-! ### The statement -/

/-- Settles O45: a clause for each case of a command, by the lemma of that case. -/
theorem standardIoCommands : Obligations.StandardIoCommands := by
  unfold Obligations.StandardIoCommands
  refine ⟨fun s f i v c hc => ?doorbell, fun s port x => ?fetch, fun s k t env => ?command, fun s k tr t f here tile => ?fragment⟩
  case doorbell =>
    exact ⟨exec_doorbellWrite_notReady hc,
      fun on even => ⟨exec_doorbellWrite_noSq hc on even, fun x hx => ⟨exec_doorbellWrite_sqRange hc on even hx,
        exec_doorbellWrite_tail hc on even hx⟩⟩,
      fun on odd x hx => exec_doorbellWrite_head hc on odd hx⟩
  case fetch =>
    exact ⟨fun stopped => exec_commandFetch_stopped stopped port, exec_commandFetch_unfetchable,
      fun runs room may => ⟨s.fetched port x, exec_commandFetch_one runs room may, rfl, fun c hc => State.ctrl_fetched hc port, rfl⟩,
      State.descCheck_clean, State.descCheck_lost rfl rfl⟩
  case command =>
    have reads : (.read k env, 0x02) ∈ readRows k env ∧ (.compare k env, 0x05) ∈ readRows k env := by simp [readRows]
    have writes : (.write k, 0x01) ∈ writeRows k ∧ (.writeZeroes k, 0x08) ∈ writeRows k ∧
        (.datasetManagement k, 0x09) ∈ writeRows k := by simp [writeRows]
    obtain ⟨read, compare⟩ := reads
    obtain ⟨write, zeroes, dsm⟩ := writes
    refine ⟨fun st no => ⟨fun a => exec_readRow_refused read a no, fun a => exec_readRow_refused compare a no⟩,
      fun st ns u h lost => ⟨fun a => exec_readRow_lost read a h lost, fun a => exec_readRow_lost compare a h lost⟩,
      fun st ns d m u h data pi => ⟨fun a => exec_read_data a h data pi, fun a => exec_compare_data a h data pi⟩,
      fun on => ⟨fun a => exec_writeRow_started write a on, fun a => exec_writeRow_started zeroes a on,
        fun a => exec_writeRow_started dsm a on⟩,
      fun new st gate shut => ⟨fun a => exec_writeRow_gated write a new gate shut, fun a => exec_writeRow_gated zeroes a new gate shut,
        fun a => exec_writeRow_gated dsm a new gate shut⟩,
      fun new gate => ⟨fun a => ⟨fun st no => exec_write_refused a new gate no, fun st ns h pi => exec_write_starts a new gate h pi⟩,
        fun a st ns h => exec_writeZeroes_starts a new gate h, fun a st ns h => ⟨exec_datasetManagement_range a new gate h,
          fun in_ ptr => ⟨fun keep => ?_, fun deallocate => ?_⟩⟩⟩,
      fun a st ns h one => ⟨exec_flush_protected a h, exec_flush_settled a h one⟩⟩
    · rw [exec_datasetManagement_inRange a new gate h in_ ptr, if_pos keep]
    · rw [exec_datasetManagement_inRange a new gate h in_ ptr, if_neg (by simp [deallocate])]
  case fragment =>
    exact ⟨fun sent ns hns => ⟨exec_fragmentStaged_full here sent hns, fun room => ⟨exec_fragmentStaged_staged here sent hns room,
        exec_fragmentStaged_refused here sent hns room⟩⟩,
      fun only alone settled => ⟨exec_fragmentComplete_uncommitted here tile only,
        exec_fragmentComplete_refused here tile only alone settled,
        fun after staged st => ⟨exec_fragmentComplete_committed here tile only alone settled after staged st,
          exec_fragmentComplete_notDurable here tile only alone settled after staged st,
          exec_fragmentComplete_durable here tile only alone settled after staged st⟩⟩⟩

end Sys2Proof.Machine
end

section
/-! PROOF. The cinch (R45 to R49): what GO does and who wins it, what a stall leaves, and the adoption of an island. -/

namespace Sys2Proof.Machine

open Sys2Proof

/-! ### GO (R45, R48) -/

/-- GO is refused while a cinch is pending or retained. -/
theorem State.cinchGo_refused {s : State} (h : (s.cinch.pending || s.cinch.retained) = true) :
    s.cinchGo = { s with cinch := { s.cinch with rej := true } } := if_pos h

/-- GO with no cinch under way begins one. -/
theorem State.cinchGo_begins {s : State} (h : (s.cinch.pending || s.cinch.retained) = false) : s.cinchGo = { s with
    regs := { s.regs with effPend := s.regs.cells.filter fun x => s.isRws x.1 }
    cinch := { s.cinch with pend := s.cinch.cur + 1, pending := true, mask := s.offMask } } :=
  if_neg (by rw [h]; exact Bool.false_ne_true)

/-- The mask that gathers the islands of a list that are off has a bit for each of them, beside those that it had. -/
theorem State.getLsbD_foldl_offMask (s : State) (l : List Nat) (m : BitVec 52) {i : Nat} (h : i < 52) :
    (l.foldl (fun (m : BitVec 52) i => if s.islandOn i then m else m ||| islandBit i) m).getLsbD i = true ↔
      m.getLsbD i = true ∨ i ∈ l ∧ s.islandOn i = false := by
  induction l generalizing m with
  | nil => simp
  | cons j js ih =>
    rw [List.foldl_cons, ih]
    by_cases same : i = j
    · subst same
      cases on : s.islandOn i <;> simp [islandBit, h]
    · have other : ¬ j = i := fun e => same e.symm
      cases on : s.islandOn j <;> simp [islandBit, same, other]

/-- The mask at GO has the bits of the islands that are absent or off. -/
theorem State.getLsbD_offMask (s : State) {i : Nat} (h : i < 52) : s.offMask.getLsbD i = true ↔ s.islandOn i = false := by
  rw [State.offMask, State.getLsbD_foldl_offMask s _ _ h]
  simp [h]

/-- A requester that alone asks is the only one that the arbiter sees. -/
theorem State.cinchAsks_alone {s : State} {w : Fin 9} (h : s.cinchAsks [w] w.val = true) : s.cinchAsks [w] = fun i => w.val == i := by
  funext i
  by_cases e : w.val = i
  · subst e; simpa using h
  · simp [State.cinchAsks, e]

/-- A requester that alone asks wins, and no one else sets REJ. -/
theorem exec_cinchGo_alone {s : State} {w : Fin 9} (h : s.cinchAsks [w] w.val = true) :
    exec (.cinchGo [w]) s = s.ends ({ s with cinch := { s.cinch with ptr := (w.val + 1) % 9 } } : State).cinchGo := by
  have others : ((List.range 9).any fun i => i != w.val && w.val == i) = false := by
    refine List.any_eq_false.2 fun i _ => ?_
    by_cases e : w.val = i <;> simp [e]
  refine congrArg s.ends ?_
  simp only [State.cinchAsks_alone h, rotate_beq w.isLt, others, Bool.false_eq_true, if_false]

/-! ### A stall (R48) -/

/-- Logging for each unit of a list changes the logs only. -/
theorem State.foldl_log_eq (l : List Nat) (src : Nat → Nat) (s : State) :
    l.foldl (fun (s : State) i => s.log 0 0 5 (src i) i 0) s =
      { s with logs := (l.foldl (fun (s : State) i => s.log 0 0 5 (src i) i 0) s).logs } := by
  induction l generalizing s with
  | nil => rfl
  | cons x xs ih => rw [List.foldl_cons, ih]; rfl

/-- A stall of a pending cinch sets STALL and logs. -/
theorem exec_cinchStall_pending {s : State} (h : s.cinch.pending = true) : ∃ t : State, exec .cinchStall s = s.ends t ∧
    t.cinch = { s.cinch with stall := true } ∧ t = { s with cinch := t.cinch, logs := t.logs } := by
  have logged := State.foldl_log_eq ({ s with cinch := { s.cinch with stall := true } } : State).missing
    (fun i => if i < 48 then i / 6 else 8) { s with cinch := { s.cinch with stall := true } }
  refine ⟨_, congrArg s.ends (if_pos h), ?_, ?_⟩ <;> rw [logged]

/-! ### Adoption (R47, R48) -/

/-- The state in which an island has set its MASK bit. -/
def State.adoptedBy (s : State) (i : Fin 52) : State :=
  { s with cinch := { s.cinch with mask := s.cinch.mask ||| BitVec.twoPow 52 i.val } }

/-- The state in which the pending epoch is the current one, with its values in force. -/
def State.epochBegun (s : State) : State :=
  { s with
    regs := { s.regs with eff := s.regs.effPend, effPend := s.regs.eff }
    cinch := { s.cinch with cur := s.cinch.pend, pending := false,
                            retained := s.host.tracks.any fun t => t.epoch == s.cinch.cur } }

/-- An island that has not adopted the pending epoch sets its MASK bit. -/
theorem exec_islandAdopt_clear {s : State} {i : Fin 52} (pend : s.cinch.pending = true) (clear : s.cinch.mask.getLsbD i.val = false) :
    exec (.islandAdopt i) s = s.ends (s.adoptedBy i).cinchComplete :=
  congrArg s.ends (if_pos (by rw [pend, clear]; rfl))

/-- A cinch whose MASK is not all ones goes on. -/
theorem State.cinchComplete_waits {s : State} (h : s.cinch.mask ≠ BitVec.allOnes 52) : s.cinchComplete = s :=
  if_neg (by rw [beq_eq_false_iff_ne.2 h, Bool.and_false]; exact Bool.false_ne_true)

/-- A pending cinch whose MASK is all ones ends, and answers what waits for it. -/
theorem State.cinchComplete_ends {s : State} (pend : s.cinch.pending = true) (all : s.cinch.mask = BitVec.allOnes 52) :
    s.cinchComplete = s.epochBegun.cinchRespond := if_pos (by rw [pend, all]; rfl)

/-- With no commit and no message that waits for the cinch, its end answers no one. -/
theorem State.cinchRespond_none {s : State} (commit : s.cfg.commit = none) (started : s.lmcs.started = []) : s.cinchRespond = s := by
  simp [State.cinchRespond, commit, started]

/-- RETAINED stays exactly while a tracked command carries the epoch before. -/
theorem State.epochBegun_retained (s : State) :
    s.epochBegun.cinch.retained = true ↔ ∃ k ∈ s.host.tracks, k.epoch = s.cinch.cur := by
  simp [State.epochBegun]

/-- Settles O35: GO by its two cases, and an adoption by whether it is the last. -/
theorem cinchRule : Obligations.CinchRule := by
  unfold Obligations.CinchRule
  refine ⟨fun s => ⟨State.cinchGo_refused, State.cinchGo_begins, fun i h => s.getLsbD_offMask h, fun w h => exec_cinchGo_alone h,
    exec_cinchStall_pending⟩, fun s i pend clear => ⟨_, exec_islandAdopt_clear pend clear, fun more => ?_,
    fun all commit started => ?_⟩⟩
  · exact State.cinchComplete_waits (s := s.adoptedBy i) more
  · have done : (s.adoptedBy i).cinchComplete = (s.adoptedBy i).epochBegun :=
      (State.cinchComplete_ends (s := s.adoptedBy i) pend all).trans (State.cinchRespond_none commit started)
    rw [done]
    exact ⟨rfl, rfl, rfl, (s.adoptedBy i).epochBegun_retained⟩

end Sys2Proof.Machine
end

section
/-! PROOF. The self-test of a tile whose failed banks exhaust their replacements (R316, R314, R25). -/

namespace Sys2Proof.Machine

open Sys2Proof

/-- The tiles that the state of an answer holds as failed. -/
def failedTilesOf : Out → List Nat
  | .next s => s.boot.failed
  | .fault _ => []
  | .refused _ => []

/-- What a command leaves of the start is what its meaning made of it. -/
theorem failedTilesOf_ends (s t : State) : failedTilesOf (s.ends t) = t.boot.failed := rfl

/-- Failed banks of a tile: one more than the near pool and the six pairs of scratch slices that reset leaves can replace (R314). -/
def tooManyBanks : List (Fin 48) := [0, 1, 2, 3, 4, 5, 6, 7]

/-- From reset, a self-test that finds eight failed banks on T0, with its checkers good, fails the tile: no replacement is left for the
eighth (R314, R25). -/
theorem failedTilesOf_selfTest_tooManyBanks : failedTilesOf (exec (.selfTestComplete 0 tooManyBanks true) State.reset) = [0] := by
  decide

/-- Refutes O48: its clause on a self-test with good checkers lets the start record the tile as tested and nothing else, whatever the
failed banks. On `State.reset` the eighth failed bank finds no replacement, and the tile is failed as well (R314, R25). -/
theorem not_startSequence : ¬ Obligations.StartSequence := by
  unfold Obligations.StartSequence
  rintro ⟨-, selfTest, -⟩
  have starts : State.reset.starting = true := by decide
  have here : State.reset.hasTile (0 : TileId) = true := by decide
  have untested : ((0 : TileId) : Nat) ∉ State.reset.boot.tested := by decide
  have early : State.reset.boot.image = false := by decide
  have whole : State.reset.boot.failed = [] := by decide
  obtain ⟨u, answer, boot, -⟩ := selfTest State.reset 0 tooManyBanks starts here untested early
  have failed : u.boot.failed = [0] := by
    rw [← failedTilesOf_ends State.reset u, ← answer, failedTilesOf_selfTest_tooManyBanks]
  rw [boot] at failed
  exact absurd (whole.symm.trans failed) (by decide)

end Sys2Proof.Machine
end

section
/-! PROOF. The admin commands of a controller (R36, R55, R58, R64, R75, R76, R79, R80, R460, Tables 3.1 to 3.3, assumption 16): what each
does with an entry that reaches a ready controller, case by case. -/

namespace Sys2Proof.Machine

open Sys2Proof

/-! ### The shape of an admin command (R55) -/

/-- The admin commands, each of which looks at its controller first. -/
def adminRows (k : CmdKey) (e : Sqe) : List Instr :=
  [.lmcsSend k e, .lmcsReceive k e, .abort k e true, .identifyCommand k e, .getLogPage k e, .setFeatures k e,
    .getFeatures k e, .createIoCompletionQueue k e, .createIoSubmissionQueue k e, .deleteIoSubmissionQueue k e,
    .deleteIoCompletionQueue k e, .asynchronousEventRequest k e, .firmwareImageDownload k e, .firmwareCommit k e, .deviceSelfTest k e,
    .virtualizationManagement k e, .namespaceManagementCreate k e true, .namespaceManagementDelete k e true,
    .namespaceAttachment k e true, .formatNvm k e true, .sanitize k e true]

section
variable {s : State} {k : CmdKey} {e : Sqe} {c : Controller}

/-- Every admin command is one of the shape that `State.admin` gives. -/
theorem exec_adminRow {i : Instr} (h : i ∈ adminRows k e) (s : State) : ∃ opc body, exec i s = s.ends (s.admin k e opc body) := by
  simp only [adminRows, List.mem_cons, List.not_mem_nil, or_false] at h
  rcases h with rfl | rfl | rfl | rfl | rfl | rfl | rfl | rfl | rfl | rfl | rfl | rfl | rfl | rfl | rfl | rfl | rfl | rfl | rfl | rfl | rfl
  all_goals exact ⟨_, _, rfl⟩

/-- An opcode that the device lacks ends with Invalid Command Opcode. -/
theorem State.admin_unknown {o : Byte} (a : AdminAt s k e o c) (lacks : adminOpcodes.contains o.toNat = false) (opc : Nat)
    (body : Controller → State → State) : s.admin k e opc body = s.acting.ans k .invalidOpcode := by
  have e1 : e.opc.toNat = o.toNat := by rw [a.opc]
  have e2 : o.toNat ∉ adminOpcodes := by simpa using lacks
  simp [State.admin, a.here, a.ready, a.queue, a.runs, e1, e2, State.acting]

/-- On a controller that is not ready nothing happens. -/
theorem State.admin_notReady (here : s.host.ctrl k.fn = some c) (off : c.rdy = false) (opc : Nat) (body : Controller → State → State) :
    s.admin k e opc body = s := by
  simp [State.admin, here, off]

/-- So it does for every admin command. -/
theorem exec_adminRow_unknown {i : Instr} (h : i ∈ adminRows k e) {o : Byte} (a : AdminAt s k e o c)
    (lacks : adminOpcodes.contains o.toNat = false) : exec i s = s.ends (s.acting.ans k .invalidOpcode) := by
  obtain ⟨opc, body, run⟩ := exec_adminRow h s
  rw [run, State.admin_unknown a lacks]

/-- So it is with every admin command. -/
theorem exec_adminRow_notReady {i : Instr} (h : i ∈ adminRows k e) (here : s.host.ctrl k.fn = some c) (off : c.rdy = false) :
    exec i s = s.ends s := by
  obtain ⟨opc, body, run⟩ := exec_adminRow h s
  rw [run, State.admin_notReady here off]

/-- A command whose data pointer agrees with what it moves goes on. -/
theorem State.moving_success {n : Nat} (ptr : dataPtrStatus e.dptr n 0 = .success) (body : State → State) :
    s.moving k e n body = body s := by
  simp only [State.moving, ptr]

end

/-- Asserting ACT leaves what the commands below look at. -/
@[simp] theorem State.acting_tagsInUse (s : State) (f : FnId) : s.acting.tagsInUse f = s.tagsInUse f := rfl
@[simp] theorem State.acting_receiveOf (s : State) (f : FnId) (tag : BitVec 16) : s.acting.receiveOf f tag = s.receiveOf f tag := rfl
@[simp] theorem State.acting_track (s : State) (k : CmdKey) : s.acting.track k = s.track k := rfl
@[simp] theorem State.acting_protected (s : State) : s.acting.protected_ = s.protected_ := rfl

/-! ### LMCS_SEND and LMCS_RECEIVE (R36) -/

section
variable {s : State} {k : CmdKey} {e : Sqe} {c : Controller} {m : LmcsMsg} (a : AdminAt s k e 0xC1 c)
  (ptr : dataPtrStatus e.dptr e.cdw10.toNat 0 = .success) (hm : lmcsOf (fit e.cdw10.toNat e.data) = m)
include a ptr hm

/-- A TAG in use, or a 17th, ends with Command Sequence Error. -/
theorem exec_lmcsSend_refused (h : m.tag ∈ s.tagsInUse k.fn ∨ 16 ≤ (s.tagsInUse k.fn).length) :
    exec (.lmcsSend k e) s = s.ends (s.acting.ans k .commandSequenceError) := by
  refine congrArg s.ends ((State.admin_at a (by decide) _).trans ((State.moving_success ptr _).trans (if_pos ?_)))
  rcases h with used | full
  · simp [hm, used]
  · simp [full]

/-- A free TAG, with fewer than 16 in use, has its request accepted. -/
theorem exec_lmcsSend_accepted (free : m.tag ∉ s.tagsInUse k.fn) (room : (s.tagsInUse k.fn).length < 16) :
    exec (.lmcsSend k e) s = s.ends ((s.acting.ans k .success).accept ⟨.admin k.fn m.tag, m⟩) := by
  subst hm
  refine congrArg s.ends ((State.admin_at a (by decide) _).trans ((State.moving_success ptr _).trans (if_neg ?_)))
  simp [free, Nat.not_le.2 room]

end

section
variable {s : State} {k : CmdKey} {e : Sqe} {c : Controller} {tag : BitVec 16} (a : AdminAt s k e 0xC2 c)
  (ptr : dataPtrStatus e.dptr 0 0 = .success) (ht : BitVec.ofNat 16 e.cdw11.toNat = tag)
include a ptr ht

/-- A TAG that is not in use ends with Command Sequence Error. -/
theorem exec_lmcsReceive_unused (h : tag ∉ s.tagsInUse k.fn) :
    exec (.lmcsReceive k e) s = s.ends (s.acting.ans k .commandSequenceError) := by
  refine congrArg s.ends ((State.admin_at a (by decide) _).trans ((State.moving_success ptr _).trans (if_pos ?_)))
  rw [ht]
  simp [h]

variable (used : tag ∈ s.tagsInUse k.fn) (alone : s.receiveOf k.fn tag = none)
include used alone

/-- The first Receive for a TAG in use waits while the response is not made. -/
theorem exec_lmcsReceive_waits (none_ : (s.lmcs.done.find? fun r => r.req.car == .admin k.fn tag) = none) :
    exec (.lmcsReceive k e) s =
      s.ends { s.acting with lmcs := { s.lmcs with receives := s.lmcs.receives ++ [(k.fn, tag, k, e.cdw10.toNat)] } } := by
  refine congrArg s.ends ((State.admin_at a (by decide) _).trans ((State.moving_success ptr _).trans ?_))
  simp [ht, alone, used, none_]

/-- It takes the response once it is made. -/
theorem exec_lmcsReceive_takes {r : Response} (some_ : (s.lmcs.done.find? fun r => r.req.car == .admin k.fn tag) = some r) :
    exec (.lmcsReceive k e) s = s.ends (({ s.acting with lmcs := { s.lmcs with done := s.lmcs.done.erase r } } : State).deliverReceive k
      e.cdw10.toNat r.req r.status r.payload) := by
  refine congrArg s.ends ((State.admin_at a (by decide) _).trans ((State.moving_success ptr _).trans ?_))
  simp [ht, alone, used, some_]

end

/-! ### ABORT (R75, R76) -/

/-- The command that an ABORT names. -/
def abortTarget (k : CmdKey) (e : Sqe) : CmdKey := ⟨k.fn, e.cdw10.toNat % 65536, BitVec.ofNat 16 (e.cdw10.toNat / 65536)⟩

section
variable {s : State} {k : CmdKey} {e : Sqe} {c : Controller} (a : AdminAt s k e 0x08 c)
include a

/-- An ABORT that loses to the command's own end answers 1. -/
theorem exec_abort_lost : exec (.abort k e false) s = s.ends (s.acting.ans k .success 1) :=
  congrArg s.ends ((State.admin_at a (by decide) _).trans rfl)

variable (io : (abortTarget k e).sq ≠ 0)
include io

/-- One that names no tracked command answers 1. -/
theorem exec_abort_untracked (none_ : s.track (abortTarget k e) = none) :
    exec (.abort k e true) s = s.ends (s.acting.ans k .success 1) := by
  have gone : s.acting.track (abortTarget k e) = none := none_
  refine congrArg s.ends ((State.admin_at a (by decide) _).trans ((if_neg (by decide)).trans ((if_neg io).trans ?_)))
  simp only [abortTarget] at gone
  simp only [gone]

variable {t : Track} (here : s.track (abortTarget k e) = some t)
include here

/-- One that names a command that may not be ended any more answers 1. -/
theorem exec_abort_past (past : s.acting.abortTracked t = none) :
    exec (.abort k e true) s = s.ends (s.acting.ans k .success 1) := by
  have still : s.acting.track (abortTarget k e) = some t := here
  refine congrArg s.ends ((State.admin_at a (by decide) _).trans ((if_neg (by decide)).trans ((if_neg io).trans ?_)))
  simp only [abortTarget] at still
  simp only [still, past]

/-- One that ends its command answers 0. -/
theorem exec_abort_ends {v : State} (ended : s.acting.abortTracked t = some v) :
    exec (.abort k e true) s = s.ends (v.ans k .success 0) := by
  have still : s.acting.track (abortTarget k e) = some t := here
  refine congrArg s.ends ((State.admin_at a (by decide) _).trans ((if_neg (by decide)).trans ((if_neg io).trans ?_)))
  simp only [abortTarget] at still
  simp only [still, ended]

end

/-! ### IDENTIFY_COMMAND and GET_LOG_PAGE (R55, R61, R426) -/

section
variable {s u : State} {k : CmdKey} {e : Sqe} {c : Controller} {st : NvmeStatus} {p : List Byte}

/-- An Identify that the device does not support ends with the status that says so. -/
theorem exec_identify_refused (a : AdminAt s k e 0x06 c) (ptr : dataPtrStatus e.dptr 4096 0 = .success)
    (no : s.acting.identifyData c e = .error st) : exec (.identifyCommand k e) s = s.ends (s.acting.ans k st) := by
  refine congrArg s.ends ((State.admin_at a (by decide) _).trans ((State.moving_success ptr _).trans ?_))
  simp only [no]

/-- Any other gives its data. -/
theorem exec_identify_data (a : AdminAt s k e 0x06 c) (ptr : dataPtrStatus e.dptr 4096 0 = .success)
    (data : s.acting.identifyData c e = .ok (p, u)) : exec (.identifyCommand k e) s = s.ends (u.ans k .success 0 p) := by
  refine congrArg s.ends ((State.admin_at a (by decide) _).trans ((State.moving_success ptr _).trans ?_))
  simp only [data]

/-- CNS 10h from NSID 0 lists every namespace. -/
theorem State.identifyData_namespaces (s : State) (c : Controller) (cns : e.cdw10.toNat % 256 = 0x10) (all : e.nsid = 0) :
    s.identifyData c e =
      .ok (idList (sortBy (fun (a b : Nat) => a < b) ((s.cfg.body.namespaces.map fun n => n.nsid).filter fun i => 0 < i)), s) := by
  unfold State.identifyData
  simp [cns, all]

/-- No CNS above 1Ch is supported. -/
theorem State.identifyData_unknown (s : State) (c : Controller) (cns : 0x1D ≤ e.cdw10.toNat % 256) :
    s.identifyData c e = .error .invalidField := by
  unfold State.identifyData
  generalize e.cdw10.toNat % 256 = n at cns
  simp only
  rw [if_neg (by simp; omega)]
  split
  case h_16 => rfl
  all_goals omega

/-- A log page that is refused ends with its status. -/
theorem exec_getLogPage_refused (a : AdminAt s k e 0x02 c) (no : s.acting.logPage c (e.cdw10.toNat % 256) = .error st) :
    exec (.getLogPage k e) s = s.ends (s.acting.ans k st) := by
  refine congrArg s.ends ((State.admin_at a (by decide) _).trans ?_)
  simp only [no]

/-- Any other gives the bytes asked for, from the offset asked for. -/
theorem exec_getLogPage_data (a : AdminAt s k e 0x02 c) (page : s.acting.logPage c (e.cdw10.toNat % 256) = .ok (p, u))
    (ptr : dataPtrStatus e.dptr ((e.cdw10.toNat / 65536 + e.cdw11.toNat % 65536 * 65536 + 1) * 4) 0 = .success) :
    exec (.getLogPage k e) s = s.ends (u.ans k .success 0
      (fit ((e.cdw10.toNat / 65536 + e.cdw11.toNat % 65536 * 65536 + 1) * 4) (p.drop (e.cdw12.toNat + e.cdw13.toNat * 2 ^ 32)))) := by
  refine congrArg s.ends ((State.admin_at a (by decide) _).trans ?_)
  simp only [page]
  exact State.moving_success ptr _

/-- The saddlebag's page is that of the PF of port A. -/
theorem State.logPage_bag_denied (s : State) (other : c.fn ≠ pfA) : s.logPage c 0xC1 = .error .operationDenied := if_neg other

/-- No page above C5h is known. -/
theorem State.logPage_unknown (s : State) (c : Controller) {i : Nat} (h : 0xC6 ≤ i) : s.logPage c i = .error .invalidLogPage := by
  unfold State.logPage
  split
  case h_10 => rfl
  all_goals omega

end

/-! ### SET_FEATURES (R55, R58, R64, R80, R460) -/

/-- A number below a power of two has that bit clear. -/
theorem bitN_of_div_eq_zero {x n : Nat} (h : x / 2 ^ n = 0) : bitN x n = false := by rw [bitN, h]; rfl

/-- The features whose value is kept as CDW11 gives it. -/
def keptFeatures (v : Word) : List (Nat × (Features → Features)) :=
  [(0x01, fun f => { f with arbitration := v }), (0x05, fun f => { f with errRecovery := v }),
    (0x08, fun f => { f with coalescing := v }), (0x0B, fun f => { f with asyncConfig := v })]

/-- The commands that set one feature, each with its identifier. -/
def featureRows (k : CmdKey) (e : Sqe) : List (Instr × Nat) :=
  [(.setFeaturesNumberOfQueues k e, 7), (.setFeaturesHostMemoryBuffer k e, 0xD), (.setFeaturesVolatileWriteCache k e, 6),
    (.setFeaturesTemperatureThreshold k e, 4)]

/-- A command that sets one feature is SET_FEATURES of that feature, and does nothing with another. -/
theorem exec_featureRow {k : CmdKey} {e : Sqe} {f : Instr × Nat} (h : f ∈ featureRows k e) (s : State) :
    exec f.1 s = if e.cdw10.toNat % 256 = f.2 then exec (.setFeatures k e) s else s.ends s := by
  have shape : exec f.1 s = s.ends (s.oneFeature k e f.2) := by
    simp only [featureRows, List.mem_cons, List.not_mem_nil, or_false] at h
    rcases h with rfl | rfl | rfl | rfl
    all_goals rfl
  rw [shape, State.oneFeature]
  split <;> rfl

/-- SET_FEATURES on a ready controller. -/
theorem exec_setFeatures {s : State} {k : CmdKey} {e : Sqe} {c : Controller} (a : AdminAt s k e 0x09 c) :
    exec (.setFeatures k e) s = s.ends (s.acting.setFeature k e c) := congrArg s.ends (State.admin_at a (by decide) _)

/-- A command that sets one feature, on a ready controller. -/
theorem exec_featureRow_at {s : State} {k : CmdKey} {e : Sqe} {c : Controller} (a : AdminAt s k e 0x09 c) {f : Instr × Nat}
    (h : f ∈ featureRows k e) (fid : e.cdw10.toNat % 256 = f.2) : exec f.1 s = s.ends (s.acting.setFeature k e c) := by
  rw [exec_featureRow h, if_pos fid, exec_setFeatures a]

section
variable (s : State) {k : CmdKey} {e : Sqe} {c : Controller}

/-- SV is refused. -/
theorem State.setFeature_saved (sv : e.cdw10.toNat / 2 ^ 31 = 1) : s.setFeature k e c = s.ans k .featureNotSaveable :=
  if_pos (by rw [bitN, sv]; rfl)

variable (sv : e.cdw10.toNat / 2 ^ 31 = 0)
include sv

/-- A feature that is kept takes its value. -/
theorem State.setFeature_kept {p : Nat × (Features → Features)} (h : p ∈ keptFeatures e.cdw11) (fid : e.cdw10.toNat % 256 = p.1) :
    s.setFeature k e c = (s.onCtrl k.fn fun c => { c with feat := p.2 c.feat }).ans k .success := by
  simp only [keptFeatures, List.mem_cons, List.not_mem_nil, or_false] at h
  unfold State.setFeature
  rcases h with rfl | rfl | rfl | rfl
  all_goals
    simp only at fid
    simp [bitN_of_div_eq_zero sv, fid]

/-! Four features have a course of their own. -/

theorem State.setFeature_vwc (fid : e.cdw10.toNat % 256 = 0x06) : s.setFeature k e c = s.setVwc k e := by
  simp [State.setFeature, bitN_of_div_eq_zero sv, fid]

theorem State.setFeature_queues (fid : e.cdw10.toNat % 256 = 0x07) : s.setFeature k e c = s.setQueues k e c := by
  simp [State.setFeature, bitN_of_div_eq_zero sv, fid]

theorem State.setFeature_hmb (fid : e.cdw10.toNat % 256 = 0x0D) : s.setFeature k e c = s.setHmb k e := by
  simp [State.setFeature, bitN_of_div_eq_zero sv, fid]

theorem State.setFeature_temp (fid : e.cdw10.toNat % 256 = 0x04) : s.setFeature k e c = s.setTemp k e := by
  simp [State.setFeature, bitN_of_div_eq_zero sv, fid]

end

/-- SET_FEATURES of a feature that is kept. -/
theorem exec_setFeatures_kept {s : State} {k : CmdKey} {e : Sqe} {c : Controller} (a : AdminAt s k e 0x09 c)
    (sv : e.cdw10.toNat / 2 ^ 31 = 0) {p : Nat × (Features → Features)} (h : p ∈ keptFeatures e.cdw11) (fid : e.cdw10.toNat % 256 = p.1) :
    exec (.setFeatures k e) s = s.ends ((s.acting.onCtrl k.fn fun c => { c with feat := p.2 c.feat }).ans k .success) := by
  rw [exec_setFeatures a, State.setFeature_kept _ sv h fid]

section
variable (s : State) {k : CmdKey} {e : Sqe} {c : Controller}

/-- Volatile Write Cache is refused in Protected mode. -/
theorem State.setVwc_protected (prot : s.protected_ = true) : s.setVwc k e = s.ans k .invalidField := if_pos prot

/-- In Unprotected mode it takes its value. -/
theorem State.setVwc_unprotected (prot : s.protected_ = false) : s.setVwc k e =
    (s.onCtrl k.fn fun c => { c with feat := { c.feat with vwc := bitN e.cdw11.toNat 0 } }).ans k .success :=
  if_neg (by rw [prot]; exact Bool.false_ne_true)

/-- 65,536 queues are too many to ask for. -/
theorem State.setQueues_invalid (want : max (e.cdw11.toNat % 65536) (e.cdw11.toNat / 65536) = 65535) :
    s.setQueues k e c = s.ans k .invalidField := if_pos want

/-- Queues are never asked for after one exists. -/
theorem State.setQueues_late (want : max (e.cdw11.toNat % 65536) (e.cdw11.toNat / 65536) < 65535) (q : ∃ q ∈ c.sqs, q.qid ≠ 0) :
    s.setQueues k e c = s.ans k .commandSequenceError := by
  have exists_ : (c.sqs.any fun q => q.qid != 0) = true := by simpa using q
  refine (if_neg (Nat.ne_of_lt want)).trans (if_pos ?_)
  rw [exists_, Bool.true_or]

/-- A function without limits of its own gets up to 64 pairs while the pool holds 64. -/
theorem State.setQueues_granted {n : Nat} (want : max (e.cdw11.toNat % 65536) (e.cdw11.toNat / 65536) < 65535)
    (sqs : ∀ q ∈ c.sqs, q.qid = 0) (cqs : ∀ q ∈ c.cqs, q.qid = 0) (unset : s.funcDef k.fn = none)
    (pool : s.pairsTaken k.fn + 64 ≤ 16384) (hn : n = min (max (e.cdw11.toNat % 65536) (e.cdw11.toNat / 65536) + 1) 64) :
    s.setQueues k e c = (s.onCtrl k.fn fun c => { c with granted := n }).ans k .success ((n - 1) * 65537) := by
  have grant : min (min (max (e.cdw11.toNat % 65536) (e.cdw11.toNat / 65536) + 1) 4095) (min 64 (16384 - s.pairsTaken k.fn)) = n := by omega
  have some_ : n ≠ 0 := by omega
  have none_ : ((c.sqs.any fun q => q.qid != 0) || c.cqs.any fun q => q.qid != 0) = false := by
    simpa using ⟨sqs, cqs⟩
  refine (if_neg (Nat.ne_of_lt want)).trans ((if_neg (by rw [none_]; exact Bool.false_ne_true)).trans ?_)
  simp only [unset, grant, if_neg some_]

/-- Only the PF of port A has a host memory buffer. -/
theorem State.setHmb_other (other : k.fn ≠ pfA) : s.setHmb k e = s.ans k .invalidField := if_pos other

/-- It may be withdrawn. -/
theorem State.setHmb_off (pf : k.fn = pfA) (off : bitN e.cdw11.toNat 0 = false) : s.setHmb k e = s.withdrawBag.ans k .success :=
  (if_neg (not_not_intro pf)).trans (if_pos (by rw [off]; rfl))

/-- A second one is refused. -/
theorem State.setHmb_twice (pf : k.fn = pfA) (on : bitN e.cdw11.toNat 0 = true) (has : s.host.hmb.enabled = true) :
    s.setHmb k e = s.ans k .commandSequenceError :=
  (if_neg (not_not_intro pf)).trans ((if_neg (by rw [on]; exact Bool.false_ne_true)).trans (if_pos has))

end

/-! ### The temperature threshold (R460) -/

/-- The PWR registers of two tiles at one offset are apart. -/
theorem regAddr_pwr_ne {t u : Nat} (h : t ≠ u) (o : Nat) : regAddr (.pwr t) o ≠ regAddr (.pwr u) o := by
  simp only [regAddr, Block.base, tileBase]
  omega

/-- A register of one tile's PWR block that holds a value still does after the value was written to that of another tile, or the same. -/
theorem State.rd_wr_pwr_of_eq {s : State} {k o v : Nat} (h : s.rd (.pwr k) o = v % 2 ^ 32) (t : Nat) :
    (s.wr (.pwr t) o v).rd (.pwr k) o = v % 2 ^ 32 := by
  by_cases e : k = t
  · subst e; exact s.rd_wr_self _ o v
  · exact (s.rd_wr_ne (regAddr_pwr_ne e o) v).trans h

/-- The same, after it was written to several tiles. -/
theorem State.rd_foldl_wr_pwr_of_eq {k o v : Nat} (l : List Nat) {s : State} (h : s.rd (.pwr k) o = v % 2 ^ 32) :
    (l.foldl (fun (s : State) t => s.wr (.pwr t) o v) s).rd (.pwr k) o = v % 2 ^ 32 := by
  induction l generalizing s with
  | nil => exact h
  | cons t ts ih => exact ih (State.rd_wr_pwr_of_eq h t)

/-- Once written to some tiles, the value stands in each of them. -/
theorem State.rd_foldl_wr_pwr {l : List Nat} {k : Nat} (hk : k ∈ l) (o v : Nat) (s : State) :
    (l.foldl (fun (s : State) t => s.wr (.pwr t) o v) s).rd (.pwr k) o = v % 2 ^ 32 := by
  induction l generalizing s with
  | nil => exact absurd hk List.not_mem_nil
  | cons t ts ih =>
    rcases List.mem_cons.1 hk with rfl | hk
    · exact State.rd_foldl_wr_pwr_of_eq ts (s.rd_wr_self _ o v)
    · exact ih hk _

/-- Writing registers of some tiles changes registers only. -/
theorem State.foldl_wr_pwr_eq (l : List Nat) (o v : Nat) (s : State) :
    ∃ r, l.foldl (fun (s : State) t => s.wr (.pwr t) o v) s = { s with regs := r } := by
  induction l generalizing s with
  | nil => exact ⟨s.regs, rfl⟩
  | cons t ts ih =>
    obtain ⟨r, written⟩ := ih (s.wr (.pwr t) o v)
    exact ⟨r, written⟩

/-- Changing a controller leaves every register. -/
theorem State.rd_onCtrl (s : State) (f : FnId) (g : Controller → Controller) (b : Block) (o : Nat) :
    (s.onCtrl f g).rd b o = s.rd b o := rfl

/-- A controller changed where only registers had been changes registers and the host side only. -/
theorem State.onCtrl_of_regs {s t : State} {r : RegFile} (h : t = { s with regs := r }) (f : FnId) (g : Controller → Controller) :
    t.onCtrl f g = { s with regs := (t.onCtrl f g).regs, host := (t.onCtrl f g).host } := by
  subst h; rfl

/-- A register that holds 12 bits of a number in range reads as that number. -/
theorem toInt_ofNat_of_word {x : Int} (low : -2048 ≤ x) (high : x ≤ 2047) :
    (BitVec.ofNat 12 ((BitVec.ofInt 12 x).toNat % 2 ^ 32)).toInt = x := by
  have small : (BitVec.ofInt 12 x).toNat < 2 ^ 12 := BitVec.isLt _
  rw [Nat.mod_eq_of_lt (by omega), BitVec.ofNat_toNat, BitVec.setWidth_eq, BitVec.toInt_ofInt]
  exact Int.bmod_eq_of_le (by omega) (by omega)

section
variable (s : State) {k : CmdKey} {e : Sqe} (select : field e.cdw11.toNat 19 16 = 0) (upper : field e.cdw11.toNat 21 20 = 0)
include select upper

/-- A threshold above what TTHR holds is refused. -/
theorem State.setTemp_high (h : 528 < e.cdw11.toNat % 65536) : s.setTemp k e = s.ans k .invalidField :=
  (if_neg (by simp [select])).trans ((if_neg (by simp [upper])).trans (if_pos (by omega)))

/-- One that TTHR holds is written to every tile. -/
theorem State.setTemp_held (low : 17 ≤ e.cdw11.toNat % 65536) (high : e.cdw11.toNat % 65536 ≤ 528) :
    ∃ v : State, s.setTemp k e = v.ans k .success ∧
      (∀ t ∈ s.tileIds, (BitVec.ofNat 12 (v.rd (.pwr t) 0x078)).toInt = (((e.cdw11.toNat % 65536 : Nat) : Int) - 273) * 8) ∧
      v = { s with regs := v.regs, host := v.host } := by
  obtain ⟨r, written⟩ :=
    State.foldl_wr_pwr_eq s.tileIds 0x078 (BitVec.ofInt 12 ((((e.cdw11.toNat % 65536 : Nat) : Int) - 273) * 8)).toNat s
  refine ⟨_, (if_neg (by simp [select])).trans ((if_neg (by simp [upper])).trans ((if_neg (by omega)).trans rfl)), fun t ht => ?_, ?_⟩
  · rw [State.rd_onCtrl, State.rd_foldl_wr_pwr ht]
    exact toInt_ofNat_of_word (by omega) (by omega)
  · exact State.onCtrl_of_regs written _ _

end

/-! ### GET_FEATURES (R55, R58, R64) -/

/-- The features whose value GET_FEATURES gives as it was kept. -/
def valueFeatures (f : Features) : List (Nat × Word) :=
  [(0x01, f.arbitration), (0x05, f.errRecovery), (0x08, f.coalescing), (0x0B, f.asyncConfig)]

section
variable {s : State} {k : CmdKey} {e : Sqe} {c : Controller} (a : AdminAt s k e 0x0A c)
include a

/-- A kept feature is given as it stands. -/
theorem exec_getFeatures_value {p : Nat × Word} (h : p ∈ valueFeatures c.feat) (fid : e.cdw10.toNat % 256 = p.1) :
    exec (.getFeatures k e) s = s.ends (s.acting.ans k .success p.2.toNat) := by
  refine congrArg s.ends ((State.admin_at a (by decide) _).trans ?_)
  simp only [valueFeatures, List.mem_cons, List.not_mem_nil, or_false] at h
  rcases h with rfl | rfl | rfl | rfl
  all_goals
    simp only at fid
    simp only [fid]

/-- Volatile Write Cache is given in Unprotected mode. -/
theorem exec_getFeatures_vwc (fid : e.cdw10.toNat % 256 = 0x06) (prot : s.protected_ = false) :
    exec (.getFeatures k e) s = s.ends (s.acting.ans k .success (if c.feat.vwc then 1 else 0)) := by
  refine congrArg s.ends ((State.admin_at a (by decide) _).trans ?_)
  simp [fid, prot, b2n]

/-- Number of Queues is given once pairs are granted. -/
theorem exec_getFeatures_queues (fid : e.cdw10.toNat % 256 = 0x07) (some_ : c.granted ≠ 0) :
    exec (.getFeatures k e) s = s.ends (s.acting.ans k .success ((c.granted - 1) * 65537)) := by
  refine congrArg s.ends ((State.admin_at a (by decide) _).trans ?_)
  simp only [fid, if_neg some_]

end

/-! ### Queues (R58) -/

section
variable {s : State} {k : CmdKey} {e : Sqe} {c : Controller} {qid : Nat} (hq : e.cdw10.toNat % 65536 = qid)
include hq

/-- A completion queue outside those granted is refused. -/
theorem exec_createCq_range (a : AdminAt s k e 0x05 c) (out : qid = 0 ∨ c.granted < qid) :
    exec (.createIoCompletionQueue k e) s = s.ends (s.acting.ans k .invalidQueueIdentifier) := by
  refine congrArg s.ends ((State.admin_at a (by decide) _).trans (if_pos ?_))
  rw [hq, ← or_assoc]
  exact .inl out

/-- So is a submission queue. -/
theorem exec_createSq_range (a : AdminAt s k e 0x01 c) (out : qid = 0 ∨ c.granted < qid) :
    exec (.createIoSubmissionQueue k e) s = s.ends (s.acting.ans k .invalidQueueIdentifier) := by
  refine congrArg s.ends ((State.admin_at a (by decide) _).trans (if_pos ?_))
  rw [hq, ← or_assoc]
  exact .inl out

section
variable {size cqid : Nat} (hs : e.cdw10.toNat / 65536 + 1 = size) (hc : e.cdw11.toNat / 65536 = cqid)
  (least : 1 ≤ qid) (most : qid ≤ c.granted) (two : 2 ≤ size) (fits : size ≤ 4096)
include hs hc least most two fits

/-- A new completion queue in range, with a vector of the controller, is created. -/
theorem exec_createCq_created (a : AdminAt s k e 0x05 c) (new : ∀ q ∈ c.cqs, q.qid ≠ qid) (vec : cqid < 256) :
    exec (.createIoCompletionQueue k e) s = s.ends ((s.acting.onCtrl k.fn fun c => { c with
      cqs := c.cqs ++ [⟨qid, size, 0, 0, if bitN e.cdw11.toNat 1 then some cqid else none⟩] }).ans k .success 0) := by
  have free : (c.cqs.any fun q => q.qid == qid) = false := by simpa using new
  subst hq hs hc
  refine congrArg s.ends ((State.admin_at a (by decide) _).trans ((if_neg ?_).trans ((if_neg (by omega)).trans (if_neg ?_))))
  · rw [free]; simp; omega
  · simp; omega

/-- A new submission queue in range, that posts to a completion queue that exists, is created. -/
theorem exec_createSq_created (a : AdminAt s k e 0x01 c) (new : ∀ q ∈ c.sqs, q.qid ≠ qid) (cqLeast : 1 ≤ cqid)
    (cqMost : cqid ≤ c.granted) (posts : ∃ q ∈ c.cqs, q.qid = cqid) :
    exec (.createIoSubmissionQueue k e) s = s.ends ((s.acting.onCtrl k.fn fun c => { c with
      sqs := c.sqs ++ [⟨qid, size, cqid, field e.cdw11.toNat 2 1, 0, 0⟩] }).ans k .success 0) := by
  have free : (c.sqs.any fun q => q.qid == qid) = false := by simpa using new
  have there : (c.cqs.any fun q => q.qid == cqid) = true := by simpa using posts
  subst hq hs hc
  refine congrArg s.ends ((State.admin_at a (by decide) _).trans ((if_neg ?_).trans
    ((if_neg (by omega)).trans ((if_neg (by omega)).trans (if_neg ?_)))))
  · rw [free]; simp; omega
  · rw [there]; exact Bool.false_ne_true

end

variable (io : qid ≠ 0)
include io

/-- A submission queue without commands is deleted. -/
theorem exec_deleteSq_deleted (a : AdminAt s k e 0x00 c) (there : ∃ q ∈ c.sqs, q.qid = qid)
    (idle : ∀ t ∈ s.host.tracks, ¬ (t.key.fn = k.fn ∧ t.key.sq = qid)) : exec (.deleteIoSubmissionQueue k e) s =
      s.ends ((s.acting.onCtrl k.fn fun c => { c with sqs := c.sqs.filter fun q => q.qid != qid }).ans k .success 0) := by
  have has : (c.sqs.any fun q => q.qid == qid) = true := by simpa using there
  have none_ : (s.acting.host.tracks.filter fun t => t.key.fn == k.fn && t.key.sq == qid) = [] := by
    simpa [List.filter_eq_nil_iff] using idle
  subst hq
  refine congrArg s.ends ((State.admin_at a (by decide) _).trans ((if_neg ?_).trans ?_))
  · rw [has]; simp [io]
  · simp only [none_, List.foldl_nil]

variable (a : AdminAt s k e 0x04 c) (there : ∃ q ∈ c.cqs, q.qid = qid)
include a there

/-- A completion queue that a submission queue posts to is not deleted. -/
theorem exec_deleteCq_used (used : ∃ q ∈ c.sqs, q.cqid = qid) :
    exec (.deleteIoCompletionQueue k e) s = s.ends (s.acting.ans k .invalidQueueDeletion) := by
  have has : (c.cqs.any fun q => q.qid == qid) = true := by simpa using there
  have posts : (c.sqs.any fun q => q.cqid == qid) = true := by simpa using used
  subst hq
  refine congrArg s.ends ((State.admin_at a (by decide) _).trans ((if_neg ?_).trans (if_pos posts)))
  rw [has]; simp [io]

/-- Any other is. -/
theorem exec_deleteCq_deleted (unused : ∀ q ∈ c.sqs, q.cqid ≠ qid) : exec (.deleteIoCompletionQueue k e) s =
    s.ends ((s.acting.onCtrl k.fn fun c => { c with cqs := c.cqs.filter fun q => q.qid != qid }).ans k .success 0) := by
  have has : (c.cqs.any fun q => q.qid == qid) = true := by simpa using there
  have none_ : (c.sqs.any fun q => q.cqid == qid) = false := by simpa using unused
  subst hq
  refine congrArg s.ends ((State.admin_at a (by decide) _).trans ((if_neg ?_).trans (if_neg ?_)))
  · rw [has]; simp [io]
  · rw [none_]; exact Bool.false_ne_true

end

/-! ### Asynchronous events (R79) -/

section
variable {s : State} {k : CmdKey} {e : Sqe} {c : Controller} (a : AdminAt s k e 0x0C c)
include a

/-- An event that waits is reported at once, the oldest first. -/
theorem exec_asyncEvent_reported {x : Nat × Nat × Nat} {es : List (Nat × Nat × Nat)} (h : c.events = x :: es) :
    exec (.asynchronousEventRequest k e) s = s.ends ((s.acting.onCtrl k.fn fun c => { c with events := es }).ans k .success
      (x.1 + x.2.1 * 256 + x.2.2 * 65536)) := by
  refine congrArg s.ends ((State.admin_at a (by decide) _).trans ?_)
  simp only [h]

variable (none_ : c.events = [])
include none_

/-- Without one the request waits, while fewer than 16 do. -/
theorem exec_asyncEvent_waits (room : c.aers.length < 16) :
    exec (.asynchronousEventRequest k e) s = s.ends (s.acting.onCtrl k.fn fun c => { c with aers := c.aers ++ [k] }) := by
  refine congrArg s.ends ((State.admin_at a (by decide) _).trans ?_)
  simp only [none_, if_neg (Nat.not_le.2 room)]

/-- A 17th is refused. -/
theorem exec_asyncEvent_refused (full : 16 ≤ c.aers.length) :
    exec (.asynchronousEventRequest k e) s = s.ends (s.acting.ans k .asyncLimitExceeded) := by
  refine congrArg s.ends ((State.admin_at a (by decide) _).trans ?_)
  simp only [none_, if_pos full]

end

/-! ### The statement -/

/-- Settles O43: a clause for each command, by the lemma of each of its cases. -/
theorem adminCommands : Obligations.AdminCommands := by
  unfold Obligations.AdminCommands
  intro s k e c
  refine ⟨fun i hi => ⟨fun o a lacks => exec_adminRow_unknown hi a lacks, exec_adminRow_notReady hi⟩, ?send, ?receive, ?abort,
    ?identify, ?logPage, ?setFeatures, ?featureRows, ?getFeatures, ?queues, ?events⟩
  case send =>
    exact fun a ptr => ⟨exec_lmcsSend_refused a ptr rfl, exec_lmcsSend_accepted a ptr rfl⟩
  case receive =>
    exact fun a ptr => ⟨exec_lmcsReceive_unused a ptr rfl, fun used alone => ⟨exec_lmcsReceive_waits a ptr rfl used alone,
      fun r => exec_lmcsReceive_takes a ptr rfl used alone⟩⟩
  case abort =>
    exact fun a => ⟨exec_abort_lost a, exec_abort_untracked a, fun io t here => ⟨exec_abort_past a io here,
      fun v => exec_abort_ends a io here⟩⟩
  case identify =>
    exact fun a ptr => ⟨fun st => exec_identify_refused a ptr, fun p v => exec_identify_data a ptr,
      State.identifyData_namespaces s.acting c, State.identifyData_unknown s.acting c⟩
  case logPage =>
    exact fun a => ⟨fun st => exec_getLogPage_refused a, fun p v => exec_getLogPage_data a, s.acting.logPage_bag_denied, rfl,
      fun i => s.acting.logPage_unknown c⟩
  case setFeatures =>
    intro a
    have rows : (Instr.setFeaturesNumberOfQueues k e, 7) ∈ featureRows k e ∧
        (Instr.setFeaturesHostMemoryBuffer k e, 0xD) ∈ featureRows k e ∧ (Instr.setFeaturesVolatileWriteCache k e, 6) ∈ featureRows k e ∧
        (Instr.setFeaturesTemperatureThreshold k e, 4) ∈ featureRows k e := by simp [featureRows]
    obtain ⟨queues, hmb, vwc, temp⟩ := rows
    refine ⟨fun sv => ?_, fun sv => ⟨exec_setFeatures_kept a sv (.head _), exec_setFeatures_kept a sv (.tail _ (.head _)),
      exec_setFeatures_kept a sv (.tail _ (.tail _ (.head _))), exec_setFeatures_kept a sv (.tail _ (.tail _ (.tail _ (.head _)))),
      fun fid => ?_, fun fid => ?_, fun fid => ?_, fun fid select upper => ?_⟩⟩
    · rw [exec_setFeatures a, State.setFeature_saved _ sv]
    · rw [exec_featureRow_at a vwc fid, State.setFeature_vwc _ sv fid]
      exact ⟨fun prot => congrArg s.ends (s.acting.setVwc_protected prot),
        fun prot => congrArg s.ends (s.acting.setVwc_unprotected prot)⟩
    · rw [exec_featureRow_at a queues fid, State.setFeature_queues _ sv fid]
      exact ⟨fun want => congrArg s.ends (s.acting.setQueues_invalid want),
        fun want q => congrArg s.ends (s.acting.setQueues_late want q),
        fun want sqs cqs unset pool => congrArg s.ends (s.acting.setQueues_granted want sqs cqs unset pool rfl)⟩
    · rw [exec_featureRow_at a hmb fid, State.setFeature_hmb _ sv fid]
      exact ⟨fun other => congrArg s.ends (s.acting.setHmb_other other), fun pf off => congrArg s.ends (s.acting.setHmb_off pf off),
        fun pf on has => congrArg s.ends (s.acting.setHmb_twice pf on has)⟩
    · rw [exec_featureRow_at a temp fid, State.setFeature_temp _ sv fid]
      refine ⟨fun high => congrArg s.ends (s.acting.setTemp_high select upper high), fun low high => ?_⟩
      obtain ⟨v, run, held, frame⟩ := s.acting.setTemp_held select upper low high
      exact ⟨v, congrArg s.ends run, held, frame⟩
  case featureRows =>
    intro f hf
    rw [exec_featureRow hf]
    exact ⟨fun fid => if_pos fid, fun fid => if_neg fid⟩
  case getFeatures =>
    intro a
    have value {p : Nat × Word} (h : p ∈ valueFeatures c.feat) := exec_getFeatures_value a h
    exact ⟨value (.head _), value (.tail _ (.head _)), value (.tail _ (.tail _ (.head _))), value (.tail _ (.tail _ (.tail _ (.head _)))),
      exec_getFeatures_vwc a, exec_getFeatures_queues a⟩
  case queues =>
    exact ⟨fun a least most new two fits vec => exec_createCq_created rfl rfl rfl least most two fits a new vec,
      fun a least most new two fits cqLeast cqMost posts =>
        exec_createSq_created rfl rfl rfl least most two fits a new cqLeast cqMost posts,
      exec_createCq_range rfl, exec_createSq_range rfl, fun a io => exec_deleteSq_deleted rfl io a,
      fun a io there => ⟨exec_deleteCq_used rfl io a there, exec_deleteCq_deleted rfl io a there⟩⟩
  case events =>
    exact fun a => ⟨fun x es => exec_asyncEvent_reported a, exec_asyncEvent_waits a, exec_asyncEvent_refused a⟩

end Sys2Proof.Machine
end

section
/-! PROOF. Register and immediate operations (R259, R260, R262, R263, R266, Tables 12.2 and 12.3): what one that runs leaves,
and the words that the model computes as the numbers that the tables give. -/

namespace Sys2Proof.Machine

open Sys2Proof

/-! ### What an operation that runs leaves -/

section
variable {s : State} {h : ThrId} {x : Thread} {rd ra rb : Reg}

/-- A running register operation gives RD its word and advances. -/
theorem State.regOp_gives (r : Runs s h x) {f : Word → Word → Word} {v : Word} (value : f (x.get ra) (x.get rb) = v) :
    s.regOp h rd ra rb f = s.leaves h (x.put rd v).step := by
  rw [State.regOp_runs r, value]

/-- A running immediate operation gives RD its word and advances. -/
theorem State.compute_gives (r : Runs s h x) {f : Thread → Word} {v : Word} (value : f x = v) :
    (s.compute h fun x => x.put rd (f x)) = s.leaves h (x.put rd v).step := by
  rw [State.compute_runs r, value]

end

/-! ### Shifts and comparisons as arithmetic -/

section
variable {w : Nat}

/-- A shift to the left multiplies. -/
theorem shiftLeft_eq_ofNat (a : BitVec w) (n : Nat) : a <<< n = BitVec.ofNat w (a.toNat * 2 ^ n) :=
  BitVec.eq_of_toNat_eq (by rw [BitVec.toNat_shiftLeft, BitVec.toNat_ofNat, Nat.shiftLeft_eq])

/-- A shift to the right that brings zeros in divides. -/
theorem ushiftRight_eq_ofNat (a : BitVec w) (n : Nat) : a >>> n = BitVec.ofNat w (a.toNat / 2 ^ n) := by
  rw [← Nat.shiftRight_eq_div_pow, ← BitVec.toNat_ushiftRight, BitVec.ofNat_toNat, BitVec.setWidth_eq]

/-- A shift to the right that brings the sign in divides and rounds down. -/
theorem sshiftRight_eq_ofInt (a : BitVec w) (n : Nat) : a.sshiftRight n = BitVec.ofInt w (a.toInt / 2 ^ n) := by
  rw [BitVec.sshiftRight_eq, Int.shiftRight_eq_div_pow, Int.natCast_pow]
  rfl

/-- The word of a comparison. -/
theorem flagWord_decide (p : Prop) [Decidable p] : flagWord (decide p) = if p then 1 else 0 := by
  simp [flagWord]

/-- A product of words is that of their numbers. -/
theorem mul_eq_ofNat (a b : BitVec w) : a * b = BitVec.ofNat w (a.toNat * b.toNat) := by
  simp [BitVec.ofNat_mul]

end

/-! ### Immediates -/

section
variable {m : Nat}

/-- A sign-extended immediate is the word of its number. -/
theorem signExtend_eq_ofInt (imm : BitVec m) : imm.signExtend 32 = BitVec.ofInt 32 imm.toInt := rfl

/-- A sum with a sign-extended immediate is that of the numbers. -/
theorem add_signExtend (a : Word) (imm : BitVec m) : a + imm.signExtend 32 = BitVec.ofInt 32 (a.toInt + imm.toInt) := by
  rw [BitVec.ofInt_add, BitVec.ofInt_toInt, signExtend_eq_ofInt]

/-- An address and a sign-extended count of words beside it. -/
theorem add_signExtend_mul_four (a : Word) (off : BitVec m) :
    a + off.signExtend 32 * 4 = BitVec.ofInt 32 (a.toNat + off.toInt * 4) := by
  rw [BitVec.ofInt_add, BitVec.ofInt_mul, BitVec.ofInt_natCast, BitVec.ofNat_toNat, BitVec.setWidth_eq]
  rfl

/-- Two bits to the left is a product by 4. -/
theorem shiftLeft_two (a : Word) : a <<< 2 = a * 4 := by
  rw [BitVec.shiftLeft_eq_mul_twoPow]
  rfl

end

/-- Settles O7: each operation leaves the word of its table, by the lemma that reads the model's word as that number. -/
theorem operationResults : Obligations.OperationResults := by
  unfold Obligations.OperationResults
  constructor
  · intro s h x rd ra rb r a b out
    refine ⟨(State.regOp_gives r rfl : execAdd h rd ra rb s = _),
      (State.regOp_gives r rfl : execSub h rd ra rb s = _),
      (State.regOp_gives r rfl : execAndR h rd ra rb s = _),
      (State.regOp_gives r rfl : execOrR h rd ra rb s = _),
      (State.regOp_gives r rfl : execXor h rd ra rb s = _),
      (State.regOp_gives r rfl : execNor h rd ra rb s = _),
      (State.regOp_gives r (shiftLeft_eq_ofNat a _) : execSll h rd ra rb s = _),
      (State.regOp_gives r (ushiftRight_eq_ofNat a _) : execSrl h rd ra rb s = _),
      (State.regOp_gives r (sshiftRight_eq_ofInt a _) : execSra h rd ra rb s = _),
      (State.regOp_gives r (flagWord_decide (a.toInt < b.toInt)) : execSlt h rd ra rb s = _),
      (State.regOp_gives r (flagWord_decide (a.toNat < b.toNat)) : execSltu h rd ra rb s = _),
      (State.regOp_gives r (mul_eq_ofNat a b) : execMul h rd ra rb s = _),
      (State.regOp_gives r rfl : execMulh h rd ra rb s = _),
      (State.regOp_gives r rfl : execMulhu h rd ra rb s = _)⟩
  · intro s h x rd ra imm sh up r a out
    have slti : flagWord (a.slt (imm.signExtend 32)) = if a.toInt < imm.toInt then 1 else 0 := by
      rw [BitVec.slt_eq_decide, BitVec.toInt_signExtend_of_le (by decide), flagWord_decide]
    have sltiu := flagWord_decide (a.toNat < (imm.signExtend 32).toNat)
    refine ⟨(State.compute_gives r (add_signExtend a imm) : execAddi h rd ra imm s = _),
      (State.compute_gives r slti : execSlti h rd ra imm s = _),
      (State.compute_gives r sltiu : execSltiu h rd ra imm s = _),
      (State.compute_gives r ?andi : execAndi h rd ra imm s = _),
      (State.compute_gives r ?ori : execOri h rd ra imm s = _),
      (State.compute_gives r ?xori : execXori h rd ra imm s = _),
      (State.compute_gives r (shiftLeft_eq_ofNat a _) : execSlli h rd ra sh s = _),
      (State.compute_gives r (ushiftRight_eq_ofNat a _) : execSrli h rd ra sh s = _),
      (State.compute_gives r (sshiftRight_eq_ofInt a _) : execSrai h rd ra sh s = _),
      (State.compute_gives r ?lui : execLui h rd up s = _),
      (State.compute_gives r ?adrp : execAdrp h rd up s = _)⟩
    case andi => rw [BitVec.ofNat_and, BitVec.ofNat_toNat, BitVec.ofNat_toNat, BitVec.setWidth_eq]
    case ori => rw [BitVec.ofNat_or, BitVec.ofNat_toNat, BitVec.ofNat_toNat, BitVec.setWidth_eq]
    case xori => rw [BitVec.ofNat_xor, BitVec.ofNat_toNat, BitVec.ofNat_toNat, BitVec.setWidth_eq]
    case lui => rw [shiftLeft_eq_ofNat, BitVec.toNat_setWidth_of_le (by decide)]
    case adrp => rw [shiftLeft_two, add_signExtend_mul_four]

end Sys2Proof.Machine
end

section
/-! PROOF. Division (R263): the model's quotients and remainders as those of the two's-complement and unsigned words, and the rule that
they keep. -/

namespace Sys2Proof.Machine

open Sys2Proof

section
variable {a b : Word}

/-- A divisor of zero gives all ones and the dividend. -/
theorem divisions_zero (a : Word) : divS a 0 = 0xFFFFFFFF ∧ remS a 0 = a ∧ divU a 0 = 0xFFFFFFFF ∧ remU a 0 = a := ⟨rfl, rfl, rfl, rfl⟩

/-- The one signed division whose quotient is no word. -/
theorem divisions_overflow : divS 0x80000000 0xFFFFFFFF = 0x80000000 ∧ remS 0x80000000 0xFFFFFFFF = 0 := by decide

/-- The signed quotient by another divisor than zero. -/
theorem divS_eq_sdiv (nonzero : b ≠ 0) : divS a b = a.sdiv b := by
  rw [divS, if_neg nonzero]
  exact BitVec.eq_of_toInt_eq (by rw [wordOf, BitVec.toInt_ofInt, BitVec.toInt_sdiv])

/-- The signed remainder by another divisor than zero. -/
theorem remS_eq_srem (nonzero : b ≠ 0) : remS a b = a.srem b := by
  rw [remS, if_neg nonzero, ← BitVec.toInt_srem, wordOf, BitVec.ofInt_toInt]

/-- The unsigned quotient by another divisor than zero. -/
theorem divU_eq_udiv (nonzero : b ≠ 0) : divU a b = a / b := by
  rw [divU, if_neg nonzero, BitVec.udiv_def]

/-- The unsigned remainder by another divisor than zero. -/
theorem remU_eq_umod (nonzero : b ≠ 0) : remU a b = a % b := by
  rw [remU, if_neg nonzero, BitVec.umod_def]

/-- A remainder toward zero is zero or has the sign of the dividend. -/
theorem tmod_sign (i j : Int) : i.tmod j = 0 ∨ (i.tmod j < 0 ↔ i < 0) := by
  rcases Int.le_total 0 i with pos | neg
  · have := Int.tmod_nonneg j pos
    omega
  · have flipped := Int.tmod_nonneg j (Int.neg_nonneg_of_nonpos neg)
    rw [Int.neg_tmod] at flipped
    have zero : i = 0 → i.tmod j = 0 := fun e => by rw [e, Int.zero_tmod]
    omega

/-- The signed rule: a = quotient × b + remainder, the remainder smaller than b and of a's sign. -/
theorem signed_division (nonzero : b ≠ 0) (fits : ¬ (a = 0x80000000 ∧ b = 0xFFFFFFFF)) :
    a.toInt = (divS a b).toInt * b.toInt + (remS a b).toInt ∧ (remS a b).toInt.natAbs < b.toInt.natAbs ∧
      ((remS a b).toInt = 0 ∨ ((remS a b).toInt < 0 ↔ a.toInt < 0)) := by
  have least : a ≠ BitVec.intMin 32 ∨ b ≠ -1#32 := by
    rcases Classical.not_and_iff_not_or_not.1 fits with ha | hb
    · exact .inl ha
    · exact .inr hb
  have divisor : 0 < b.toInt.natAbs := Int.natAbs_pos.2 fun e => nonzero (BitVec.eq_of_toInt_eq (e.trans BitVec.toInt_zero.symm))
  rw [divS_eq_sdiv nonzero, remS_eq_srem nonzero, BitVec.toInt_sdiv_of_ne_or_ne a b least, BitVec.toInt_srem]
  refine ⟨(Int.tdiv_mul_add_tmod _ _).symm, ?_, tmod_sign _ _⟩
  rw [Int.natAbs_tmod]
  exact Nat.mod_lt _ divisor

/-- The unsigned rule: a = quotient × b + remainder, the remainder smaller than b. -/
theorem unsigned_division (nonzero : b ≠ 0) :
    a.toNat = (divU a b).toNat * b.toNat + (remU a b).toNat ∧ (remU a b).toNat < b.toNat := by
  have divisor : 0 < b.toNat := Nat.pos_of_ne_zero fun e => nonzero (BitVec.eq_of_toNat_eq e)
  rw [divU_eq_udiv nonzero, remU_eq_umod nonzero, BitVec.toNat_udiv, BitVec.toNat_umod]
  exact ⟨(Nat.div_add_mod' _ _).symm, Nat.mod_lt _ divisor⟩

end

/-- Settles O8: the four words are the model's quotients and remainders, with a lemma for each case of the rule. -/
theorem divisionRule : Obligations.DivisionRule := by
  unfold Obligations.DivisionRule
  intro s h x rd ra rb r a b out
  refine ⟨divS a b, remS a b, divU a b, remU a b, State.regOp_gives r rfl, State.regOp_gives r rfl, State.regOp_gives r rfl,
    State.regOp_gives r rfl, fun zero => ?_, fun least minus => ?_, signed_division, unsigned_division⟩
  · rw [zero]; exact divisions_zero a
  · rw [least, minus]; exact divisions_overflow

end Sys2Proof.Machine
end

section
/-! PROOF. Loads, stores and atomic operations (R236, R237, R248, R267, R269, R270, R308, Tables 12.4 and 12.5): what an access that
is refused, one that meets an uncorrectable word and one that succeeds answer, and the instructions that make them. -/

namespace Sys2Proof.Machine

open Sys2Proof

/-! ### The three outcomes of an access -/

section
variable {s : State} {x : Thread} {a n gn : Nat} {ecc : Ecc}

/-- A load that is refused raises its exception and reads nothing. -/
theorem State.load_refused {e : Exc} (refused : x.dataExc .load a n gn = some e) : s.load x a n gn ecc = .error (e, s) := by
  simp only [State.load, refused]

/-- A load answers the little-endian number of the bytes that it reads. -/
theorem State.load_reads {bs : List Byte} {s1 : State} (allowed : x.dataExc .load a n gn = none)
    (reads : s.thrRead x a n ecc = (some bs, s1)) : s.load x a n gn ecc = .ok (leNat bs, s1) := by
  simp only [State.load, allowed, reads]

/-- A load of an uncorrectable word raises MEM_UNCOR. -/
theorem State.load_uncorrectable {s1 : State} (allowed : x.dataExc .load a n gn = none)
    (fails : s.thrRead x a n ecc = (none, s1)) : s.load x a n gn ecc = .error (⟨0x27, some a, szCode n, false, gn, false⟩, s1) := by
  simp only [State.load, allowed, fails]

/-- A store that is refused raises its exception and writes nothing. -/
theorem State.store_refused {e : Exc} (refused : x.dataExc .store a n gn = some e) (v : Word) :
    s.store x a n gn v = .error (e, s) := by
  simp only [State.store, refused]

/-- A store writes the low bytes of its word. -/
theorem State.store_writes (allowed : x.dataExc .store a n gn = none) (v : Word) :
    s.store x a n gn v = .ok (s.thrWrite x a (leBytes n v.toNat)) := by
  simp only [State.store, allowed]

/-- An atomic operation that is refused raises its exception and touches nothing. -/
theorem State.atomic_refused {e : Exc} (refused : x.dataExc .atomic a 4 0 = some e) (f : Word → Word) :
    s.atomic x a ecc f = .error (e, s) := by
  simp only [State.atomic, refused]

/-- An atomic operation answers the word that it reads, and writes the one that it makes of it. -/
theorem State.atomic_swaps {bs : List Byte} {s1 : State} (allowed : x.dataExc .atomic a 4 0 = none)
    (reads : s.thrRead x a 4 ecc = (some bs, s1)) (f : Word → Word) : s.atomic x a ecc f =
      .ok (BitVec.ofNat 32 (leNat bs), s1.thrWrite x a (leBytes 4 (f (BitVec.ofNat 32 (leNat bs))).toNat)) := by
  simp only [State.atomic, allowed, reads]

/-- An atomic operation on an uncorrectable word raises MEM_UNCOR with CAUSE.STORE and writes nothing. -/
theorem State.atomic_uncorrectable {s1 : State} (allowed : x.dataExc .atomic a 4 0 = none)
    (fails : s.thrRead x a 4 ecc = (none, s1)) (f : Word → Word) :
    s.atomic x a ecc f = .error (⟨0x27, some a, 2, true, 0, false⟩, s1) := by
  simp only [State.atomic, allowed, fails]

/-- Every exception of a data access has CAUSE.STORE by the kind of the access. -/
theorem Thread.dataExc_store {acc : Acc} {e : Exc} (h : x.dataExc acc a n gn = some e) : e.store = acc.isStore := by
  simp only [Thread.dataExc] at h
  split at h
  · obtain rfl := Option.some.inj h; rfl
  · split at h
    · obtain rfl := Option.some.inj h; rfl
    · split at h
      · obtain rfl := Option.some.inj h; rfl
      · exact absurd h (by simp)

end

/-! ### The instructions that make an access -/

section
variable {s : State} {h : ThrId} {x : Thread} {rd ra rb : Reg} {imm : BitVec 16} {n : Nat} {ecc : Ecc}

/-- A running load that reads its bytes gives RD the extended value and advances. -/
theorem State.loadOp_reads (r : Runs s h x) {ext : Nat → Word} {bs : List Byte} {s1 : State}
    (allowed : x.dataExc .load (x.ea ra imm) n 0 = none) (reads : (s.issued h).thrRead x (x.ea ra imm) n ecc = (some bs, s1)) :
    s.loadOp h rd ra imm n ecc ext = s.ends (s1.setThr (x.put rd (ext (leNat bs))).step) :=
  State.insn_done r (by simp only [State.load_reads allowed reads])

/-- A running load that is refused raises its exception. -/
theorem State.loadOp_refused (r : Runs s h x) {ext : Nat → Word} {e : Exc} (refused : x.dataExc .load (x.ea ra imm) n 0 = some e) :
    s.loadOp h rd ra imm n ecc ext = s.raises h x e :=
  State.insn_exc r (by simp only [State.load_refused refused])

/-- A running load of an uncorrectable word raises MEM_UNCOR. -/
theorem State.loadOp_uncorrectable (r : Runs s h x) {ext : Nat → Word} {s1 : State}
    (allowed : x.dataExc .load (x.ea ra imm) n 0 = none) (fails : (s.issued h).thrRead x (x.ea ra imm) n ecc = (none, s1)) :
    s.loadOp h rd ra imm n ecc ext = s.ends (s1.raiseExc x ⟨0x27, some (x.ea ra imm), szCode n, false, 0, false⟩) :=
  State.insn_exc r (by simp only [State.load_uncorrectable allowed fails])

/-- A running store that is allowed writes the low bytes of its register and advances. -/
theorem State.storeOp_writes (r : Runs s h x) {rs : Reg} (allowed : x.dataExc .store (x.ea ra imm) n 0 = none) :
    s.storeOp h rs ra imm n = s.ends (((s.issued h).thrWrite x (x.ea ra imm) (leBytes n (x.get rs).toNat)).setThr x.step) :=
  State.insn_done r (by simp only [State.store_writes allowed])

/-- A running store that is refused raises its exception. -/
theorem State.storeOp_refused (r : Runs s h x) {rs : Reg} {e : Exc} (refused : x.dataExc .store (x.ea ra imm) n 0 = some e) :
    s.storeOp h rs ra imm n = s.raises h x e :=
  State.insn_exc r (by simp only [State.store_refused refused])

/-- A running atomic operation writes its word, gives RD the old one and advances. -/
theorem State.atomicOp_swaps (r : Runs s h x) {f : Word → Word → Word → Word} {bs : List Byte} {s1 : State}
    (allowed : x.dataExc .atomic (x.get ra).toNat 4 0 = none)
    (reads : (s.issued h).thrRead x (x.get ra).toNat 4 ecc = (some bs, s1)) {old : Word} (value : BitVec.ofNat 32 (leNat bs) = old) :
    s.atomicOp h rd ra rb ecc f = s.ends ((s1.thrWrite x (x.get ra).toNat
      (leBytes 4 (f old (x.get rb) (x.get rd)).toNat)).setThr (x.put rd old).step) := by
  subst value
  exact State.insn_done r (by simp only [State.atomic_swaps allowed reads])

/-- A running atomic operation that is refused raises its exception. -/
theorem State.atomicOp_refused (r : Runs s h x) {f : Word → Word → Word → Word} {e : Exc}
    (refused : x.dataExc .atomic (x.get ra).toNat 4 0 = some e) : s.atomicOp h rd ra rb ecc f = s.raises h x e :=
  State.insn_exc r (by simp only [State.atomic_refused refused])

/-- A running atomic operation on an uncorrectable word raises MEM_UNCOR. -/
theorem State.atomicOp_uncorrectable (r : Runs s h x) {f : Word → Word → Word → Word} {s1 : State}
    (allowed : x.dataExc .atomic (x.get ra).toNat 4 0 = none) (fails : (s.issued h).thrRead x (x.get ra).toNat 4 ecc = (none, s1)) :
    s.atomicOp h rd ra rb ecc f = s.ends (s1.raiseExc x ⟨0x27, some (x.get ra).toNat, 2, true, 0, false⟩) :=
  State.insn_exc r (by simp only [State.atomic_uncorrectable allowed fails])

end

/-! ### The statement -/

/-- The little-endian bytes of a number are its digits to the base 256. -/
theorem leBytes_eq_map (n v : Nat) : leBytes n v = (List.range n).map fun i => BitVec.ofNat 8 (v / 256 ^ i) := by
  induction n generalizing v with
  | zero => rfl
  | succ n ih =>
    rw [leBytes, ih, List.range_succ_eq_map, List.map_cons, List.map_map]
    simp only [Nat.pow_zero, Nat.div_one, Function.comp_def, Nat.pow_succ', Nat.div_div_eq_div_mul]

/-- Settles O12: every form is a load, a store or an atomic operation of the model's one shape, and the outcomes are those of the shape. -/
theorem memoryInstructions : Obligations.MemoryInstructions := by
  unfold Obligations.MemoryInstructions
  refine ⟨?loads, ?stores, ?atomics⟩
  case loads =>
    intro s h x rd ra imm ecc r a signed forms f form
    have shape : exec f.1 s = s.loadOp h rd ra imm f.2.1 ecc f.2.2 := by
      simp only [forms, List.mem_cons, List.not_mem_nil, or_false] at form
      rcases form with rfl | rfl | rfl | rfl | rfl
      all_goals rfl
    rw [shape]
    exact ⟨fun bs s1 allowed reads => State.loadOp_reads r allowed reads, fun e refused => State.loadOp_refused r refused,
      fun s1 allowed fails => ⟨_, rfl, rfl, State.loadOp_uncorrectable r allowed fails⟩⟩
  case stores =>
    intro s h x rs ra imm r a v byte forms f form
    obtain ⟨shape, bytes⟩ : exec f.1 s = s.storeOp h rs ra imm f.2.1 ∧ leBytes f.2.1 v = f.2.2 := by
      simp only [forms, List.mem_cons, List.not_mem_nil, or_false] at form
      rcases form with rfl | rfl | rfl
      all_goals exact ⟨rfl, leBytes_eq_map _ v⟩
    rw [shape, ← bytes]
    exact ⟨State.storeOp_writes r, fun e refused => State.storeOp_refused r refused⟩
  case atomics =>
    intro s h x rd ra rb ecc r a b d forms f form
    obtain ⟨g, shape, word⟩ : ∃ g, exec f.1 s = s.atomicOp h rd ra rb ecc g ∧ f.2 = fun old => g old b d := by
      simp only [forms, List.mem_cons, List.not_mem_nil, or_false] at form
      rcases form with rfl | rfl | rfl | rfl | rfl
      · exact ⟨fun _ b _ => b, rfl, rfl⟩
      · exact ⟨fun old b _ => old + b, rfl, rfl⟩
      · exact ⟨fun old b _ => old &&& b, rfl, rfl⟩
      · exact ⟨fun old b _ => old ||| b, rfl, rfl⟩
      · exact ⟨fun old b d => if old = d then b else old, rfl, rfl⟩
    rw [shape, word]
    exact ⟨fun bs s1 allowed reads => State.atomicOp_swaps r allowed reads rfl,
      fun e refused => ⟨Thread.dataExc_store refused, State.atomicOp_refused r refused⟩,
      fun s1 allowed fails => ⟨_, rfl, rfl, State.atomicOp_uncorrectable r allowed fails⟩⟩

end Sys2Proof.Machine
end

section
/-! PROOF. Branches, jumps, calls and returns (R238, R240 to R242, R271, R272): where each continues, and what raises an exception first. -/

namespace Sys2Proof.Machine

open Sys2Proof

/-! ### Branches and jumps (R238, R271, R272) -/

section
variable {s : State} {h : ThrId} {x : Thread}

/-- A target is its offset in words from the instruction itself. -/
theorem Thread.target_eq_ofInt {m : Nat} (x : Thread) (off : BitVec m) :
    x.target off = BitVec.ofInt 32 (x.pc.toNat + off.toInt * 4) := add_signExtend_mul_four x.pc off

/-- A running branch continues at its target when its condition holds, and at the next instruction otherwise. -/
theorem State.branch_continues (r : Runs s h x) {ra rb : Reg} {off : BitVec 16} {cond : Word → Word → Bool} {taken : Bool}
    (holds : cond (x.get ra) (x.get rb) = taken) : s.branch h ra rb off cond =
      s.leaves h { x with pc := if taken then BitVec.ofInt 32 (x.pc.toNat + off.toInt * 4) else x.pc + 4 } := by
  rw [State.branch_runs r, holds, Thread.target_eq_ofInt]
  rfl

/-- A running jump to a multiple of 4 continues there. -/
theorem State.jump_continues (r : Runs s h x) {target : Thread → Word} (aligned : (target x).toNat % 4 = 0) :
    (s.insn h fun x s => x.jump (target x) s) = s.leaves h { x with pc := target x } :=
  State.insn_done r (if_neg (not_not_intro aligned))

/-- A running jump to any other address raises FETCH_ALIGN, with the jump itself as EPC. -/
theorem State.jump_misaligned (r : Runs s h x) {target : Thread → Word} (mis : (target x).toNat % 4 ≠ 0) :
    (s.insn h fun x s => x.jump (target x) s) = s.raises h x { code := 0x20, addr := some (target x).toNat } :=
  State.insn_exc r (if_pos mis)

end

/-! ### Calls (R240, R242, R272) -/

section
variable {s : State} {x : Thread} {target : Word} {n : Nat}

/-- A file that the registers fit in needs no spill. -/
theorem State.makeRoom_fits (fits : 24 + x.resident + n ≤ 256) (fuel : Nat) : s.makeRoom x n (fuel + 1) = .ok (x, s) := if_pos fits

/-- A call to a misaligned target raises FETCH_ALIGN. -/
theorem State.callTo_misaligned (mis : target.toNat % 4 ≠ 0) :
    s.callTo x target n = .exc { code := 0x20, addr := some target.toNat } s := if_pos mis

/-- A call from the greatest depth raises WIN_OVER. -/
theorem State.callTo_deepest (aligned : target.toNat % 4 = 0) (deepest : x.wdepth = 65535) :
    s.callTo x target n = .exc { code := 0x30 } s := by
  rw [State.callTo, if_neg (not_not_intro aligned), if_pos deepest]

/-- The thread that a call leaves, from the thread that its spills left: the window slid up, WDEPTH one more, at the target. -/
def Thread.called (x y : Thread) (target : Word) (n : Nat) : Thread :=
  { (y.slideUp n x.after (!x.steward)) with wdepth := x.wdepth + 1, pc := target }

/-- Any other call slides the window over the room that the spills made. -/
theorem State.callTo_slides (aligned : target.toNat % 4 = 0) (shallow : x.wdepth ≠ 65535) {y : Thread} {s1 : State}
    (room : s.makeRoom x n 16 = .ok (y, s1)) : s.callTo x target n = .done (x.called y target n) s1 := by
  rw [State.callTo, if_neg (not_not_intro aligned), if_neg shallow, room]
  rfl

/-- A spill that fails raises its exception. -/
theorem State.callTo_unspilled (aligned : target.toNat % 4 = 0) (shallow : x.wdepth ≠ 65535) {e : Exc}
    (fails : s.makeRoom x n 16 = .error e) : s.callTo x target n = .exc e s := by
  rw [State.callTo, if_neg (not_not_intro aligned), if_neg shallow, fails]

end

/-! ### RET (R241) -/

section
variable {s : State} {h : ThrId} {x : Thread}

/-- RET at WDEPTH 0 raises RETURN. -/
theorem execRet_outermost (r : Runs s h x) (outermost : x.wdepth = 0) : execRet h s = s.raises h x { code := 0x01 } :=
  State.insn_exc r (if_pos outermost)

/-- RET over a resident increment of its mode brings the registers back and continues at the return address. -/
theorem execRet_resident (r : Runs s h x) {i : Incr} {rest : List Incr} (inner : x.wdepth ≠ 0) (top : x.incs = i :: rest)
    (mode : i.user ≠ x.steward) (aligned : i.ret.toNat % 4 = 0) : execRet h s = s.leaves h { x with
      incs := rest, win := (i.regs ++ x.win).take 24, wdepth := x.wdepth - 1, pc := i.ret } := by
  have frame : (s.issued h).retFrame x = .ok (i, { x with incs := rest }, s.issued h) := by
    rw [State.retFrame, top]
    exact if_pos mode
  refine State.insn_done r ?_
  simp only [if_neg inner, frame, aligned, ne_eq, not_true_eq_false, if_false]
  rfl

end

/-- Settles O16: branches and jumps by their one shape, each form of call by the lemma of its case, and RET by the frame that it finds. -/
theorem jumpsCallsAndReturns : Obligations.JumpsCallsAndReturns := by
  unfold Obligations.JumpsCallsAndReturns
  refine ⟨?jumps, ?calls⟩
  case jumps =>
    intro s h x ra rb off far r a b out jump
    have bne : (a != b) = decide (a ≠ b) := decide_not.symm
    have bge : (!a.slt b) = decide (b.toInt ≤ a.toInt) := decide_not.symm.trans (decide_eq_decide.2 Int.not_lt)
    have bgeu : (!a.ult b) = decide (b.toNat ≤ a.toNat) := decide_not.symm.trans (decide_eq_decide.2 Nat.not_lt)
    have jumps {i : Instr} {target : Thread → Word} (shape : exec i s = s.insn h fun x s => x.jump (target x) s) :
        jump i (target x) :=
      ⟨fun aligned => shape.trans (State.jump_continues r aligned),
        fun mis => ⟨_, rfl, rfl, rfl, shape.trans (State.jump_misaligned r mis)⟩⟩
    refine ⟨(State.branch_continues r rfl : execBeq h ra rb off s = _), (State.branch_continues r bne : execBne h ra rb off s = _),
      (State.branch_continues r rfl : execBlt h ra rb off s = _), (State.branch_continues r bge : execBge h ra rb off s = _),
      (State.branch_continues r rfl : execBltu h ra rb off s = _), (State.branch_continues r bgeu : execBgeu h ra rb off s = _), ?_,
      jumps (target := fun x => x.get ra) rfl⟩
    rw [← Thread.target_eq_ofInt]
    exact jumps (target := fun x => x.target far) rfl
  case calls =>
    intro s h x ra off r rel forms
    refine ⟨fun f form => ?_, fun outermost => ⟨_, rfl, rfl, execRet_outermost r outermost⟩,
      fun i rest inner top mode aligned => execRet_resident r inner top mode aligned⟩
    obtain ⟨target, shape, value⟩ : ∃ target : Thread → Word,
        exec f.1 s = (s.insn h fun x s => s.callTo x (target x) f.2.1) ∧ target x = f.2.2 := by
      simp only [forms, List.mem_cons, List.not_mem_nil, or_false] at form
      rcases form with rfl | rfl | rfl | rfl | rfl | rfl | rfl | rfl
      iterate 4 exact ⟨fun x => x.target off, rfl, rfl⟩
      all_goals exact ⟨fun x => x.get ra, rfl, rfl⟩
    rw [shape, ← value]
    exact ⟨fun mis => ⟨_, rfl, rfl, State.insn_exc r (State.callTo_misaligned mis)⟩,
      fun aligned deepest => ⟨_, rfl, State.insn_exc r (State.callTo_deepest aligned deepest)⟩,
      fun aligned shallow => ⟨fun fits => State.insn_done r (State.callTo_slides aligned shallow (State.makeRoom_fits fits 15)),
        fun y s1 room => State.insn_done r (State.callTo_slides aligned shallow room),
        fun e fails => State.insn_exc r (State.callTo_unspilled aligned shallow fails)⟩⟩

end Sys2Proof.Machine
end
